-- ==== Sys2Proof/Word.lean ====
section
/-!
DEFINITION. Word.lean: the words of the SX48 and their plainest arithmetic. Registers are 64 bits (R25), memory is
read in bytes, a line is 64 B and a page 4 KiB (R170, R244).
-/
namespace Sys2Proof

/-- One byte. -/
abbrev Byte := BitVec 8

/-- One register word (R25). -/
abbrev Word := BitVec 64

/-- Bytes of a line. -/
abbrev lineBytes : Nat := 64

/-- Bytes of a page and of a parity unit. -/
abbrev pageBytes : Nat := 4096

/-- Bytes of a granule (R170). -/
abbrev granuleBytes : Nat := 2097152

/-- Bytes of one GiB. -/
abbrev gib : Nat := 1073741824

/-- Host-visible capacity of the module: 1,280 GiB of DPA space (R11). -/
abbrev dpaBytes : Nat := 1280 * gib

end Sys2Proof
end

