-- ==== Sys2Proof/Syntax.lean ====
section
/-!
DEFINITION. Syntax.lean: the commands that reach the module or fall due in it, one constructor per row of
spec/opcode_table.json, and the types of their operands. Generated by a script of the author's from
the opcode table's rows and the operand lists; the docstrings are the rows' summaries.
-/
namespace Sys2Proof

/-- The types of block pages (R24). -/
inductive PageTy where
  | glb | rng | grp | mov | key | vlt | pwr | age | spl | drz | pmu | stw
  | prt | lnq | hsl | mch | cip | lex | par | frn
  deriving DecidableEq, Repr

/-- One block page: its type and instance (R24). -/
structure PageId where
  ty : PageTy
  inst : Nat
  deriving DecidableEq, Repr

/-- Which interface a mailbox or FM-API command came by (R200, R202): the steward function's mailbox, FM-API over the
steward function's link, FM-API over the sideband. -/
inductive Via where
  | steward | fmLink | sideband
  deriving DecidableEq, Repr

/-- The address spaces of a register access: the steward function's BARs and its configuration space (R20 to R22, R193), and the CXL
component registers of a logical device (R167). -/
inductive Space where
  | bar0 | bar2 | bar4 | config
  | component (port ld : Nat)
  deriving DecidableEq, Repr

/-- A register access: where, how many bytes, and the value of a write (`none` reads). -/
structure Access where
  space : Space
  off : Nat
  size : Nat
  val : Option Nat
  deriving DecidableEq, Repr

/-- A March test's finding in a region (R437 to R440): a faulty row or column group at a position, and whether
the mapped spare makes the region pass. -/
structure CellFault where
  column : Bool
  position : Nat
  cured : Bool
  deriving DecidableEq, Repr

/-- What ends input to the module's converters (R418). -/
inductive InputCause where
  | undervoltage | reverse | overvoltage
  deriving DecidableEq, Repr

/-- What a plan measured (R383): the median delay at each 10 mV step from 0.68 V to 0.88 V and at the reference point,
the slowest path, the bank test (voltages in µV at 1 ms and 10 ms and the first step; none where it cannot run), NAND
program time and its die, lane margins, and the rail power and load of the busiest spell. -/
structure PlanMeas where
  delays : List Nat
  dNow : Nat
  dRefPoint : Nat
  dMax : Nat
  worstPath : Nat
  bank : Option (Nat × Nat × Nat)
  tprogNs : Nat
  slowDie : Nat
  lanes : List (Nat × Nat)
  railMw : Nat
  load : Nat
  deriving DecidableEq, Repr

/-- What the power entry stage measures, in the units of R431, and the module's load in watts. -/
structure PwrMeas where
  vin : Nat
  vout : Nat
  iin : Nat
  pin : Nat
  cellMax : Nat
  cellMin : Nat
  fetTemp : Nat
  loadW : Nat
  deriving DecidableEq, Repr


/-- The sender of a CXL.mem message: the port engine, the logical device (direct mode) or source PBR ID (GFD mode), the
message's tag, and whether the flit passed its link IDE check (R165, R180). -/
structure HostSrc where
  port : Nat
  id : Nat
  tag : Nat
  ideOk : Bool
  deriving DecidableEq, Repr

/-- The meta values of CXL.mem requests (R218): I, S and A. -/
inductive MetaVal where
  | i | s | a
  deriving DecidableEq, Repr

/-- What the on-die memory met while the step used it (R435): nothing, words corrected, or a word of a class that cannot
be corrected, with what it belongs to (a line, node, page, port, engine or slot number). -/
inductive SramHit where
  | clean
  | corrected (n : Nat)
  | lost (cls : Nat) (what : Nat)
  deriving DecidableEq, Repr

/-- A line a channel holds (R296, R326): line `n` of pool frame `f`, or a line of a reserved region. -/
inductive LineId where
  | pool (f : Nat) (n : Nat)
  | region (code : Nat) (index : Nat)
  deriving DecidableEq, Repr

/-- Key material of a command (R295): generated, or imported K1, K2 and KMAC as 96 bytes. -/
inductive KeySrc where
  | generate
  | import_ (key : List Byte)
  deriving DecidableEq, Repr

/-- Who releases an extent (R177): a host by its logical device's mailbox, or the fabric manager for a GFD context. -/
inductive Releaser where
  | ld (port : Nat) (ld : Nat)
  | gfd (via : Via) (ctx : Nat)
  deriving DecidableEq, Repr

/-- A journal-window entry (R49). -/
structure WinEntry where
  dataBase : Nat
  dataSize : Nat
  stopDpa : Nat
  id : Nat
  deriving DecidableEq, Repr

/-- One member of the group map (R77). -/
structure Member where
  id : Nat
  st : Nat
  standin : Option Nat
  standEpoch : Nat
  deriving DecidableEq, Repr

/-- The group map (R77). A promote entry is a sender's index and a stage key. -/
structure GMap where
  groupId : Nat
  gen : Nat
  keeper : Nat
  term : Nat
  k : Nat
  m : Nat
  units : Nat
  restripe : Bool
  dissolve : Bool
  tk : Nat
  tm : Nat
  members : List Member
  promote : List (Nat × Nat)
  deriving DecidableEq, Repr

/-- Status of a Berfel response (R135). -/
inductive RspSt where
  | ok | refused | busy | invalid | notHolder | unavailable
  deriving DecidableEq, Repr

/-- A command that Tunnel Management Command carries to a logical device (R184). -/
inductive Tunnelled where
  | addResponse (ext : Nat) (accept : Bool)
  | release (ext : Nat)
  | extentList
  | other
  deriving DecidableEq, Repr

/-- What a HELLO says (R145), with its status prefix (R136). -/
structure Hello where
  version : Nat
  gcm : Bool
  compress : Bool
  width : Nat
  moduleId : Nat
  groupId : Nat
  gen : Nat
  ownInc : Nat
  peerInc : Nat
  limits : List Nat
  applied : Nat
  deriving DecidableEq, Repr
/-- The commands: one constructor per row of spec/opcode_table.json; those that carry operands come first, those without after them. -/
inductive Instr where
  /-- A write to a block-page register field that has no row of its own stores or ignores the value according to its access code (R28). -/
  | registerWrite (a : Access)
  /-- Setting PAGE_CTL.ENABLE moves an OFF block to READY, or is refused when PAGE_CAP.RESET is 0 (R34). -/
  | pageEnableSet (p : PageId)
  /-- Clearing PAGE_CTL.ENABLE stops new work, and the block drains before it enters OFF; in FROZEN the drain waits for THAW (R34). -/
  | pageEnableClear (p : PageId)
  /-- A block's work in flight drains, and the block moves from BUSY to READY, or to OFF when ENABLE was cleared (R34). -/
  | blockDrained (p : PageId)
  /-- BLOCK_RESET resets the block's functional state and its RW and RW1S fields, returns RWL fields to the module configuration, and abandons any long operation (R33). -/
  | blockReset (p : PageId)
  /-- Writing FREEZE stops issue, captures state and moves the block to FROZEN; the write is ignored when the block is already FROZEN, in FAULT or RETIRED (R33). -/
  | pageFreeze (p : PageId)
  /-- Writing THAW resumes a FROZEN block to READY; it is ignored when the block is not FROZEN (R33). -/
  | pageThaw (p : PageId)
  /-- Setting PAGE_LOCK.LOCK makes every RWL field of the page read-only until module reset (R41). -/
  | pageLockSet (p : PageId)
  /-- Writing 1s to PAGE_ERR clears those bits, except a bit set again in the same instant, and re-arms PAGE_ERR_INFO when the captured bit is cleared (R35). -/
  | pageErrClear (p : PageId) (ones : Nat)
  /-- An event counter wraps from 2^48 − 1 to 0 and sets OVF, and with FREEZE_ON_OVF set it closes the gate (R42). -/
  | counterWrap (p : PageId) (n : Nat)
  /-- A CXL.mem MemRd is decoded, checked against the context's grant and served by its tier and its class under the directory (R169). -/
  | memrd (src : HostSrc) (hpa : Nat) (want : MetaVal) (sram : SramHit)
  /-- A MemRdData request is served as an RD_CUR read without keeping a copy (R218). -/
  | memrddata (src : HostSrc) (hpa : Nat)
  /-- A CXL.mem MemWr is decoded, checked and written; to a durable region it is accepted, counted in its window's epoch and owes deltas, and from the owner it is a write-back (R56). -/
  | memwr (src : HostSrc) (hpa : Nat) (keep : MetaVal) (data : List Byte) (poison : Bool)
  /-- A partial CXL.mem write is merged with the line under byte enables and then handled as a write (R55). -/
  | memwrptl (src : HostSrc) (hpa : Nat) (data : List Byte) (be : Nat) (poison : Bool)
  /-- A clean-eviction notice removes the context from the line's directory entry (R226). -/
  | memclnevct (src : HostSrc) (hpa : Nat)
  /-- A back-invalidation snoop response is accepted; once every snoop of the transaction is answered, the transaction completes (R219). -/
  | birsp (port : Nat) (id : Nat) (dpa : Nat) (shared : Bool)
  /-- A BIConflict sets CONFLICT in the line's entry, and BIConflictAck is placed behind the context's response or sent at once (R231). -/
  | biconflict (port : Nat) (id : Nat) (dpa : Nat)
  /-- A request waiting at a slice's ingress is admitted to the ledger once an entry and a floor turn are free, and is checked against its grant then (R174). -/
  | ingressAdmit (slice : Nat) (pick : Nat)
  /-- When a transaction on a line ends, the next waiting request to that line starts (R216). -/
  | lineTransactionStart (dpa : Nat)
  /-- An owner's tenure expires at its tenure-end tick, and snoops waiting on the line go out (R228). -/
  | tenureEnd (dpa : Nat)
  /-- A snoop outstanding for BISNP_TIMEOUT_MS counts as answered BIRspI, the context is removed from the entry, and a Warning record is raised (R230). -/
  | bisnpTimeout (dpa : Nat) (ctx : Nat)
  /-- The walk of a lost directory set ends, the set is empty and valid, and waiting requests start (R236). -/
  | dirSetRecoveryDone (slice : Nat)
  /-- The March test of a region ends, faulty cells are repaired or the region fenced, and the shadow is copied back (R437). -/
  | drizzleRegionEnd (found : List CellFault) (sram : SramHit)
  /-- LIFECYCLE_SET moves the fused lifecycle state, wipes the secure store and derives a new device key (R442). -/
  | lifecycleSet (via : Via) (target : Nat) (force : Bool) (tokenOk : Bool)
  /-- LIFECYCLE_GET returns the lifecycle state and KEY_GEN (R442). -/
  | lifecycleGet (via : Via)
  /-- JW_SET checks a window entry in order and defines a FREE window as OPEN or SUSPENDED once it is mirrored to the group (R50). -/
  | jwSet (via : Via) (e : WinEntry)
  /-- JW_DELETE moves a window to DELETING, or completes at once for a FREE window, or returns Busy for one already DELETING (R51). -/
  | jwDelete (via : Via) (w : Nat)
  /-- When no full stop to a DELETING window is held, the window becomes FREE and JW_DELETE completes (R51). -/
  | jwDeleteDone (w : Nat)
  /-- JW_GET returns a window's entry (R51). -/
  | jwGet (via : Via) (w : Nat)
  /-- JW_STATUS returns a window's state, flags, HELD, unprotected counts, LAST_SEQ and STOPS_DONE (R53). -/
  | jwStatus (via : Via) (w : Nat)
  /-- When the closed epoch's count is zero at every slice, the stop-line slice forms the stop line's delta and sends it as a STAGE (R59). -/
  | epochDrained (w : Nat)
  /-- Once the stop line's stage is protected and the window is OPEN, the stop line is written, LAST_SEQ and STOPS_DONE are updated, COMMIT is sent and the completion is issued (R59). -/
  | fullStopApply (w : Nat)
  /-- GPF Phase 1 is acknowledged at once (R68). -/
  | gpfPhase1 (port : Nat)
  /-- GPF Phase 2 starts a vault save and is completed when the image is sealed (R68). -/
  | gpfPhase2 (port : Nat)
  /-- A member receiving MAP_PROPOSE accepts it when the term, base and prior acceptance allow, records it and replies MAP_ACCEPT (R82). -/
  | mapPropose (frm : Nat) (tag : Nat) (term : Nat) (base : Nat) (map : GMap)
  /-- The keeper receives an acceptance and, once a majority of non-LOST members has accepted, sends MAP_COMMIT (R81). -/
  | mapAccept (frm : Nat) (tag : Nat) (st : RspSt)
  /-- A member adopts the committed map, changes its group epoch, and acts on marks, fences, promote lists and bundle resets (R81). -/
  | mapCommit (frm : Nat) (tag : Nat) (gen : Nat)
  /-- A member receiving MAP_FETCH answers with the map in force in segments (R84). -/
  | mapFetch (frm : Nat) (tag : Nat)
  /-- A member receiving the newer map re-resolves and resends the bounced message, and adopts the map (R84). -/
  | mapFetchRsp (frm : Nat) (tag : Nat) (map : GMap)
  /-- A member receiving MAP_CLAIM adopts the new keeper term and replies with any accepted proposal not yet committed (R83). -/
  | mapClaim (frm : Nat) (tag : Nat) (term : Nat)
  /-- The new keeper collects the claim replies and, from a majority, re-proposes the accepted proposal of highest term (R83). -/
  | mapClaimRsp (frm : Nat) (tag : Nat) (acc : Option GMap)
  /-- A member receiving STAGE_QUERY replies with the stages it holds from the named member, in segments (R99). -/
  | stageQuery (frm : Nat) (tag : Nat) (x : Nat)
  /-- The keeper collects stage replies and, once they are complete, decides the promote list and proposes the map that marks the member (R99). -/
  | stageQueryRsp (frm : Nat) (tag : Nat) (seg : Nat) (count : Nat) (keys : List Nat)
  /-- The keeper receives a report that a peer is unreachable, spill-full, has parity to recompute or is reachable again, and marks it, starts a resync, or commits RESYNC (R100). -/
  | memberReport (frm : Nat) (tag : Nat) (x : Nat) (reason : Nat)
  /-- A peer unreachable for GRP_LOSS_TIME is reported to the keeper with MEMBER_REPORT (R100). -/
  | peerLossTimeout (x : Nat)
  /-- A sender receiving a BOUNCE fetches the newer map or schedules an unchanged resend (R84). -/
  | bounce (frm : Nat) (bseq : Nat) (gen : Nat)
  /-- 10 µs after a bounce from an older-map receiver, the message is resent unchanged (R84). -/
  | bounceResendTimer (frm : Nat) (bseq : Nat)
  /-- A holder receives a DATA delta, deduplicates it against APPLIED_THROUGH and its bitmap, and applies it to the parity line (R93). -/
  | deltaData (frm : Nat) (dseq : Nat) (line : Nat) (standin : Bool) (data : List Byte)
  /-- A holder stores a STAGE under its stage key, replacing any held stage, and acknowledges it without folding it into parity (R98). -/
  | deltaStage (frm : Nat) (dseq : Nat) (line : Nat) (standin : Bool) (data : List Byte)
  /-- A holder folds the stage held under the COMMIT's key into parity and discards it, or does nothing when no stage is held (R98). -/
  | deltaCommit (frm : Nat) (dseq : Nat) (line : Nat) (standin : Bool)
  /-- At least every 1 µs while A has advanced, the holder sends its APPLIED_THROUGH in a CTL message (R96). -/
  | ackTimer (x : Nat)
  /-- A data member receiving STRIPE_HOLD stops writes to the line or unit and, once its deltas for it are acknowledged, returns the data, or refuses (R107). -/
  | stripeHold (frm : Nat) (tag : Nat) (stripe : Nat) (line : Nat)
  /-- The requester receives the held line or a refusal, and once all are in it reads parity or reconstructs (R107). -/
  | stripeHoldRsp (frm : Nat) (tag : Nat) (st : RspSt) (data : List Byte)
  /-- The requester receives the data of a whole unit held under a unit hold (R107). -/
  | unitData (frm : Nat) (tag : Nat) (data : List Byte)
  /-- A data member receiving HOLD_RELEASE ends the hold and lets waiting writes proceed (R107). -/
  | holdRelease (frm : Nat) (tag : Nat) (stripe : Nat) (line : Nat)
  /-- A holder receiving LINE_READ returns the parity line, or refuses with UNAVAILABLE or NOT_HOLDER (R135). -/
  | lineRead (frm : Nat) (tag : Nat) (unit : Nat) (line : Nat)
  /-- The requester receives a parity line for reconstruction (R108). -/
  | lineReadRsp (frm : Nat) (tag : Nat) (st : RspSt) (data : List Byte)
  /-- A member receiving WINDOW_MIRROR records the window entry for its owner, or a replacement installs it in its own window table (R105). -/
  | windowMirror (frm : Nat) (tag : Nat) (e : WinEntry) (st : Nat) (owner : Nat)
  /-- Once every member has answered WINDOW_MIRROR, JW_SET or JW_DELETE completes (R105). -/
  | windowMirrorRsp (frm : Nat) (tag : Nat) (st : RspSt)
  /-- A member receiving REBUILD_STEP adopts the rebuild or resync boundary and answers OK (R110). -/
  | rebuildStep (frm : Nat) (tag : Nat) (kind : Nat) (q : Nat)
  /-- Once every member has answered the boundary, the walking member advances its boundary, releases its holds and starts the next block, or the keeper commits it ACTIVE at the end (R110). -/
  | rebuildStepRsp (frm : Nat) (tag : Nat) (st : RspSt)
  /-- A member receiving RESTRIPE_STEP takes its holds, computes the new parity units it holds, and advances B (R112). -/
  | restripeStep (frm : Nat) (tag : Nat) (b : Nat)
  /-- The keeper collects step answers and starts the next step, or commits the new geometry when B reaches U (R112). -/
  | restripeStepRsp (frm : Nat) (tag : Nat) (st : RspSt)
  /-- GRP_FORM gives a module the group map at generation 1; member 0 proposes it and commits once all N members accept (R115). -/
  | grpForm (via : Via) (map : GMap) (own : Nat)
  /-- GRP_MAP_GET returns the map in force (R115). -/
  | grpMapGet (via : Via)
  /-- GRP_MARK_LOST has the keeper mark a member LOST through a map change (R102). -/
  | grpMarkLost (via : Via) (x : Nat)
  /-- GRP_STANDIN_SET has the keeper assign an ACTIVE member to stand in for a LOST member with a new STANDIN_EPOCH (R104). -/
  | grpStandinSet (via : Via) (lost : Nat) (by_ : Nat)
  /-- GRP_STANDIN_CLEAR has the stand-in discard new requests to adopted extents and drain before the assignment is cleared (R106). -/
  | grpStandinClear (via : Via) (lost : Nat)
  /-- GRP_REPLACE starts a rebuild onto a replacement, or a resync for the member's own module ID (R110). -/
  | grpReplace (via : Via) (x : Nat) (id : Nat)
  /-- GRP_RESTRIPE checks the new geometry and has the keeper commit it as a re-stripe target with boundary 0 (R112). -/
  | grpRestripe (via : Via) (k : Nat) (m : Nat)
  /-- GRP_KEEPER_SET makes the module the new keeper, which sends MAP_CLAIM with the next term (R83). -/
  | grpKeeperSet (via : Via)
  /-- GRP_DISSOLVE has the keeper propose a dissolving map that every non-LOST member must accept (R115). -/
  | grpDissolve (via : Via) (gid : Nat)
  /-- A port packs messages with credit into a DATA frame, numbers it, protects it with CRC, FEC and GCM, and keeps it for replay (R131). -/
  | dataFrameSend (port : Nat)
  /-- A received DATA frame is corrected and checked, then accepted in sequence, NAKed, or discarded as a duplicate, and its ACK and NAK are acted upon (R142). -/
  | dataFrameReceive (port : Nat) (raw : List Byte)
  /-- A received CTL frame delivers its ACK and NAK and its STATUS messages without sequencing or replay (R129). -/
  | ctlFrameReceive (port : Nat) (raw : List Byte)
  /-- A received IDLE frame delivers its ACK and NAK (R129). -/
  | idleFrameReceive (port : Nat) (raw : List Byte)
  /-- A received RETRAIN_MARK re-establishes sequence state after a retrain, frees what its ACK covers, and resumes by replay (R145). -/
  | retrainMark (port : Nat) (raw : List Byte)
  /-- REPLAY_TIMER elapsing with frames outstanding triggers a replay (R143). -/
  | replayTimer (port : Nat)
  /-- The retrain's equalisation ends, and the port sends RETRAIN_MARK frames, or goes DOWN on failure (R145). -/
  | retrainDone (port : Nat) (ok : Bool)
  /-- Writing the peer-role RETRAIN bit forces a retrain of the port (R157). -/
  | portRetrainForce (port : Nat)
  /-- Every 100 ms a DOWN peer port starts training (R145). -/
  | berfelTrainSchedule (port : Nat)
  /-- A DOWN port that sees the peer training starts training at once (R145). -/
  | peerTrainingSeen (port : Nat)
  /-- Training ends: on success the port enters HELLO and sends HELLO, and on failure it goes DOWN (R145). -/
  | berfelTrainDone (port : Nat) (ok : Bool)
  /-- A received HELLO is refused, causes a bundle reset, or is accepted and brings the port UP into its bundle (R145). -/
  | hello (port : Nat) (h : Hello)
  /-- A port in HELLO with no accepted HELLO within 1 ms falls DOWN (R145). -/
  | helloTimeout (port : Nat)
  /-- A STATUS prefix updates the sender's credit limits and the APPLIED_THROUGH value acknowledging deltas, which may unblock waiting messages (R136). -/
  | ctlStatus (port : Nat) (limits : List Nat) (applied : Nat)
  /-- At least every 1 µs an up port sends a STATUS message (R141). -/
  | statusTimer (port : Nat)
  /-- A received MAC_TAG verifies the run's GCM tag, releases and acknowledges the run, or discards it and NAKs (R150). -/
  | macTag (port : Nat) (tag : List Byte)
  /-- 500 ns after a run's first frame, or after 32 frames, the run closes with a MAC_TAG message (R150). -/
  | gcmRunTimer (port : Nat)
  /-- BF_KEY_SET loads a key generation for a port and direction, or is refused (R151). -/
  | bfKeySet (via : Via) (port : Nat) (dir : Nat) (gen : Nat) (salt : Nat) (key : List Byte)
  /-- BF_KEY_SWITCH moves the transmitter to the other generation at its next run boundary and wipes the one it leaves (R151). -/
  | bfKeySwitch (via : Via) (port : Nat)
  /-- APPLY starts a lane-quad role change: ports stop, peer ports go down and host ports drain, or the change is refused (R154). -/
  | lnqApply (quad : Nat)
  /-- The ports of the new role have trained, the role epochs advance and APPLY clears (R154). -/
  | lnqRoleChangeDone (quad : Nat)
  /-- A host port finishes training at a rate, width and flit mode, or is held with WIDTH_FAIL or FLIT_MODE_FAIL (R162). -/
  | hostLinkUp (port : Nat) (speed : Nat) (width : Nat) (f256 : Bool) (latOpt : Bool)
  /-- A host port's link loss forwards checked requests, discards queued responses, and ends the open HDM-DB transactions of its contexts (R181). -/
  | hostLinkLoss (port : Nat)
  /-- Writing the host-role RETRAIN bit forces a retrain of the port (R187). -/
  | hostRetrain (port : Nat)
  /-- Writing DRAIN stops new credit, completes accepted requests and snoops, then takes the link down (R183). -/
  | drain (port : Nat)
  /-- A drain's accepted requests and snoops complete, and the link is taken down (R183). -/
  | drainComplete (port : Nat)
  /-- A drain not finished within 1 ms takes the link down as a link loss and sets DRAIN_FORCED (R183). -/
  | drainTimeout (port : Nat)
  /-- Setting LINK_DISABLE drains the link and holds it down (R187). -/
  | linkDisable (port : Nat) (on : Bool)
  /-- A conventional or hot reset of a host port is handled as link loss, and as an FLR on the steward port (R461). -/
  | portReset (port : Nat)
  /-- Set DC Region Configuration divides the DPA space into up to 8 regions of 2 MiB block size (R170). -/
  | setDcRegionConfig (via : Via) (region : Nat) (base : Nat) (len : Nat)
  /-- Initiate Dynamic Capacity Add creates or extends an extent after the add checks, reserves grants, and advances the extent epoch (R171). -/
  | initiateDcAdd (via : Via) (ext : Option Nat) (region : Nat) (size : Nat) (base : Option Nat) (hosts : List Nat)
  /-- A host's Add Dynamic Capacity Response makes its grant ACTIVE or, when declined, removes it from the host set (R173). -/
  | addDcResponse (port : Nat) (ld : Nat) (ext : Nat) (accept : Bool)
  /-- Initiate Dynamic Capacity Release asks hosts to release an extent, or with forced removal advances the epoch at once (R177). -/
  | initiateDcRelease (via : Via) (ext : Nat) (hosts : List Nat) (forced : Bool)
  /-- A host's Release Dynamic Capacity advances the extent epoch and withdraws its grant (R177). -/
  | releaseDc (who : Releaser) (ext : Nat)
  /-- When every slice has taken a new extent epoch and old-epoch requests have completed, a release or move completes and durable zeroing starts (R177). -/
  | epochTakenAllSlices (ext : Nat)
  /-- Get DCD Info returns the dynamic capacity device information (R184). -/
  | getDcdInfo (via : Via)
  /-- Get Host DC Region Configuration returns the region configuration (R184). -/
  | getHostDcRegionConfig (via : Via)
  /-- Get DC Region Extent Lists returns the extents (R184). -/
  | getDcRegionExtentLists (via : Via)
  /-- Get Dynamic Capacity Extent List returns a logical device's extents (R201). -/
  | getDcExtentList (port : Nat) (ld : Nat)
  /-- The FM-API Identify command returns the module identity (R184). -/
  | fmIdentify (via : Via)
  /-- Background Operation Status returns the state of the background command (R184). -/
  | backgroundOperationStatus (via : Via)
  /-- Get Response Message Limit returns the limit (R184). -/
  | getResponseMessageLimit (via : Via)
  /-- Set Response Message Limit sets the limit (R184). -/
  | setResponseMessageLimit (via : Via) (limit : Nat)
  /-- The Event Notification command is handled as the standard states (R184). -/
  | eventNotification (via : Via)
  /-- Get Event Records returns records from the shared event logs (R203). -/
  | getEventRecords (via : Via) (log : Nat)
  /-- Clear Event Records removes records for both interfaces (R203). -/
  | clearEventRecords (via : Via) (log : Nat) (all : Bool) (handles : List Nat)
  /-- Set Event Records is handled as the standard states (R184). -/
  | setEventRecords (via : Via) (log : Nat) (args : List Nat)
  /-- Get LD Info returns logical device information (R184). -/
  | getLdInfo (via : Via)
  /-- Get LD Allocations returns the allocations (R184). -/
  | getLdAllocations (via : Via)
  /-- Set LD Allocations sets the allocations (R184). -/
  | setLdAllocations (via : Via) (start : Nat) (vals : List Nat)
  /-- Tunnel Management Command carries a command to its target (R184). -/
  | tunnelManagementCommand (via : Via) (port : Nat) (ld : Nat) (c : Tunnelled)
  /-- Any other standard command is answered with Unsupported (R201). -/
  | unsupportedCommand (via : Via)
  /-- REGION_ATTR_SET sets a region's DURABLE, COHERENCE, THIN and DOMAIN attributes while it holds no extent (R170). -/
  | regionAttrSet (via : Via) (region : Nat) (durable : Bool) (hdmDb : Bool) (thin : Bool) (domain : Nat)
  /-- REGION_ATTR_GET returns a region's attributes (R185). -/
  | regionAttrGet (via : Via) (region : Nat)
  /-- HOST_CTX_SET enables or disables a host context; disabling puts the pairs it owns in ERROR (R166). -/
  | hostCtxSet (via : Via) (ctx : Nat) (en : Bool)
  /-- HOST_CTX_RESET discards the context's queued responses and ends its HDM-DB transactions, tenures, watched line and ring pairs on every port (R182). -/
  | hostCtxReset (via : Via) (ctx : Nat)
  /-- HOST_DEC_SET sets or clears a GFD decoder after its overlap and range checks (R168). -/
  | hostDecSet (via : Via) (ctx : Nat) (dec : Nat) (base : Nat) (size : Nat) (ways : Nat) (gran : Nat) (pos : Nat) (dpa : Nat)
  /-- ALIAS_SET sets or clears a context's hinted alias window (R178). -/
  | aliasSet (via : Via) (ctx : Nat) (win : Nat) (base : Nat) (span : Nat) (dpa : Nat) (consumers : List Nat)
  /-- EXT_INFO returns an extent's DPA base, size, region, epoch, host count and STRIPE_BASE (R185). -/
  | extInfo (via : Via) (ext : Nat)
  /-- EXT_MOVE replaces an extent's host set in one step and advances its epoch (R177). -/
  | extMove (via : Via) (ext : Nat) (hosts : List Nat)
  /-- EXT_ADOPT re-creates a lost member's durable extent at a stand-in, or at a module in no group for lost index 0xFF (R177). -/
  | extAdopt (via : Via) (lost : Nat) (region : Nat) (base : Nat) (size : Nat) (stripe : Nat)
  /-- STW_DESIGNATE completes, ends the steward function on the old port, presents it on the new one, or withdraws it with 0xFF (R190). -/
  | stwDesignate (via : Via) (port : Nat)
  /-- Enabling or disabling MSI-X, or changing the function mask, issues or holds pending messages (R196). -/
  | msixEnableChange (enable : Bool) (mask : Bool)
  /-- Unmasking a vector with its pending bit set issues one message and clears the pending bit (R196). -/
  | msixVectorUnmask (v : Nat)
  /-- The steward function moves between D0 and D3hot, holding messages pending in D3hot (R193). -/
  | powerStateChange (d3hot : Bool)
  /-- A fetch read completion is staged, or discarded for a quarantined tag, or ends the fetch with CPL_ERROR (R204). -/
  | fwReadCompletion (tag : Nat) (ok : Bool) (len : Nat)
  /-- A fetch read meets its completion timeout; the fetch ends CPL_TIMEOUT or a quarantined tag is freed (R206). -/
  | fwCplTimeout (tag : Nat)
  /-- The fetched image is authenticated and written to the slot, and the fetch ends DONE or ERROR (R204). -/
  | fwFetchDone (good : Bool) (version : Nat)
  /-- Identify Memory Device returns the device identity (R201). -/
  | identifyMemoryDevice (via : Via)
  /-- Get Supported Logs returns the list of logs (R201). -/
  | getSupportedLogs (via : Via)
  /-- Get Log returns the command effects log or the vendor debug log (R201). -/
  | getLog (via : Via) (debug : Bool) (off : Nat) (len : Nat)
  /-- Get Timestamp returns the timestamp (R201). -/
  | getTimestamp (via : Via)
  /-- Set Timestamp sets the timestamp (R201). -/
  | setTimestamp (via : Via) (t : Nat)
  /-- Get Event Interrupt Policy returns the policy (R201). -/
  | getEventInterruptPolicy (via : Via)
  /-- Set Event Interrupt Policy sets the event-log interrupts (R201). -/
  | setEventInterruptPolicy (via : Via) (policy : List Nat)
  /-- Get Poison List returns the poison list (R201). -/
  | getPoisonList (via : Via) (base : Nat) (len : Nat)
  /-- Inject Poison poisons a line (R201). -/
  | injectPoison (via : Via) (dpa : Nat)
  /-- Clear Poison clears a line's poison, or returns Invalid Input for a line of a LOST page (R263). -/
  | clearPoison (via : Via) (dpa : Nat) (data : List Byte)
  /-- Get FW Info returns the firmware slots (R201). -/
  | getFwInfo (via : Via)
  /-- Transfer FW pushes an image through the mailbox payload (R201). -/
  | transferFw (via : Via) (action : Nat) (slot : Nat) (off : Nat) (len : Nat) (good : Bool) (version : Nat)
  /-- Activate FW names a slot for the next module reset; online activation is refused (R205). -/
  | activateFw (via : Via) (online : Bool) (slot : Nat)
  /-- WATCH_SET sets or clears a context's watched line (R238). -/
  | watchSet (via : Via) (ctx : Nat) (valid : Bool) (dpa : Nat)
  /-- WATCH_GET returns a context's watched line and whether it is armed (R240). -/
  | watchGet (via : Via) (ctx : Nat)
  /-- Writing PROBE snapshots a line's directory entry between transactions (R242). -/
  | dirProbe (slice : Nat)
  /-- A page's move has been read and written; the map slice commits the new entry, frees the old place and clears MOVING (R251). -/
  | pageMoveCommit (page : Nat)
  /-- A holder stores a peer-tier page for its sender, or discards it beyond the share with PEER_OVERFLOW (R258). -/
  | pagePut (frm : Nat) (slot : Nat) (data : List Byte)
  /-- A holder answers PAGE_READ with PAGE_DATA, or refuses it for a slot it does not hold (R258). -/
  | pageRead (frm : Nat) (tag : Nat) (slot : Nat)
  /-- A fetched peer page is checked against its tag grain, served, and promoted with PAGE_FREE sent when allowed (R257). -/
  | pageData (frm : Nat) (tag : Nat) (slot : Nat) (data : List Byte)
  /-- RSP REFUSED for a fetch makes the page LOST, and the waiting read returns poison (R259). -/
  | pageReadRefused (frm : Nat) (tag : Nat)
  /-- A holder frees the peer-tier page held for the sender's slot (R258). -/
  | pageFree (frm : Nat) (tag : Nat) (slot : Nat)
  /-- LOST_CLEAR starts returning every LOST page in a range to UNBACKED (R264). -/
  | lostClear (via : Via) (base : Nat) (len : Nat)
  /-- PAGE_INFO returns a page's map entry from its map slice (R264). -/
  | pageInfo (via : Via) (dpa : Nat)
  /-- LEX_WRITE writes bytes into a preset lexicon, moving it from EMPTY to LOADING (R281). -/
  | lexWrite (via : Via) (lex : Nat) (off : Nat) (data : List Byte)
  /-- LEX_COMMIT checks a lexicon's CRC and makes it READY on a match (R281). -/
  | lexCommit (via : Via) (lex : Nat) (len : Nat) (crc : Nat)
  /-- LEX_DELETE makes an unreferenced lexicon EMPTY, or is refused with Busy (R280). -/
  | lexDelete (via : Via) (lex : Nat)
  /-- LEX_INFO returns a lexicon's state, length, CRC and reference count (R281). -/
  | lexInfo (via : Via) (lex : Nat)
  /-- LEX_DOMAIN_SET names a READY lexicon as a domain's page lexicon (R281). -/
  | lexDomainSet (via : Via) (slot : Nat) (lex : Nat)
  /-- A free lexicon engine starts the waiting block of lowest class and earliest arrival (R287). -/
  | lexBlockStart (engine : Nat)
  /-- A lexicon block ends with an outcome code, releasing output and updating stream state only on OK (R276). -/
  | lexBlockDone (engine : Nat)
  /-- KEY_DOMAIN_CREATE makes a FREE slot a DOMAIN with generated or imported keys and a mode (R295). -/
  | keyDomainCreate (via : Via) (slot : Nat) (mode : Nat) (src : KeySrc)
  /-- KEY_DOMAIN_DESTROY wipes a slot no region names and no front uses (R295). -/
  | keyDomainDestroy (via : Via) (slot : Nat)
  /-- KEY_DOMAIN_MODE changes the integrity mode of a domain with no extents (R295). -/
  | keyDomainMode (via : Via) (slot : Nat) (mode : Nat)
  /-- KEY_FRONT_START takes a FRONT_TARGET slot and a front engine and starts a key rotation (R310). -/
  | keyFrontStart (via : Via) (slot : Nat) (src : KeySrc)
  /-- KEY_FRONT_STATUS returns a domain's front engine, target slot and progress (R295). -/
  | keyFrontStatus (via : Via) (slot : Nat)
  /-- KEY_FRONT_PAUSE sets or clears PAUSE on the domain's front (R295). -/
  | keyFrontPause (via : Via) (slot : Nat) (pause : Bool)
  /-- Writing FRN_CTL.PAUSE holds or releases the boundary of a front (R313). -/
  | frnPause (engine : Nat) (pause : Bool)
  /-- A front locks the line or page at F, re-encrypts it under the new key and advances F (R311). -/
  | frontStep (engine : Nat)
  /-- A line written back to its channel advances its minor counter, possibly rolling the page (R303). -/
  | lineWriteback (l : LineId)
  /-- A line read from a channel is EDC-checked, ECC-corrected and MAC-checked before it is served (R301). -/
  | mchReadReturn (ch : Nat) (l : LineId) (raw : List Byte) (edcFails : Nat) (act : Nat) (req : Option HostSrc)
  /-- A per-bank refresh falls due and pre-empts channel time (R329). -/
  | refreshDue (ch : Nat)
  /-- Every 1 ms the device temperatures are read and the hot state and THERM_HIGH updated (R329). -/
  | tempPoll (pair : Nat) (ta : Nat) (tb : Nat)
  /-- A channel's lull falls due; it closes banks and retrains (R330). -/
  | lullDue (ch : Nat)
  /-- A lull ends, eye margins are recorded and issue resumes, or a failed lull freezes the channel (R330). -/
  | lullDone (ch : Nat) (ok : Bool) (eyeRd : Nat) (eyeWr : Nat)
  /-- Patrol scrub reads a row, repairs corrected lines and checks the row header (R331). -/
  | scrubRow (ch : Nat) (header : List Byte) (found : List (Nat × List Byte))
  /-- A thawing channel finishes training and becomes READY, or stays FROZEN with THAW_FAIL (R334). -/
  | thawTrainDone (ch : Nat) (ok : Bool)
  /-- A thawed channel settles one touched line by reconstruction, write-back or poison (R334). -/
  | settleStep (ch : Nat)
  /-- Writing RETIRE starts evacuation of a channel, or is refused for capacity (R335). -/
  | mchRetire (ch : Nat)
  /-- Retirement evacuates one local unit, and after the last unit the channel becomes RETIRED (R335). -/
  | evacuateStep (ch : Nat) (bad : List Nat)
  /-- RING_SET writes a ring-table entry's writable fields in offset order (R340). -/
  | ringSet (via : Via) (ring : Nat) (vals : List Nat)
  /-- RING_GET returns a whole ring-table entry (R340). -/
  | ringGet (via : Via) (ring : Nat)
  /-- Setting a pair's ENABLE makes it ENABLED after its checks, or is refused with a reason (R341). -/
  | ringEnable (ring : Nat)
  /-- Clearing ENABLE on an ENABLED pair makes it DRAINING (R342). -/
  | ringDisable (ring : Nat)
  /-- Writing RESET abandons the pair's verbs, closes its streams and makes it DISABLED (R342). -/
  | ringReset (ring : Nat)
  /-- The last verb of a DRAINING pair posts, and the pair becomes DISABLED (R342). -/
  | ringDrained (ring : Nat)
  /-- An accepted doorbell-line write hands SQ_TAIL and CQ_HEAD to the ring engine (R343). -/
  | doorbell (ring : Nat)
  /-- The ring engine reads a submission entry, advances SQ_HEAD and starts the verb after its checks (R344). -/
  | sqEntryRead (ring : Nat)
  /-- The NOP verb does nothing and posts its completion (R345). -/
  | verbNop (ring : Nat) (idx : Nat)
  /-- COPY writes LEN bytes from SRC to DST, carrying poison over (R347). -/
  | verbCopy (ring : Nat) (idx : Nat)
  /-- FILL writes a repeating 8 B pattern over LEN bytes (R347). -/
  | verbFill (ring : Nat) (idx : Nat)
  /-- CHECKSUM computes a CRC-32C or CRC-64 over LEN bytes from a seed (R347). -/
  | verbChecksum (ring : Nat) (idx : Nat)
  /-- COMPARE finds the first differing byte of two ranges (R347). -/
  | verbCompare (ring : Nat) (idx : Nat)
  /-- EC_ENCODE computes output units from input units by the module's code or a matrix (R348). -/
  | verbEcEncode (ring : Nat) (idx : Nat)
  /-- EC_RECONSTRUCT recovers units from K others by the inverse of the selected rows (R348). -/
  | verbEcReconstruct (ring : Nat) (idx : Nat)
  /-- COMPRESS writes one lexicon block in page or stream mode, opening, resetting or closing a stream as flagged (R349). -/
  | verbCompress (ring : Nat) (idx : Nat)
  /-- DECOMPRESS decodes one lexicon block within SRC_LEN and DST_CAP (R349). -/
  | verbDecompress (ring : Nat) (idx : Nat)
  /-- FULL_STOP waits for earlier verbs, then writes the SRC line to STOP as a full stop (R350). -/
  | verbFullStop (ring : Nat) (idx : Nat)
  /-- A completed verb posts its completion entry when the completion ring has room, and may notify (R353). -/
  | verbComplete (ring : Nat) (idx : Nat)
  /-- COALESCE_TICKS after the oldest un-notified completion, the pair notifies its owner (R356). -/
  | coalesceTimer (ring : Nat)
  /-- FLOOR_SET writes a master's FLOOR, GUST_MAX and WEIGHT (R380). -/
  | floorSet (via : Via) (master : Nat) (floor : Nat) (gust : Nat) (weight : Nat)
  /-- FLOOR_GET returns a master's floor-table entry (R380). -/
  | floorGet (via : Via) (master : Nat)
  /-- A plan's measurements end, and its voltage, allowance, PLAN_CAP and lull intervals are applied (R387). -/
  | planDone (r : PlanMeas)
  /-- Every 1 ms the tracking loop reads the median delay and steps the core voltage, triggering a plan at 0.88 V (R388). -/
  | trackingTick (delay : Nat) (temp : Nat)
  /-- Every 10 ms the barometer computes E_STORED, the allowance in force and VOL_COVER (R391). -/
  | energyPoll (vBank : Nat) (r : PwrMeas)
  /-- Preparation ends, and the header and sections start to be written (R400). -/
  | savePrepared (deadDie : Option Nat)
  /-- Every 1 ms during a save V_BANK is read, and the save is truncated at the reserve (R405). -/
  | vaultEnergyPoll (vBank : Nat) (parityLeft : Nat) (volLeft : Nat) (durableLeft : Nat)
  /-- The seal page is programmed and verified; the module powers down or resumes service according to the trigger (R404). -/
  | saveSeal (verified : Bool) (vBank : Nat)
  /-- The vault restore ends as CURRENT, STALE, EMPTY or FAILED, and the restore record is raised (R408). -/
  | restoreDone (tagOk : Bool)
  /-- PRSNT_N going low reads DLY and starts the insertion delay once all ramp conditions hold (R419). -/
  | prsntNAssert (dly : Nat)
  /-- The insertion delay ends, VOUT is checked for a shorted FET, and the ramp and fault timer start (R420). -/
  | insertionDelayExpire (voutHigh : Bool) (vin : Nat) (iin : Nat)
  /-- The fault timer expires during the ramp or the breaker, and the fuse latches off with its cause (R424). -/
  | faultTimerExpire (vout : Nat) (vin : Nat) (iin : Nat)
  /-- IIN above 14 A starts the circuit-breaker fault timer with current limiting (R422). -/
  | overcurrentStart (iin : Nat)
  /-- IIN falling back to 14 A stops and resets the breaker timer (R422). -/
  | overcurrentEnd (iin : Nat)
  /-- IIN above 45 A pulls the gate off within 1 µs and latches off with FAST_TRIP (R422). -/
  | fastTrip (vin : Nat) (iin : Nat)
  /-- A pass-FET temperature above 150 °C latches off with FET_OVERTEMP (R423). -/
  | fetOvertemp (vin : Nat) (iin : Nat)
  /-- RESTART, on the PWR page or the sideband, clears a latch-off after the cool-down (R425). -/
  | restart (sideband : Bool)
  /-- VOUT above 30 V for 100 ms with the gate off records FET_SHORT, holds the converters off and refuses to ramp (R426). -/
  | fetShort (vin : Nat) (iin : Nat)
  /-- VIN − VOUT above 1 V for 10 ms at load with the gate on raises a Failure record (R426). -/
  | fetDegraded (vin : Nat) (iin : Nat)
  /-- Undervoltage, reverse current, overvoltage or a FET turn-off while the die runs is reported as input loss, and a trigger 1 save starts (R418). -/
  | inputLoss (cause : InputCause)
  /-- Writing PMU_GATE.MODE opens, schedules or closes the counter gate, or is refused (R453). -/
  | pmuGateMode (mode : Nat) (freezeOnOvf : Bool)
  /-- With the rails in regulation the die checks the lid, clears SRAM, applies repairs and loads the secure store (R458). -/
  | dieWake (lidOpen : Bool) (clk0 : Bool)
  /-- The start-up plan sets core voltage from delay alone, and DRAM training starts (R386). -/
  | startPlanDone (delays : List Nat) (dNow : Nat)
  /-- The PHY groups train at the highest common rate, retiring failing channels, and restore starts (R323). -/
  | dramTrainDone (rates : List Nat) (failed : List Nat)
  /-- The MODULE_RESET command completes and starts a module reset with a trigger 5 save (R463). -/
  | moduleReset (via : Via) (reason : Nat)
  /-- A reference-clock pair stops; its ports go down, and for pair 0 the timebase holds over with a Fatal record (R477). -/
  | refclkStop (pair : Nat)
  /-- A stopped reference clock returns, and its ports retrain (R477). -/
  | refclkReturn (pair : Nat)
  /-- A die or device sensor crossing its warning threshold drives or releases THERM_N (R479). -/
  | thermWarn (hot : Bool)
  /-- A sensor above its trip limit for 1 ms raises a Fatal record and turns the pass FET off, with a save on the bank (R479). -/
  | thermalTrip (sensor : Nat)
  /-- An IDE_KM request over the DOE mailbox programs link IDE keys for a host port, after which IDE becomes active and, with IDE_REQUIRED, CXL.mem service resumes (R180). -/
  | ideKm (port : Nat) (mem : Bool) (good : Bool)
  /-- A write that commits one of a logical device's 4 HDM decoders in its CXL component registers checks the decoder and puts it in force under the standard's commit rules (R168). -/
  | hdmDecoderCommit (port : Nat) (ld : Nat) (dec : Nat) (base : Nat) (size : Nat) (ways : Nat) (gran : Nat) (skip : Nat)
  /-- GAP_US after the previous region, the drizzle tester copies the next region to the shadow and starts redirection and the March test (R437). -/
  | drizzleRegionStart
  /-- An open lid circuit wipes the secure store and the key caches, advances KEY_GEN, sets TAMPER and fences durable extents (R443). -/
  | lidOpen
  /-- A member that does not reply to STAGE_QUERY within 1 ms is marked STALE in the same map (R99). -/
  | stageQueryTimeout
  /-- A member that reaches no majority for GRP_LOSS_TIME fences its durable extents and sets QUORUM_LOST (R85). -/
  | quorumTimeout
  /-- With its unit holds granted, the replacement reconstructs and computes the units of the block, writes them and sends REBUILD_STEP (R110). -/
  | rebuildBlockHeld
  /-- With its unit holds granted, a resyncing member recomputes its parity units of the block, writes them and sends REBUILD_STEP (R111). -/
  | resyncBlockHeld
  /-- When no adopted full stop is held and every STANDIN delta is acknowledged, the keeper commits the map that clears the stand-in (R106). -/
  | standinClearDrained
  /-- GRP_FORM completes with Busy at a member that has not adopted the map 10 s after it arrived (R115). -/
  | grpFormTimeout
  /-- A dissolve not accepted by every non-LOST member within 1 ms is refused with Busy (R115). -/
  | grpDissolveTimeout
  /-- PERST_N low for 100 µs is a conventional reset of every host port (R473). -/
  | perstN
  /-- Clearing bus-master enable stops upstream requests and messages and aborts any fetch with ABORTED_BME (R207). -/
  | bmeClear
  /-- Setting bus-master enable issues pending messages on unmasked vectors (R207). -/
  | bmeSet
  /-- An FLR aborts any fetch, resets the steward function's state and the page fields of R209 (R208). -/
  | flr
  /-- The FLR completes within 100 ms, and configuration requests are answered again (R208). -/
  | flrDone
  /-- Writing START begins a firmware fetch by DMA reads, or is refused (R204). -/
  | fwFetchStart
  /-- Writing ABORT ends a running fetch with ABORTED_SW and quarantines its tags (R204). -/
  | fwFetchAbort
  /-- The mover's cooling walk visits a page, halves its HEAT, and demotes cold pages when use is at or above DEMOTE_ON (R253). -/
  | coolingWalkStep
  /-- LOST_CLEAR finishes and reports the pages cleared (R264). -/
  | lostClearDone
  /-- An automatic front waiting for a slot and an engine starts once both come free (R310). -/
  | frontDeferredStart
  /-- The recovery walk rebuilds one leaf and rewrites or reconstructs each of its lines (R308). -/
  | nodeRecoveryStep
  /-- At each spell boundary budgets and floor shares are reset, gust levels updated, shortfalls counted and the overcommit check run (R365). -/
  | spellBoundary
  /-- Writing REPLAN starts a plan, or is absorbed by a running one (R386). -/
  | replan
  /-- PLAN_HOURS after the previous plan ended, a plan starts (R386). -/
  | planTimer
  /-- Writing TEST_SAVE starts a vault save with trigger 6 (R397). -/
  | testSave
  /-- The background erase of the target ends, and the vault is ready (R399). -/
  | vaultEraseDone
  /-- VIN − VOUT falls below 0.5 V with the gate enhanced; the ramp is complete and the fault timer stops (R420). -/
  | rampComplete
  /-- The 2 ms qualify interval passes without the fault timer, PG is released, and the converters and charger start (R421). -/
  | pgQualifyExpire
  /-- The 1,000 ms cool-down ends, and a held clear is acted upon (R425). -/
  | coolDownExpire
  /-- VIN becomes valid within the window, which allows a ramp or a fresh insertion after a save (R418). -/
  | vinValid
  /-- PRSNT_N high pulls the gate within 10 µs and, with the die running, starts a trigger 2 save (R427). -/
  | prsntNDeassert
  /-- PWR_EN low pulls the gate off, is input loss while the die runs, and starts a latch clear (R427). -/
  | pwrEnLow
  /-- PWR_EN high after at least 10 ms low clears a latch-off and allows a new ramp (R425). -/
  | pwrEnHigh
  /-- A falling PFW_N with PF_WARN_EN set is trigger 3 for a save with service resuming (R427). -/
  | pfwNFall
  /-- 100 ms after a seal with input returned, the stage treats the input as a fresh insertion (R427). -/
  | postSaveReinsert
  /-- At START_TICK in MODE 1 the counter gate opens (R453). -/
  | gateStartTick
  /-- At STOP_TICK in MODE 1 the counter gate closes (R453). -/
  | gateStopTick
  /-- Writing SNAP samples every counter at one tick and holds the sample (R454). -/
  | snap
  /-- The boot ROM authenticates an image, falling back to the other slot, or halts with FIRMWARE (R459). -/
  | fwAuthDone
  /-- Start-up reaches DONE and MODULE_STATE becomes SERVING (R458). -/
  | startupDone
  /-- Writing RESET_ARM arms a module reset through GLB_CTL for 1 ms (R463). -/
  | resetArm
  /-- 1 ms after it is written, RESET_ARM clears (R463). -/
  | resetArmExpire
  /-- Writing GLB_CTL.MODULE_RESET while armed starts a module reset with a trigger 5 save, or is refused (R463). -/
  | glbModuleReset
  /-- The management core failing its watchdog for 100 ms raises a module fault (R464). -/
  | watchdogExpire
  /-- After the die has been unpowered for 60 s following a thermal trip, the stage proceeds as for a fresh insertion (R479). -/
  | thermalTripCooloff
  /-- Liquid at the leak sensor drives LEAK_N low and raises a Failure record (R479). -/
  | leakDetect
  /-- When the hold-up bank falls below V_LOW, the bank converter shuts down and the die loses power, sealing no image if the save has not yet sealed (R396). -/
  | bankConverterShutdown
  /-- When the blades lose voltage, the power entry controller loses its bias and with it any latch-off and FET_SHORT hold, keeping only its fault log (R425). -/
  | controllerBiasLoss
  deriving DecidableEq, Repr

end Sys2Proof
end

