-- ==== Sys2Proof/Config.lean ====
section
/-!
DEFINITION. Config.lean: what one module fixes and the spec does not, and the free values. Every constant here is
opaque: nothing can evaluate it or prove a value of it, so a theorem holds whatever it is.
-/
namespace Sys2Proof.Config

/-- CUWYN_VID, the 16-bit vendor identifier that R1 leaves unnamed. Log entry 2: DESIGN CHOICE, a free value. -/
opaque vendorId : BitVec 16

/-- The module serial number of the label (R193, R404, R442): a free value, log entry 2. -/
opaque serial : BitVec 64

/-- The 16-bit module ID that peers know this module by when no group map names it (R126): free, log entry 2. -/
opaque moduleId : BitVec 16

/-- The device key that the fused root yields for a KEY_GEN (R441): a free value, log entry 2. -/
opaque deviceKey : Nat → BitVec 256

/-- Free values by the number of the draw: what the spec leaves open or calls random (log entry 4). -/
opaque free : Nat → Nat

/-- A free bound: what a value the spec leaves open reads as for these operands (log entry 4). -/
opaque freeOf : Nat → List Nat → Nat

/-- The candidate a compressor offers for a block of bytes: a free list of bytes, which the model uses only if the
decoder accepts it (log entry 20). -/
opaque packed : List Byte → List Byte → List Byte

/-- Eye margins at manufacture, by channel or lane (R384): free, log entry 8. -/
opaque eye0 : Nat → Nat

end Sys2Proof.Config
end

