-- ==== Sys2Proof/Machine/Store.lean ====
section
/-!
DEFINITION. Machine/Store.lean: the stores of the model as plain data. A map is a list of (key, value) pairs with
strictly rising keys; memory is a list of (address, byte) cells with strictly rising addresses in which no cell
holds the byte an unlisted address reads as. Nothing here knows the SX48 but the width of a byte.
-/
namespace Sys2Proof.Machine

/-- A sparse store keyed by a number. -/
abbrev Map (α : Type) := List (Nat × α)

/-- The value held under a key. -/
def mapGet {α : Type} : Map α → Nat → Option α
  | [], _ => none
  | (k, v) :: t, n => if k = n then some v else if n < k then none else mapGet t n

/-- The store with `v` under key `n`. -/
def mapPut {α : Type} : Map α → Nat → α → Map α
  | [], n, v => [(n, v)]
  | (k, w) :: t, n, v =>
    if k = n then (n, v) :: t else if n < k then (n, v) :: (k, w) :: t else (k, w) :: mapPut t n v

/-- The store without key `n`. -/
def mapDel {α : Type} : Map α → Nat → Map α
  | [], _ => []
  | (k, w) :: t, n => if k = n then t else if n < k then (k, w) :: t else (k, w) :: mapDel t n

/-- The value under a key, or `d` where nothing is held. -/
def mapGetD {α : Type} (m : Map α) (n : Nat) (d : α) : α := (mapGet m n).getD d

/-- Put `some v`, delete for `none`. -/
def mapSet {α : Type} (m : Map α) (n : Nat) : Option α → Map α
  | some v => mapPut m n v
  | none => mapDel m n

/-- Change the value under a key that is held. -/
def mapUpd {α : Type} (m : Map α) (n : Nat) (f : α → α) : Map α :=
  match mapGet m n with
  | some v => mapPut m n (f v)
  | none => m

/-- Memory contents: bytes by address. -/
abbrev Memory := List Host.Cell

/-- What an address that no cell lists reads as. Log entry 10: DESIGN CHOICE 0 for memory the spec gives no power-on
contents; zero is also what R170, R177 and R246 make an unbacked or a newly added byte read as. -/
def unlisted : Byte := 0#8

/-- One byte of memory. -/
def Memory.byte : Memory → Nat → Byte
  | [], _ => unlisted
  | (k, b) :: t, a => if k = a then b else if a < k then unlisted else Memory.byte t a

/-- Memory with byte `b` at address `a`; writing the byte an unlisted address reads as removes the cell. -/
def Memory.put : Memory → Nat → Byte → Memory
  | [], a, b => if b = unlisted then [] else [(a, b)]
  | (k, c) :: t, a, b =>
    if k = a then (if b = unlisted then t else (a, b) :: t)
    else if a < k then (if b = unlisted then (k, c) :: t else (a, b) :: (k, c) :: t)
    else (k, c) :: Memory.put t a b

/-- Every address of the list lies above `a`, in rising order, and no cell holds the unlisted byte. -/
def Memory.wfFrom : Nat → Memory → Bool
  | _, [] => true
  | a, (k, b) :: t => decide (a ≤ k) && decide (b ≠ unlisted) && Memory.wfFrom (k + 1) t

/-- The canonical form of memory: strictly rising addresses, no cell equal to what an unlisted address reads as. -/
def Memory.wf (m : Memory) : Bool := Memory.wfFrom 0 m

/-- `n` bytes from address `a` on. -/
def Memory.bytes (m : Memory) (a : Nat) : Nat → List Byte
  | 0 => []
  | n + 1 => Memory.byte m a :: Memory.bytes m (a + 1) n

/-- Memory with the bytes of `bs` from address `a` on. -/
def Memory.putBytes (m : Memory) (a : Nat) : List Byte → Memory
  | [] => m
  | b :: t => Memory.putBytes (Memory.put m a b) (a + 1) t

/-- Memory with every byte of [a, a + n) reading as an unlisted byte. -/
def Memory.clear (m : Memory) (a n : Nat) : Memory :=
  m.filter fun c => decide (c.1 < a) || decide (a + n ≤ c.1)

/-- Little-endian bytes of a number: `n` of them. -/
def leBytes : Nat → Nat → List Byte
  | 0, _ => []
  | n + 1, v => BitVec.ofNat 8 v :: leBytes n (v / 256)

/-- The number that bytes spell, little-endian. -/
def leNat : List Byte → Nat
  | [] => 0
  | b :: t => b.toNat + 256 * leNat t

/-- Bits [lo, lo + w) of a number. -/
def bits (v lo w : Nat) : Nat := (v >>> lo) % 2 ^ w

/-- Bit `i` of a number. -/
def bit (v i : Nat) : Bool := v.testBit i

/-- The number with bit `i` set. -/
def setBit (v i : Nat) : Nat := v ||| (1 <<< i)

/-- The number with bit `i` clear. -/
def clearBit (v i : Nat) : Nat := if v.testBit i then v ^^^ (1 <<< i) else v

/-- A Boolean as 0 or 1. -/
def b2n (b : Bool) : Nat := if b then 1 else 0

/-- The bytes of `bs` from position `lo`, `n` of them. -/
def slice (bs : List Byte) (lo n : Nat) : List Byte := (bs.drop lo).take n

/-- The little-endian number of `n` bytes at position `lo`. -/
def leAt (bs : List Byte) (lo n : Nat) : Nat := leNat (slice bs lo n)

/-- The bytes of `bs` with those from position `lo` on replaced by `xs`. -/
def patch (bs : List Byte) (lo : Nat) (xs : List Byte) : List Byte :=
  bs.take lo ++ xs ++ bs.drop (lo + xs.length)

/-- Byte-wise exclusive or. -/
def xorBytes : List Byte → List Byte → List Byte
  | a :: s, b :: t => (a ^^^ b) :: xorBytes s t
  | _, _ => []

/-- `n` zero bytes. -/
def zeros (n : Nat) : List Byte := List.replicate n 0#8

/-- Whether two half-open ranges of numbers meet. -/
def overlaps (a n b k : Nat) : Bool := decide (a < b + k) && decide (b < a + n)

/-- The first `n` numbers. -/
def upto (n : Nat) : List Nat := List.range n

end Sys2Proof.Machine
end

