-- ==== Sys2Proof/Machine/Parts.lean ====
section
/-!
DEFINITION. Machine/Parts.lean: the parts of the module's state beside its registers, one structure per thing the
spec describes: the host fabric, durable writes, the directory, pages, the group, Berfel, the lexicon, keys and counters,
memory channels, rings and floors.
-/
namespace Sys2Proof.Machine

/-! ## Host fabric (chapter 06) -/

/-- A DC region with its vendor attributes (R170). -/
structure Region where
  base : Nat
  len : Nat
  durable : Bool
  hdmDb : Bool
  thin : Bool
  domain : Nat
  deriving DecidableEq, Repr

/-- Frames taken as a run: those of [start, start + len) whose channel is not in `skip` (R246, R332). -/
structure Run where
  start : Nat
  len : Nat
  skip : List Nat
  deriving DecidableEq, Repr

/-- An extent (R171, R172): `adopted` names the lost member at a stand-in (R177); `stripe` is STRIPE_BASE of a durable
extent (R87); `runs` is the frame record of a fully backed one (R246, R265); `retiring` names hosts whose request came
under an older epoch; `zeroing` holds while a release's zeros are written (R87). -/
structure Extent where
  base : Nat
  size : Nat
  region : Nat
  epoch : Nat
  hosts : List Nat
  order : Nat
  adopted : Option Nat
  stripe : Option Nat
  runs : List Run
  suspended : Bool
  closing : Bool
  zeroing : Bool
  deriving DecidableEq, Repr

/-- State of a grant (R173): `reserved` awaits the host's response. -/
inductive GrantSt where
  | active | withdrawn | reserved
  deriving DecidableEq, Repr

/-- The grant of a context for an extent (R173). -/
structure Grant where
  ctx : Nat
  ext : Nat
  epoch : Nat
  st : GrantSt
  deriving DecidableEq, Repr

/-- What changes an extent's host set (R177). -/
inductive ChangeKind where
  /-- Initiate Dynamic Capacity Release: hosts still to release; with forced removal none. -/
  | release (left : List Nat)
  /-- EXT_MOVE to this host set. -/
  | move (hosts : List Nat)
  deriving DecidableEq, Repr

/-- A release or move of an extent (R177): `via` is its interface; `started` once its epoch has advanced. -/
structure Change where
  ext : Nat
  kind : ChangeKind
  via : Option Via
  started : Bool
  deriving DecidableEq, Repr

/-- An HDM or GFD decoder (R168): `pos` is the position a GFD decoder answers for. -/
structure Decoder where
  base : Nat
  size : Nat
  ways : Nat
  gran : Nat
  pos : Option Nat
  dpa : Nat
  deriving DecidableEq, Repr

/-- An alias window (R178). -/
structure AliasWin where
  base : Nat
  span : Nat
  dpa : Nat
  consumers : List Nat
  deriving DecidableEq, Repr

/-- An access-violation record that counts repeats until its log is read (R175, R176). -/
structure Viol where
  ctx : Nat
  reason : Nat
  ext : Nat
  epoch : Nat
  handle : Nat
  deriving DecidableEq, Repr

/-- Why a host port drains (R183, R154). -/
inductive DrainWhy where
  | write | disable | role
  deriving DecidableEq, Repr

/-- A host port beside its registers: a running drain since a tick, link IDE active for CXL.mem and CXL.io, the insecure
state, logical devices whose BI decoder is enabled, and logical devices as (number, context, enabled). -/
structure HostPort where
  drain : Option (DrainWhy × Nat)
  ideMem : Bool
  ideIo : Bool
  insecure : Bool
  bi : List Nat
  deriving DecidableEq, Repr

/-- The host fabric: regions, extents, grants oldest first, running changes oldest first, enabled contexts, assignments
of logical devices (port × 16 + number to context and LD_EN), decoders and windows, snoop ports, violation records,
ports. -/
structure Fab where
  regions : Map Region
  extents : Map Extent
  order : Nat
  grants : List Grant
  changes : List Change
  ctxOn : List Nat
  lds : Map (Nat × Bool)
  hdm : Map Decoder
  gfd : Map Decoder
  alias_ : Map AliasWin
  snoopPort : Map Nat
  seen : List Viol
  ports : Map HostPort
  deriving DecidableEq, Repr

/-! ## Requests and durable writes (chapters 03 and 08) -/

/-- Who made a request to a line: a host, a verb of a pair by its serial number, the module itself. -/
inductive Who where
  | host (src : HostSrc) (ctx : Nat)
  | verb (pair : Nat) (ser : Nat)
  | self
  deriving DecidableEq, Repr

/-- What a request does to its line. `mask` has a bit for each byte written (R218). -/
inductive ReqOp where
  | rdShared | rdOwn | rdCur
  | wr (data : List Byte) (mask : Nat) (poison : Bool)
  /-- A write-back, which ended its owner's hold on arrival and waits only for its tier (R217). -/
  | wb (data : List Byte) (mask : Nat) (poison : Bool)
  /-- The holders are snooped and nothing is written: what a verb or the module needs before it writes (R227). -/
  | clear
  deriving DecidableEq, Repr

/-- Why a request waits: at its slice's ingress for an entry (R58, R355, R373); at its line (R216), which covers holds,
moves, pinned sets, full stops and lost sets; for a tenure; for snoops; for a peer-tier fetch; for a reconstruction. -/
inductive Wait where
  | ingress | line | tenure | snoop | fetch | recon
  deriving DecidableEq, Repr

/-- A request in the module. `ext` is the extent and epoch it was checked under (R174); `hint` the alias hint and
`consumer` the context it names (R178); `mute` says its response is discarded (R69, R181). -/
structure Req where
  id : Nat
  who : Who
  line : Nat
  op : ReqOp
  hint : Nat
  consumer : Option Nat
  ext : Option (Nat × Nat)
  wait : Wait
  mute : Bool
  deriving DecidableEq, Repr

/-- A durable write awaiting protection (R57): its slice, window and epoch if it is counted, line, and the deltas still
unacknowledged as (holder, sequence). -/
structure DWrite where
  slice : Nat
  win : Option (Nat × Nat)
  line : Nat
  owed : List (Nat × Nat)
  deriving DecidableEq, Repr

/-- How far a full stop has come in R59: queued; its epoch closed; its stage sent and owed; staged and protected. -/
inductive StopStep where
  | queued | closing | staged
  deriving DecidableEq, Repr

/-- A held full stop (R59): its writer, bytes and mask, the epoch it closed, the stage's delta and unacknowledged deltas,
and whether its host still takes the completion. -/
structure FullStop where
  win : Nat
  who : Who
  data : List Byte
  mask : Nat
  poison : Bool
  step : StopStep
  epoch : Nat
  owed : List (Nat × Nat)
  mute : Bool
  hint : Nat
  consumer : Option Nat
  promoted : Bool
  deriving DecidableEq, Repr

/-- States of a journal window (R52); FREE windows are not listed. -/
inductive WinSt where
  | open_ | suspended | deleting
  deriving DecidableEq, Repr

/-- A journal window (R49, R53). `mirror` counts the members whose WINDOW_MIRROR answer JW_SET or JW_DELETE awaits. -/
structure Window where
  entry : WinEntry
  st : WinSt
  epoch : Nat
  degraded : Bool
  lastSeq : Nat
  stopsDone : Nat
  deriving DecidableEq, Repr

/-- A window entry mirrored from a member (R105): owner, entry and state code. -/
structure Mirror where
  owner : Nat
  entry : WinEntry
  st : Nat
  deriving DecidableEq, Repr

/-- JW_SET or JW_DELETE waiting for members to answer WINDOW_MIRROR (R105). -/
structure MirrorWait where
  via : Via
  win : Nat
  del : Bool
  left : List (Nat × Nat)
  deriving DecidableEq, Repr

/-- A line or unit hold that this module grants (R107): requester, stripe, line (255 for the whole unit), the data unit
held, and the tag to answer once every delta of the held lines is acknowledged. -/
structure Hold where
  requester : Nat
  stripe : Nat
  line : Nat
  answer : Option Nat
  deriving DecidableEq, Repr

/-- The home slices' books: next request number, requests in arrival order, durable writes awaiting protection, held full
stops in order, windows, mirrored windows, mirror waits, holds, ledger entries of past violations, debts of the arbiter
rule as (resource, creditor, debtor). -/
structure Led where
  next : Nat
  reqs : List Req
  dws : List DWrite
  stops : List FullStop
  wins : Map Window
  mirrors : List Mirror
  mirrorWaits : List MirrorWait
  holds : List Hold
  debts : List (Nat × Nat × Nat)
  deriving DecidableEq, Repr

/-! ## Shared lines (chapter 08) -/

/-- State of a directory entry (R223) with its holders: the owner, up to six pointers, or groups of 64 contexts. -/
inductive DirSt where
  | owned (ctx : Nat)
  | ptr (ctxs : List Nat)
  | coarse (groups : List Nat)
  deriving DecidableEq, Repr

/-- A directory entry (R223), for the line at `line` × 64 in DPA. `tend` is the tenure-end tick. -/
structure DirEnt where
  line : Nat
  st : DirSt
  bisnp : Bool
  conflict : Bool
  tenure : Bool
  tend : Nat
  deriving DecidableEq, Repr

/-- Why a snoop was sent: for a request (its number), to free a directory way (R233), a wake (R238), or to recover a lost
set (R236). -/
inductive SnoopFor where
  | req (id : Nat)
  | evict
  | wake
  | walk
  deriving DecidableEq, Repr

/-- An outstanding snoop (R219): `inv` for BISnpInv, else BISnpData; sent at a tick on a port. -/
structure Snoop where
  line : Nat
  ctx : Nat
  inv : Bool
  port : Nat
  why : SnoopFor
  sent : Nat
  deriving DecidableEq, Repr

/-- A directory set that recovers after a loss (R236, R435): its slice and set, an on-die set as 524,288 + set. The head of the
list is being walked. -/
structure LostSet where
  slice : Nat
  set : Nat
  walked : Nat
  total : Nat
  deriving DecidableEq, Repr

/-- The directories: on-die sets under slice × 2,048 + set and memory sets under slice × 524,288 + set, each most recently
used first; snoops outstanding; watched lines by context (R238), wakes that wait for a tenure, by context; lost sets. -/
structure Dir where
  onDie : Map (List DirEnt)
  inMem : Map (List DirEnt)
  snoops : List Snoop
  watch : Map Nat
  wakePend : List Nat
  lost : List LostSet
  /-- Contexts whose snoop of a line timed out, as (line, context): a later write-back is merged without snoops (R230). -/
  late : List (Nat × Nat)
  /-- Lines taken from a context that owned them, as (line, context), by a link loss, a HOST_CTX_RESET or its leaving the host set: a
  write-back it still sends is discarded (R182, R235). -/
  taken : List (Nat × Nat)
  deriving DecidableEq, Repr

/-! ## Pages and tiers (chapter 09) -/

/-- State of a page with its location (R244, R247). -/
inductive PageSt where
  | unbacked
  | plain (frame : Nat)
  | packed (frame first grains lexicon : Nat)
  | peer (member slot : Nat)
  | lost
  deriving DecidableEq, Repr

/-- A page-map entry but for BACKED, which the extent gives (R247). -/
structure PageEnt where
  st : PageSt
  keep : Bool
  moving : Bool
  heat : Nat
  deriving DecidableEq, Repr

/-- A front-cache line (R237, R250). -/
structure FcLine where
  line : Nat
  dirty : Bool
  kept : Bool
  deriving DecidableEq, Repr

/-- A move of a page under way (R251): to a place; `packing` while its block is being compressed. -/
inductive MoveTo where
  | plain (frame : Nat)
  | packing (lexicon : Nat)
  | packed (frame first grains lexicon : Nat)
  | peer (member slot : Nat)
  deriving DecidableEq, Repr

/-- Pages and tiers: explicit page-map entries; moves under way; heat of backed pages is in `heat`; packing frames as
(first grain, grains) lists with their domain; pages held for peers under member × 2^36 + slot; tag words of own
peer-tier pages by slot; fetches as (page, tag, member); front-cache sets under slice × 2,048 + set; page-map cache as
pages under slice, with dirty marks; the level of use entered; LOST pages since the last capacity record; a running
LOST_CLEAR; PACKED pages the walk has passed once; whether the mover demotes (R253); places a lost map line held, with
the ends of walks left until they return to the pool (R265). -/
structure Tier where
  pages : Map PageEnt
  moves : Map MoveTo
  packs : Map (Nat × List (Nat × Nat))
  held : Map (List Byte)
  heldFrames : Map Nat
  tags : Map (List Nat)
  fetches : List (Nat × Nat × Nat)
  puts : List (Nat × Nat × Nat)
  fc : Map (List FcLine)
  mapCache : Map (List (Nat × Bool))
  lostSince : Nat
  clearing : List (Via × Nat × Nat)
  walked : List Nat
  demoting : Bool
  limbo : List (PageSt × Nat)
  deriving DecidableEq, Repr

/-! ## The group (chapter 04) -/

/-- A delta formed and not acknowledged (R94, R402): sequence, KIND (1 DATA, 2 STAGE, 3 COMMIT), SOURCE_LINE, STANDIN and
the scaled data; `sent` once it is within the window of 65,536. -/
structure Delta where
  seq : Nat
  kind : Nat
  line : Nat
  standin : Bool
  data : List Byte
  sent : Bool
  deriving DecidableEq, Repr

/-- Delta state towards a holder (R94). -/
structure PairOut where
  next : Nat
  unacked : List Delta
  deriving DecidableEq, Repr

/-- A stage held (R98): its key (the LINE field), delta sequence and data. -/
structure Stage where
  key : Nat
  seq : Nat
  data : List Byte
  deriving DecidableEq, Repr

/-- Delta state from a sender (R95, R98): APPLIED_THROUGH, offsets above it whose bit is set, stages, and A as last
sent. -/
structure PairIn where
  a : Nat
  set_ : List Nat
  stages : List Stage
  sentA : Nat
  deriving DecidableEq, Repr

/-- A command that changes the map, as a member forwards it to its keeper (R115). -/
inductive GroupCmd where
  | markLost (x : Nat)
  | standinSet (lost : Nat) (by_ : Nat)
  | standinClear (lost : Nat)
  | replace (x : Nat) (id : Nat)
  | restripe (k : Nat) (m : Nat)
  | keeperSet
  | dissolve
  deriving DecidableEq, Repr

/-- A map change that the keeper is to make (R81): formation; a mark of a member STALE or LOST (R99); a stand-in assigned or
cleared; a replacement (R110); a STALE member's return (R111); an ACTIVE member that recomputes parity (R411); a walk's end; a
re-stripe's start and end (R112); a new keeper; a dissolution; an accepted proposal made again (R83). -/
inductive ChangeReq where
  | form
  | mark (x : Nat) (st : Nat)
  | standin (lost : Nat) (by_ : Option Nat)
  | replace (x : Nat) (id : Nat)
  | back (x : Nat)
  | recompute (x : Nat)
  | active (x : Nat)
  | restripe (k : Nat) (m : Nat)
  | restriped
  | keeper (term : Nat)
  | dissolve
  | again (map : GMap)
  deriving DecidableEq, Repr

/-- A map change proposed and not committed (R81): the new map, what asked for it, members that have accepted, requests
outstanding as (member, tag), the replacement whose answer comes first, when it was proposed. -/
structure Proposal where
  map : GMap
  req : ChangeReq
  acks : List Nat
  tags : List (Nat × Nat)
  first : Option Nat
  began : Nat
  deriving DecidableEq, Repr

/-- The stages of members to be marked are collected (R99): the marks, which of them is asked about, answers awaited as (member,
tag), segments in hand as (member, segment, count, keys), whole answers as (marked member, replier, keys), when the question left. -/
structure StageAsk where
  req : ChangeReq
  marks : List (Nat × Nat)
  cur : Nat
  left : List (Nat × Nat)
  segs : List (Nat × Nat × Nat × List Nat)
  got : List (Nat × Nat × List Nat)
  began : Nat
  deriving DecidableEq, Repr

/-- What a member walks (R109). -/
inductive OpKind where
  | rebuild | resync | restripe
  deriving DecidableEq, Repr

/-- A walk of this module (R109 to R111): its kind, the boundary, members that have not answered the step for the next, whether a unit
was beyond recovery, whether only the units a restore left are recomputed (R411), lines and units in hand as (stripe, position, line
or 255, data), requests outstanding as (member, tag, stripe, position, line), holds taken as (member, stripe), positions refused as
(stripe, position). -/
structure Walk where
  kind : OpKind
  q : Nat
  left : List (Nat × Nat)
  stepping : Bool
  failed : Bool
  partly : Bool
  held : List (Nat × Nat × Nat × List Byte)
  asked : List (Nat × Nat × Nat × Nat × Nat)
  holds : List (Nat × Nat)
  bad : List (Nat × Nat)
  deriving DecidableEq, Repr

/-- A step of a re-stripe at a member (R112): the boundary it leads to, the keeper's request that is answered at its end, units asked
for as (member, tag, stripe, position) and in hand as (stripe, position, data), holds taken as (member, stripe). -/
structure StripeStep where
  b : Nat
  answer : Option (Nat × Nat)
  asked : List (Nat × Nat × Nat × Nat)
  held : List (Nat × Nat × List Byte)
  holds : List (Nat × Nat)
  deriving DecidableEq, Repr

/-- What a reconstruction serves: a request, the stop line of a window's full stop (R59), settling a touched line of a
channel (R334), a parity line (R114), an absent durable line (R411), a line of a rebuilt leaf (R308). -/
inductive ReconFor where
  | req (id : Nat)
  | stop (win : Nat)
  | settle (ch : Nat) (x : Nat)
  | parity (x : Nat)
  | line (l : Nat)
  deriving DecidableEq, Repr

/-- A reconstruction of one line under a hold (R107, R108, R333): the stripe, its geometry's parity store and the line, what it serves,
the position sought, lines in hand as (position, data), requests outstanding as (member, tag, position) with tag 0 for this module's
own line, positions refused or unavailable, whether the data members have been asked, members that hold for it. -/
structure Recon where
  stripe : Nat
  store : Nat
  line : Nat
  why : ReconFor
  want : Nat
  got : List (Nat × List Byte)
  out : List (Nat × Nat × Nat)
  bad : List Nat
  asked : Bool
  held : List Nat
  deriving DecidableEq, Repr

/-- The claim of a new keeper (R83): its term and the replies, as (member, accepted proposal). -/
structure Claim where
  term : Nat
  got : List (Nat × Option GMap)
  via : Via
  deriving DecidableEq, Repr

/-- The group: the map in force, the highest keeper term seen, an accepted proposal, the module's own ID, a GRP_FORM that awaits
adoption with its interface, map and arrival; the keeper's proposal, stage collection and claim; reports of reason 4 as (reporter,
member); pair states by member; the parity store's lines; absent durable lines (R411); boundaries of other members as (operation,
boundary); the module's walk; reconstructions; a stand-in being cleared; when a peer became unreachable. -/
structure Grp where
  map : Option GMap
  highTerm : Nat
  accepted : Option GMap
  ownId : Nat
  form : Option (Via × GMap × Nat)
  prop : Option Proposal
  ask : Option StageAsk
  claim : Option Claim
  reports : List (Nat × Nat)
  outs : Map PairOut
  ins : Map PairIn
  parity : Memory
  absent : List Nat
  bounds : Map (Nat × Nat)
  walk : Option Walk
  recons : List Recon
  clearing : Option (Via × Nat)
  downAt : Map Nat
  deriving DecidableEq, Repr

/-- What the group keeps beside `Grp`: commands waiting for a commit (R115); changes the keeper has still to make, in arrival order;
frames of the parity store and of the target's; the re-stripe boundary B, this module's part of a step, and at the keeper the members
that have not answered it; parity units to recompute after a restore; stop lines promoted for an adopted member; members marked while
they rebuilt (R109); the group epoch under which a member was marked (R86); members whose map was fetched since the fence was raised,
and those still to be asked, after a restore (R85, R411); deltas of the restored ledger still owed; a formation proposal that waits. -/
structure GrpAux where
  waits : List (Via × GroupCmd)
  queue : List ChangeReq
  parityRuns : List Run
  targetRuns : List Run
  restripeB : Nat
  step : Option StripeStep
  stepLeft : List (Nat × Nat)
  resyncUnits : List Nat
  promotedStops : List Nat
  wasReb : List Nat
  staleEpoch : Map Nat
  fetched : List Nat
  rejoin : List Nat
  ledger : List (Nat × Nat)
  reconciling : Bool
  heldPropose : Option (Nat × Nat × GMap)
  deriving DecidableEq, Repr

/-! ## Berfel (chapter 05) -/

/-- A message of the bundle layer (R132, R133): class, flags and opcode (for a delta: kind and the high bits of byte 8, and
zero), PARAM, body. A delta's header fields lie in `dseq` and `line`. -/
structure Msg where
  cls : Nat
  flags : Nat
  op : Nat
  param : Nat
  dseq : Nat
  line : Nat
  body : List Byte
  deriving DecidableEq, Repr

/-- A request sent and not answered (R148, R149): its tag and message. -/
structure OutReq where
  tag : Nat
  msg : Msg
  deriving DecidableEq, Repr

/-- A bundle (R147 to R149, R152): messages waiting for a port, messages returned with their BSEQ and epoch bytes, BSEQ of
both directions, the reorder store, outstanding requests, the next tag, incarnations, whether the next BULK message
resets the history, the compression histories of both directions (R152), messages sent by BSEQ, and messages bounced and waiting to be
sent again, as (BSEQ, whether a newer map is awaited, message). -/
structure Bundle where
  queue : List Msg
  returned : List (Nat × List Byte)
  tx : Nat
  rx : Nat
  reorder : Map (List Byte)
  reqs : List OutReq
  tag : Nat
  ownInc : Nat
  peerInc : Nat
  histReset : Bool
  txHist : List Byte
  rxHist : List Byte
  sent : Map Msg
  bounced : List (Nat × Bool × Msg)
  deriving DecidableEq, Repr

/-- A frame kept for replay (R143): sequence, key generation, FIRST, FILL, payload as sent, and the messages with a byte
in it as (BSEQ, whole message); a HELLO frame holds none (R145). `puts` names peer-tier slots whose PAGE_PUT ends in it (R256). -/
structure Frame where
  fseq : Nat
  keygen : Nat
  first : Nat
  fill : Nat
  payload : List Byte
  msgs : List (Nat × List Byte)
  puts : List Nat
  deriving DecidableEq, Repr

/-- A run of GCM frames being sent (R150): link headers with ACK and NAK zero, ciphertext so far, the count of frames before it, its
frames, its first tick, and whether it closes at the next message boundary. -/
structure GcmRun where
  aad : List Byte
  text : List Byte
  start : Nat
  frames : Nat
  opened : Nat
  closing : Bool
  deriving DecidableEq, Repr

/-- Keys of one direction (R151): salt and key by generation, the generation in use, frames under it, and a switch that
waits for the run boundary. -/
structure DirKeys where
  keys : Map (Nat × List Byte)
  gen : Nat
  count : Nat
  switch : Bool
  deriving DecidableEq, Repr

/-- A peer port beside its registers: its peer's module ID once a HELLO is accepted; frames kept; a message partly placed as (BSEQ, whole,
bytes left); received bytes of an unfinished message; accepted frames of an unverified run as (generation, link header, payload); by
class, credits used and the peer's limit, credits the peer has used and the limit granted to it; a NAK was sent and no frame since
accepted or failed; the module ID of the last HELLO accepted here; when ACK last advanced or a replay last began; when the state was entered; the keys and
the run being sent; frames the receiver counted under its key, by generation. -/
structure PeerPort where
  peer : Option Nat
  frames : List Frame
  rest : Option (Nat × List Byte × List Byte)
  partial_ : List Byte
  runRx : List (Nat × List Byte × List Byte)
  used : List Nat
  limit : List Nat
  rcvd : List Nat
  grant : List Nat
  naked : Bool
  last : Nat
  lastAck : Nat
  entered : Nat
  tx : DirKeys
  rxKeys : DirKeys
  rxCount : List Nat
  runTx : Option GcmRun
  deriving DecidableEq, Repr

/-- A lane quad's configuration in force (R154, R155, R161). -/
structure QuadCfg where
  role : Nat
  split : Nat
  cfg : Nat
  base : Nat
  deriving DecidableEq, Repr

/-- Berfel: OWN_INC of a bundle that has not been used (R149), bundles by peer module ID, ports by engine, quads in force, and quads
that change role with what they change to. -/
structure Bfl where
  inc0 : Nat
  bundles : Map Bundle
  ports : Map PeerPort
  quads : Map QuadCfg
  changing : Map QuadCfg
  deriving DecidableEq, Repr

/-! ## Lexicon (chapter 10) -/

/-- State of a preset lexicon (R279). -/
inductive LexSt where
  | loading | ready | faulty
  deriving DecidableEq, Repr

/-- A preset lexicon that is not EMPTY (R279): bytes written, committed length and CRC. -/
structure Lexicon where
  st : LexSt
  bytes : List Byte
  len : Nat
  crc : Nat
  deriving DecidableEq, Repr

/-- An open stream slot (R283): the ring pair that uses it, direction, seed lexicon, history; `lost` when its stored state
was lost (R309). -/
structure Stream where
  pair : Nat
  compress : Bool
  seed : Nat
  hist : List Byte
  lost : Bool
  deriving DecidableEq, Repr

/-- Work for a lexicon engine (R287): class, direction, what it belongs to (a page, or a pair × 2^32 + serial number), the
stream slot, the block or bytes. -/
structure LexJob where
  cls : Nat
  compress : Bool
  owner : Nat
  slot : Option Nat
  lexicon : Nat
  bytes : List Byte
  arrived : Nat
  deriving DecidableEq, Repr

/-- The lexicon: preset lexicons, the lexicon of each domain, streams by slot, jobs waiting at each engine and running, and slots
whose stream a power loss ended and that have not been opened since (R286). -/
structure Lex where
  presets : Map Lexicon
  domains : Map Nat
  streams : Map Stream
  waiting : Map (List LexJob)
  running : Map LexJob
  gone : List Nat
  deriving DecidableEq, Repr

/-! ## Keys and counters (chapter 11) -/

/-- A key slot that is not FREE (R292, R293): FRONT_TARGET or DOMAIN, mode, generation bit, K1, K2 and KMAC as 96 bytes;
`lost` when both copies of its entry are lost (R309). -/
structure KeySlot where
  target : Bool
  mode : Nat
  g : Nat
  key : List Byte
  lost : Bool
  deriving DecidableEq, Repr

/-- A running front (R310, R311): domain, target slot (none for slot 0), extents of the fixed walk as (base, size, number)
in ascending DPA, lines passed, total; `after` is the line at F; `auto` when R307 started it. -/
structure Front where
  domain : Nat
  target : Option Nat
  key : List Byte
  walk : List (Nat × Nat × Nat)
  passed : Nat
  total : Nat
  auto : Bool
  deriving DecidableEq, Repr

/-- A recovery walk below a lost counter node (R308): node level and index, leaves rebuilt, first leaf and count, and whether the one
record that names its range has been raised. -/
structure NodeWalk where
  node : Nat
  first : Nat
  leaves : Nat
  done : Nat
  told : Bool
  deriving DecidableEq, Repr

/-- Keys and counters: slots 1 to 4,095, slot 0, fronts by engine, automatic fronts waiting for a slot and engine, MAJOR by
node index and minors by node index × 64 + child, recovery walks, slots held unwrapped by each cipher engine, and nodes in the counter
cache of each slice, oldest first, with a dirty mark (R305). -/
structure Key where
  slots : Map KeySlot
  zero : KeySlot
  fronts : Map Front
  deferred : List Nat
  majors : Map Nat
  minors : Map Nat
  walks : List NodeWalk
  caches : Map (List Nat)
  nodes : Map (List (Nat × Bool))
  deriving DecidableEq, Repr

/-! ## Memory channels (chapter 12) -/

/-- A channel beside its registers: touched lines, whether it settles and how many lines were touched at the thaw, whether it
trains for a thaw, the local unit a retirement has reached, ticks of the corrections of the last 24 h, whether a lull runs, refreshes held
during it, channel time used in the spell by activity, and use and budgets of the last spell in ticks. -/
structure Chan where
  touched : List Nat
  settling : Bool
  settleTotal : Nat
  thawing : Bool
  retiring : Option Nat
  ceTicks : List Nat
  lull : Bool
  refreshHeld : Nat
  spellUse : List Nat
  useLast : List Nat
  budLast : List Nat
  deriving DecidableEq, Repr

/-- Memory channels: those with something to record, retired channels, internal units moved to pool frames. -/
structure Chn where
  chans : Map Chan
  retired : List Nat
  internalFrames : Map Nat
  deriving DecidableEq, Repr

/-! ## Rings and verbs (chapter 13) -/

/-- How far a verb has come: its entry is being read; it is read; it has asked for its erasure-coding list; for its sources; it waits
for a lexicon engine; it has asked for its writes; its completion entry is being written. -/
inductive VerbStep where
  | entry | taken | list | source | lexicon | write | post
  deriving DecidableEq, Repr

/-- A verb of a pair: its serial number in the pair, its submission index and entry bytes; whether it has started, and how far it has come; lines read for it, with
their poison; writes asked for as (line, operand bytes, poison); lines written; lines turned away (R346); its stream slot; the
result of its lexicon block; its outcome once complete, as status, RESULT0 and RESULT1, and its place among the pair's completions. -/
structure Verb where
  ser : Nat
  idx : Nat
  entry : List Byte
  started : Bool
  step : VerbStep
  got : Map (List Byte × Bool)
  puts : List (Nat × Nat × Bool)
  wrote : List Nat
  bad : List Nat
  slot : Nat
  lex : Option (Nat × List Byte)
  outcome : Option (Nat × Nat × Nat)
  order : Nat
  deriving DecidableEq, Repr

/-- A ring pair beside its entry's registers (R342 to R356): verbs taken and not posted, in submission order; doorbells
accepted and not handed over; the tail and head handed over; PHASE; verbs taken and completed since ENABLE; completions since the last
notification and the tick of the oldest of them; whether the next completion was counted as waiting. -/
structure Pair where
  verbs : List Verb
  bells : List (Nat × Nat)
  tail : Nat
  head : Nat
  phase : Nat
  taken : Nat
  done : Nat
  unnotified : Nat
  since : Nat
  waiting : Bool
  deriving DecidableEq, Repr

/-! ## Spells and floors (chapter 14) -/

/-- Spell accounting of a master beside its table entry (R372 to R376): bytes by slice this spell, shares by slice, gust
shares, bytes drawn at level 2, requests, and the deficit at level 3. -/
structure Master where
  bytes : Map Nat
  floorShare : Map Nat
  gustShare : Map Nat
  drawn : Nat
  reqs : Nat
  deficit : Nat
  deriving DecidableEq, Repr

/-- The spell governor: masters with something to record, the tick the spell began, changes that call for the overcommit
check, SPELL_TICKS and budgets in force, the last master admitted at each slice. -/
structure Spl where
  masters : Map Master
  began : Nat
  check : Bool
  ticks : Nat
  tooMuch : Bool
  last : Map Nat
  deriving DecidableEq, Repr

end Sys2Proof.Machine
end

