-- ==== Sys2Proof/Machine/State.lean ====
section
/-!
DEFINITION. Machine/State.lean: the state of the module as plain data, its reasons to stop, and the machine right
after reset. One structure per part of the spec; registers are held field by field in one store.
-/
namespace Sys2Proof.Machine

/-- Reasons a command stops the model. -/
inductive Fault where
  /-- Raised by a command that names a unit this module does not have: a page, port, slice, channel, quad, context
  or pair beyond the counts of R7 and R24. Safe: the model stops where the hardware has nothing to act. -/
  | absentUnit
  deriving DecidableEq, Repr

/-- Reasons the model has no meaning for a command. -/
inductive Refusal where
  /-- Raised by an arm of `exec` for a command the model does not describe. Safe: the model stops. -/
  | notModelled (mnemonic : String)
  deriving DecidableEq, Repr

/-- Access codes of register fields (R28). `cnt` is a 48-bit counter that a write of any value clears. -/
inductive Acc where
  | ro | rw | rw1c | rw1s | wo | ros | rwl | cnt
  deriving DecidableEq, Repr

/-- One register field: offset of its register, lowest bit, width, access code and reset value. -/
structure Fld where
  off : Nat
  lo : Nat
  width : Nat
  acc : Acc
  rst : Nat
  deriving DecidableEq, Repr

/-- Severity of an event record (R203). -/
inductive Sev where
  | info | warning | failure | fatal
  deriving DecidableEq, Repr

/-- What an event record reports. -/
inductive EvKind where
  | moduleFault | tamper | lifecycleFused | sramUncorrectable | unrepairable
  | avsCeiling | capLowered | powerLimited | allowance | vaultSlow | eyeLow | age500 | age800 | ageEnd | bankFail
  | restoreRecord | restoreFailure | volatileAtRisk | powerFault | fetDegraded | thermalTrip | leak | refclk
  | accessViolation | epochMoved | extentSuspended | notHolder | channelFrozen | channelRetired | ceThreshold
  | thermHigh | capacity | pageLost | peerPagesLost | mapRebuilt | lexiconFault | poison | nodeLost | macFail
  | counterHigh | noFrontSlot | frontDone | keyLost | keyRepaired | bisnpTimeout | dirSetLost | watchCleared
  | floorShortfall | floorOvercommit | memberMarked | beyondTolerance | opDone | quorumLost | fenced
  | dcAdd | dcRelease | dcForcedRelease | hostSet | linkDown | widthFail | portDown | ringError | dieFault
  | frozenDurable | thawFail | poisonInjected
  deriving DecidableEq, Repr

/-- One event record. -/
structure EvRec where
  handle : Nat
  sev : Sev
  kind : EvKind
  args : List Nat
  at_ : Nat
  deriving DecidableEq, Repr

/-- The event logs (R203): at most 1,024 records of each severity, overflow counts, next handle. -/
structure EvLogs where
  recs : List EvRec
  lost : Map Nat
  next : Nat
  deriving DecidableEq, Repr

/-- Return codes of mailbox and FM-API commands. -/
inductive Rc where
  | success | background | invalidInput | unsupported | busy | retry | invalidHandle
  | failure | invalidExtentList | mailboxEmpty
  deriving DecidableEq, Repr

/-- What the module sends to the outside. -/
inductive Out where
  /-- A register read's completion. -/
  | regData (off size val : Nat)
  /-- A request completed as Unsupported Request (R25). -/
  | unsupportedReq (off : Nat)
  /-- A configuration request answered with Configuration Request Retry Status (R208). -/
  | cfgRetry
  /-- One MSI-X message (R196). -/
  | msix (vector addr data : Nat)
  /-- A mailbox or FM-API command's completion with its output bytes. -/
  | reply (via : Via) (rc : Rc) (data : List Byte)
  /-- A completion of a standard command whose payload layout the spec leaves to the standard: its values. -/
  | replyVals (via : Via) (rc : Rc) (vals : List Nat)
  /-- A completion on a logical device's own mailbox, with its values (R167, R184). -/
  | ldReply (port ld : Nat) (rc : Rc) (vals : List Nat)
  /-- The records of a log, and how many were lost (R203). -/
  | records (via : Via) (recs : List EvRec) (lost : Nat)
  /-- A memory read of the firmware fetch (R204). -/
  | fwRead (tag addr len : Nat)
  /-- MemData with its meta value and poison (R218). -/
  | memData (src : HostSrc) (grant : MetaVal) (data : List Byte) (poison : Bool)
  /-- Completion of a write, full stop or clean-eviction notice. -/
  | memDone (src : HostSrc)
  /-- BISnpInv (true) or BISnpData of the line at a DPA to a context, by its snoop port (R219, R220). -/
  | snoop (port ctx dpa : Nat) (inv : Bool)
  /-- BIConflictAck (R231): behind the context's response, or at once. -/
  | conflictAck (port ctx dpa : Nat) (behind : Bool)
  /-- A write a stand-in forwards to the replacement below its boundary (R110): member, unit, line, bytes and mask. -/
  | forwarded (member unit line : Nat) (data : List Byte) (mask : Nat)
  /-- GPF Phase 1 acknowledged, GPF Phase 2 complete (R68). -/
  | gpf (port phase : Nat)
  /-- A message handed to the module above the bundle layer, with its whole bytes (R147). -/
  | delivered (peer : Nat) (msg : List Byte)
  /-- A Berfel frame leaves a port (R128). -/
  | frame (port : Nat) (raw : List Byte)
  /-- A map-changing command forwarded to a member (R115), which names no message for it (log entry 32). -/
  | forwardCmd (member : Nat) (cmd : GroupCmd)
  /-- The SMBus answer of the power entry controller (R429). -/
  | sideband (code val : Nat)
  deriving DecidableEq, Repr

/-- Fuses (R442): lifecycle state, KEY_GEN, wipes over the module's life, and a move of which only one fuse field is
written. -/
structure Fuses where
  lifecycle : Nat
  keyGen : Nat
  wipes : Nat
  half : Option Nat
  deriving DecidableEq, Repr

/-- States of the power entry stage, with the codes of R431. -/
inductive PwrSt where
  | off | delay | ramping | on | latched | fetFail
  deriving DecidableEq, Repr

/-- What the fault timer runs for (R420, R422). -/
inductive FaultTimer where
  | ramp | breaker
  deriving DecidableEq, Repr

/-- One entry of the power entry controller's log (R429, R431). -/
structure PwrLog where
  cause : Nat
  vinAt : Nat
  iinAt : Nat
  rampNo : Nat
  deriving DecidableEq, Repr

/-- The power entry stage (chapter 17): a controller beside the die, with its own timers and memory. -/
structure Pwr where
  st : PwrSt
  pg : Bool
  qualify : Bool
  timer : Option FaultTimer
  latch : Option Nat
  coolDown : Bool
  clearHeld : Bool
  enLow : Bool
  fetShort : Bool
  fetDegraded : Bool
  present : Bool
  en : Bool
  vinValid : Bool
  bias : Bool
  pfwLow : Bool
  dly : Nat
  postSave : Bool
  tripHold : Bool
  log : List PwrLog
  fresh : Nat
  ramps : Nat
  latches : Nat
  deriving DecidableEq, Repr

/-- One firmware slot of the boot flash (R204, R459). -/
structure FwSlot where
  image : Bool
  good : Bool
  version : Nat
  deriving DecidableEq, Repr

/-- One entry of the repair log (R439, R445). -/
structure Repair where
  column : Bool
  region : Nat
  position : Nat
  spare : Nat
  pass : Nat
  deriving DecidableEq, Repr

/-- The boot flash (R439, R459): the firmware slots, the slot the last Activate FW named, the repair log. -/
structure Boot where
  slot1 : FwSlot
  slot2 : FwSlot
  named : Option Nat
  repairs : List Repair
  passes : Nat
  deriving DecidableEq, Repr

/-- The secure store (R441). -/
structure Secure where
  devKey : BitVec 256
  root : Nat
  majorHigh : Nat
  bootTag : Nat
  spareKey : Option (List Byte)
  measure : Nat
  deriving DecidableEq, Repr

/-- Start-up, resets and the board around the die (chapters 20 and 21). -/
structure Glb where
  powered : Bool
  pagesUp : Bool
  dramUp : Bool
  armUntil : Option Nat
  resetBy : Option Nat
  past : Nat
  halted : Bool
  faultTicks : List Nat
  pgTick : Nat
  restoreTick : Nat
  clkStopped : List Nat
  holdover : Bool
  thermLow : Bool
  leakLow : Bool
  /-- The break element has opened (R443): it stays so over every reset. -/
  lidOpen : Bool
  /-- Tamper was found since the die was last reset (R441, R443). -/
  tampered : Bool
  moduleResets : Nat
  faultResets : Nat
  sec : Secure
  deriving DecidableEq, Repr

/-- The drizzle tester (R437 to R440): the region under test, and fenced regions. -/
structure Drz where
  under : Option Nat
  paused : Bool
  lastEnd : Nat
  fenced : List Nat
  used : Map Nat
  deriving DecidableEq, Repr

/-- One MSI-X table entry (R195). -/
structure MsixEnt where
  addr : Nat
  data : Nat
  masked : Bool
  deriving DecidableEq, Repr

/-- A running firmware fetch (R204): where it reads from, its length and slot, the next offset to read, bytes
staged, and the reads outstanding as (tag, length). -/
structure Fetch where
  addr : Nat
  len : Nat
  slot : Nat
  next : Nat
  staged : Nat
  out : List (Nat × Nat)
  deriving DecidableEq, Repr

/-- The steward function (chapter 07). -/
structure Stw where
  bars : Map Nat
  msix : Map MsixEnt
  pend : List Nat
  flr : Bool
  fetch : Option Fetch
  quar : List Nat
  transfer : Option (Nat × Nat)
  deriving DecidableEq, Repr

/-- Background command of an interface (R202). -/
structure BgCmd where
  via : Via
  opcode : Nat
  /-- What it acts on: a window, an extent, a context. -/
  arg : Nat
  deriving DecidableEq, Repr

/-- Management core state that the standard commands read and write (R184, R201 to R203). -/
structure Mgmt where
  bg : List BgCmd
  logs : EvLogs
  policy : List Nat
  timestamp : Nat
  rspLimit : Nat
  ldAlloc : List Nat
  poisonList : List (Nat × Nat)
  deriving DecidableEq, Repr

/-- The barometer (chapter 15): reference values, running plan, what it has raised. -/
structure Age where
  dRef : Nat
  c0 : Nat
  esr0 : Nat
  tProg0 : Nat
  plan : Option Nat
  planHeld : Bool
  full : Bool
  tempMax : Nat
  raised : List Nat
  capNext : Option Nat
  lullNext : Map Nat
  lullEye : Map Nat
  load : Nat
  railMw : Nat
  deriving DecidableEq, Repr

/-- What a vault image carries (R402), as the machine held it when preparation ended. -/
structure Saved where
  /-- Register fields of the module configuration, the ring table's among them (R357). -/
  cfg : Map Nat
  logs : EvLogs
  poisonList : List (Nat × Nat)
  saves : Nat
  restores : Nat
  mem : Memory
  poison : Map Nat
  fab : Fab
  led : Led
  tier : Tier
  grp : Grp
  aux : GrpAux
  inc0 : Nat
  bundles : Map Bundle
  quads : Map QuadCfg
  ringEpochs : Map Nat
  lex : Lex
  key : Key
  deriving DecidableEq, Repr

/-- One vault image (R402 to R404). `keyGen` names the device key its header is sealed under. Of the saved state, the last `parityCut`
parity units and the last `volCut` records of section 4 were not written (R405); `deadPacks` counts packed pages left out because a line
of theirs did not decode (R403). -/
structure Image where
  seq : Nat
  trigger : Nat
  keyGen : Nat
  mapGen : Nat
  sealed_ : Bool
  durableComplete : Bool
  truncated : Bool
  parityCut : Nat
  volCut : Nat
  deadPacks : Nat
  durationMs : Nat
  energyJ : Nat
  vEnd : Nat
  saved : Saved
  deriving DecidableEq, Repr

/-- Steps of a running save (R400 to R404). -/
inductive SaveStep where
  | prepare | writing
  deriving DecidableEq, Repr

/-- What follows a save's seal (R397). -/
inductive AfterSave where
  | resume | powerDown | reset (code : Nat) | halt
  deriving DecidableEq, Repr

/-- A running save. -/
structure Save where
  trigger : Nat
  step : SaveStep
  after : AfterSave
  start : Nat
  truncated : Bool
  parityCut : Nat
  volCut : Nat
  durable : Bool
  gpf : List Nat
  deriving DecidableEq, Repr

/-- The vault (chapter 16): two image areas, whether the target is wholly erased, the lexicon area's generation and
copies (R398), a
running save, a running restore. -/
structure Vlt where
  areaA : Option Image
  areaB : Option Image
  erased : Bool
  lexGen : Nat
  lexArea : Map Lexicon
  save : Option Save
  restoring : Bool
  deriving DecidableEq, Repr

/-- Why durable extents are fenced (R85): no majority, a mark in the group map, tamper (R443), a STALE or FAILED restore
(R410), start-up before the module is found ACTIVE (R460), HALTED (R464). -/
inductive Fence where
  | quorum | marked | tamper | restore | startup | halted
  deriving DecidableEq, Repr

/-- The module but for its queue, its fuses and its power entry stage. -/
structure Mod where
  out : List Out
  free : Nat
  tick : Nat
  regs : Map Nat
  glb : Glb
  boot : Boot
  drz : Drz
  stw : Stw
  mgmt : Mgmt
  /-- The snapshot of R454: the COUNT and OVF fields of every page as they were at SNAP_TICK. -/
  snap : Map Nat
  fences : List Fence
  age : Age
  vlt : Vlt
  /-- What the lines of the module's own extents hold, by byte of DPA: the coherent view, wherever a line lies. -/
  mem : Memory
  /-- Lines (DPA / 64) with POISON set (R299). -/
  poison : Map Nat
  fab : Fab
  led : Led
  dir : Dir
  tier : Tier
  grp : Grp
  aux : GrpAux
  bfl : Bfl
  lex : Lex
  key : Key
  chn : Chn
  rng : Map Pair
  spl : Spl
  deriving DecidableEq, Repr

/-- The machine: the queue of waiting commands, the fuses, the power entry stage, and the rest of the module. -/
structure State where
  pending : List Instr
  fuse : Fuses
  pwr : Pwr
  m : Mod
  deriving DecidableEq, Repr

/-- The fuses of a module as shipped: PROVISIONED, KEY_GEN 0 (log entry 6). -/
def Fuses.reset : Fuses := { lifecycle := 1, keyGen := 0, wipes := 0, half := none }

/-- The power entry stage when the die starts: on, PG released (the resets of R431), log empty (log entry 5). -/
def Pwr.reset : Pwr :=
  { st := .on, pg := true, qualify := false, timer := none, latch := none, coolDown := false, clearHeld := false,
    enLow := false, fetShort := false, fetDegraded := false, present := true, en := true, vinValid := true, bias := true,
    pfwLow := false, dly := 3, postSave := false, tripHold := false, log := [], fresh := 0,
    ramps := 0, latches := 0 }

/-- No host, extent or decoder is configured (log entry 5). -/
def Fab.reset : Fab :=
  { regions := [], extents := [], order := 0, grants := [], changes := [], ctxOn := [], lds := [], hdm := [], gfd := [],
    alias_ := [], snoopPort := [], seen := [], ports := [] }

/-- No request is in the module and no window is defined (R52). -/
def Led.reset : Led :=
  { next := 0, reqs := [], dws := [], stops := [], wins := [], mirrors := [], mirrorWaits := [], holds := [], debts := [] }

/-- Every directory starts empty (R408). -/
def Dir.reset : Dir := { onDie := [], inMem := [], snoops := [], watch := [], wakePend := [], lost := [], late := [], taken := [] }

/-- No page is backed. -/
def Tier.reset : Tier :=
  { pages := [], moves := [], packs := [], held := [], heldFrames := [], tags := [], fetches := [], puts := [], fc := [],
    mapCache := [], lostSince := 0, clearing := [], walked := [], demoting := false, limbo := [] }

/-- The module is in no group: generation 0 and term 0 (R115). -/
def Grp.reset : Grp :=
  { map := none, highTerm := 0, accepted := none, ownId := Config.moduleId.toNat, form := none, prop := none, ask := none,
    claim := none, reports := [], outs := [], ins := [], parity := [], absent := [], bounds := [], walk := none, recons := [],
    clearing := none, downAt := [] }

/-- The rest of the group's state when the module is in none. -/
def GrpAux.reset : GrpAux :=
  { waits := [], queue := [], parityRuns := [], targetRuns := [], restripeB := 0, step := none, stepLeft := [], resyncUnits := [],
    promotedStops := [], wasReb := [], staleEpoch := [], fetched := [], rejoin := [], ledger := [], reconciling := false,
    heldPropose := none }

/-- No bundle, every peer port down (R145); as shipped lane quad 0 is in the host role as an x4 direct-mode port on port engine 0 (R189). -/
def Bfl.reset : Bfl :=
  { inc0 := 0, bundles := [], ports := [], quads := [(0, { role := 1, split := 0, cfg := 0, base := 0 })], changing := [] }

/-- The register fields of the module as shipped (R154, R155, R189): ROLE_CODE 1 on the STW page, on PRT 0 and on LNQ 0, and ROLE_REQ 1 on
LNQ 0, keyed by BAR0 offset times 64 plus the field's lowest bit. Every other field stands at its table's reset value. -/
def shippedRegs : Map Nat := [(0xB048 * 64 + 16, 1), (0x10048 * 64 + 16, 1), (0x70048 * 64 + 16, 1), (0x70100 * 64, 1)]

/-- Every lexicon but 0 is EMPTY and every stream slot FREE (R279, R286). -/
def Lex.reset : Lex := { presets := [], domains := [], streams := [], waiting := [], running := [], gone := [] }

/-- Every host slot is FREE (R316); slot 0's key material is free (log entry 4); every counter is zero (R306). -/
def Key.reset : Key :=
  { slots := [], zero := { target := false, mode := 2, g := 0, key := [], lost := false }, fronts := [], deferred := [],
    majors := [], minors := [], walks := [], caches := [], nodes := [] }

/-- No channel is frozen or retired. -/
def Chn.reset : Chn := { chans := [], retired := [], internalFrames := [] }

/-- The governor at tick 0 (R365). -/
def Spl.reset : Spl := { masters := [], began := 0, check := false, ticks := 8192, tooMuch := false, last := [] }

/-- The module right after reset: the die has just been powered and stands in phase 0 (R458, R467). -/
def Mod.reset : Mod :=
  { out := [], free := 0, tick := 0, regs := shippedRegs,
    glb := { powered := true, pagesUp := false, dramUp := false, armUntil := none, resetBy := none, past := 0, halted := false, faultTicks := [], pgTick := 0,
             restoreTick := 0, clkStopped := [], holdover := false, thermLow := false, leakLow := false,
             lidOpen := false, tampered := false, moduleResets := 0, faultResets := 0,
             sec := { devKey := 0#256, root := 0, majorHigh := 0, bootTag := 0, spareKey := none, measure := 0 } },
    boot := { slot1 := { image := true, good := true, version := 0 }, slot2 := { image := false, good := false, version := 0 },
              named := none, repairs := [], passes := 0 },
    drz := { under := none, paused := false, lastEnd := 0, fenced := [], used := [] },
    stw := { bars := [], msix := [], pend := [], flr := false, fetch := none, quar := [], transfer := none },
    mgmt := { bg := [], logs := { recs := [], lost := [], next := 1 }, policy := [], timestamp := 0, rspLimit := 0,
              ldAlloc := [], poisonList := [] },
    snap := [],
    fences := [],
    age := { dRef := 427, c0 := 1045, esr0 := 480, tProg0 := 145640, plan := none, planHeld := false, full := false,
             tempMax := 0, raised := [], capNext := none, lullNext := [], lullEye := [], load := 0, railMw := 0 },
    vlt := { areaA := none, areaB := none, erased := true, lexGen := 0, lexArea := [], save := none, restoring := false },
    mem := [], poison := [], fab := Fab.reset, led := Led.reset, dir := Dir.reset, tier := Tier.reset, grp := Grp.reset,
    aux := GrpAux.reset, bfl := Bfl.reset, lex := Lex.reset, key := Key.reset, chn := Chn.reset, rng := [], spl := Spl.reset }

/-- The machine right after reset: nothing waits. -/
def State.reset : State :=
  { pending := [], fuse := Fuses.reset, pwr := Pwr.reset, m := Mod.reset }

end Sys2Proof.Machine
end

