-- ==== Sys2Proof/Machine/Regs.lean ====
section
/-!
DEFINITION. Machine/Regs.lean: every register field of the block pages, the floor table and the ring table, as
the tables of spec/ give them: offset within the page or entry, lowest bit, width, access code (R28) and reset
value. Each constant is one row of a table; the rule is named in its docstring. A field whose reset the spec
calls "block", "log", "fuse" or "config" resets to the value log entry 5 names.
-/
namespace Sys2Proof.Machine

namespace HdrF

/-- SIGNATURE (R31): RO, reset 0x5A17. -/
def signature : Fld := ⟨0x0, 0, 16, .ro, 23063⟩

/-- BLOCK_TYPE (R31): RO, reset type code. -/
def blockType : Fld := ⟨0x0, 16, 8, .ro, 0⟩

/-- INSTANCE (R31): RO, reset instance. -/
def instance_ : Fld := ⟨0x0, 24, 8, .ro, 0⟩

/-- LAYOUT_VER (R31): RO, reset 0x01. -/
def layoutVer : Fld := ⟨0x0, 32, 8, .ro, 1⟩

/-- BLOCK_REV (R31): RO, reset block. -/
def blockRev : Fld := ⟨0x0, 40, 8, .ro, 0⟩

/-- EVT_COUNTERS (R32): RO, reset 0b100. -/
def evtCounters : Fld := ⟨0x8, 0, 3, .ro, 4⟩

/-- PROGRESS (R32): RO, reset block. -/
def capProgress : Fld := ⟨0x8, 3, 1, .ro, 0⟩

/-- ROLE (R32): RO, reset block. -/
def capRole : Fld := ⟨0x8, 4, 1, .ro, 0⟩

/-- FREEZE (R32): RO, reset block. -/
def capFreeze : Fld := ⟨0x8, 5, 1, .ro, 0⟩

/-- RESET (R32): RO, reset block. -/
def capReset : Fld := ⟨0x8, 6, 1, .ro, 0⟩

/-- LOCK (R32): RO, reset block. -/
def capLock : Fld := ⟨0x8, 7, 1, .ro, 0⟩

/-- BLOCK_CAP (R32): RO, reset block. -/
def blockCap : Fld := ⟨0x8, 32, 32, .ro, 0⟩

/-- ENABLE (R33): RW, reset block. -/
def enable : Fld := ⟨0x10, 0, 1, .rw, 0⟩

/-- BLOCK_RESET (R33): RW1S, reset 0. -/
def blockReset : Fld := ⟨0x10, 1, 1, .rw1s, 0⟩

/-- FREEZE (R33): RW1S, reset 0. -/
def freeze : Fld := ⟨0x10, 2, 1, .rw1s, 0⟩

/-- THAW (R33): RW1S, reset 0. -/
def thaw : Fld := ⟨0x10, 3, 1, .rw1s, 0⟩

/-- BLOCK_CTL (R33): RW, reset block. -/
def blockCtl : Fld := ⟨0x10, 16, 48, .rw, 0⟩

/-- STATE (R34): RO, reset 0b000. -/
def state : Fld := ⟨0x18, 0, 3, .ro, 0⟩

/-- ERR_PENDING (R34): RO, reset 0. -/
def errPending : Fld := ⟨0x18, 3, 1, .ro, 0⟩

/-- BLOCK_STS (R34): RO, reset block. -/
def blockSts : Fld := ⟨0x18, 16, 48, .ro, 0⟩

/-- ERR (R35): RW1C, reset 0. -/
def err : Fld := ⟨0x20, 0, 64, .rw1c, 0⟩

/-- ERR_MASK (R36): RW, reset 0. -/
def errMask : Fld := ⟨0x28, 0, 64, .rw, 0⟩

/-- ERR_SEV (R36): RW, reset 0. -/
def errSev : Fld := ⟨0x30, 0, 64, .rw, 0⟩

/-- ERR_INDEX (R37): ROS, reset 0. -/
def errIndex : Fld := ⟨0x38, 0, 6, .ros, 0⟩

/-- VALID (R37): ROS, reset 0. -/
def valid : Fld := ⟨0x38, 6, 1, .ros, 0⟩

/-- MULTIPLE (R37): ROS, reset 0. -/
def multiple : Fld := ⟨0x38, 7, 1, .ros, 0⟩

/-- DETAIL (R37): ROS, reset 0. -/
def detail : Fld := ⟨0x38, 16, 48, .ros, 0⟩

/-- PERCENT (R38): RO, reset 0. -/
def percent : Fld := ⟨0x40, 0, 14, .ro, 0⟩

/-- OP_STATE (R38): RO, reset 0b00. -/
def opState : Fld := ⟨0x40, 14, 2, .ro, 0⟩

/-- POSITION (R38): RO, reset 0. -/
def position : Fld := ⟨0x40, 16, 48, .ro, 0⟩

/-- ROLE_EPOCH (R39): RO, reset block. -/
def roleEpoch : Fld := ⟨0x48, 0, 16, .ro, 0⟩

/-- ROLE_CODE (R39): RO, reset block. -/
def roleCode : Fld := ⟨0x48, 16, 8, .ro, 0⟩

/-- VECTOR (R40): RW, reset 0. -/
def vector : Fld := ⟨0x50, 0, 11, .rw, 0⟩

/-- SIGNAL_EN (R40): RW, reset 0. -/
def signalEn : Fld := ⟨0x50, 16, 1, .rw, 0⟩

/-- LOCK (R41): RW1S, reset 0. -/
def lock : Fld := ⟨0x58, 0, 1, .rw1s, 0⟩

/-- EVT0_EVENT (R42): RW, reset 0. -/
def evt0Event : Fld := ⟨0x60, 0, 16, .rw, 0⟩

/-- EVT0_ENABLE (R42): RW, reset 0. -/
def evt0Enable : Fld := ⟨0x60, 16, 1, .rw, 0⟩

/-- EVT0_USER (R42): RW, reset 0. -/
def evt0User : Fld := ⟨0x60, 62, 1, .rw, 0⟩

/-- EVT0_OVF (R42): RW1C, reset 0. -/
def evt0Ovf : Fld := ⟨0x60, 63, 1, .rw1c, 0⟩

/-- EVT1_EVENT (R42): RW, reset 0. -/
def evt1Event : Fld := ⟨0x68, 0, 16, .rw, 0⟩

/-- EVT1_ENABLE (R42): RW, reset 0. -/
def evt1Enable : Fld := ⟨0x68, 16, 1, .rw, 0⟩

/-- EVT1_USER (R42): RW, reset 0. -/
def evt1User : Fld := ⟨0x68, 62, 1, .rw, 0⟩

/-- EVT1_OVF (R42): RW1C, reset 0. -/
def evt1Ovf : Fld := ⟨0x68, 63, 1, .rw1c, 0⟩

/-- EVT2_EVENT (R42): RW, reset 0. -/
def evt2Event : Fld := ⟨0x70, 0, 16, .rw, 0⟩

/-- EVT2_ENABLE (R42): RW, reset 0. -/
def evt2Enable : Fld := ⟨0x70, 16, 1, .rw, 0⟩

/-- EVT2_USER (R42): RW, reset 0. -/
def evt2User : Fld := ⟨0x70, 62, 1, .rw, 0⟩

/-- EVT2_OVF (R42): RW1C, reset 0. -/
def evt2Ovf : Fld := ⟨0x70, 63, 1, .rw1c, 0⟩

/-- EVT3_EVENT (R42): RW, reset 0. -/
def evt3Event : Fld := ⟨0x78, 0, 16, .rw, 0⟩

/-- EVT3_ENABLE (R42): RW, reset 0. -/
def evt3Enable : Fld := ⟨0x78, 16, 1, .rw, 0⟩

/-- EVT3_USER (R42): RW, reset 0. -/
def evt3User : Fld := ⟨0x78, 62, 1, .rw, 0⟩

/-- EVT3_OVF (R42): RW1C, reset 0. -/
def evt3Ovf : Fld := ⟨0x78, 63, 1, .rw1c, 0⟩

/-- EVT0_COUNT (R42): RW, reset 0. -/
def evt0Count : Fld := ⟨0x80, 0, 48, .rw, 0⟩

/-- EVT1_COUNT (R42): RW, reset 0. -/
def evt1Count : Fld := ⟨0x88, 0, 48, .rw, 0⟩

/-- EVT2_COUNT (R42): RW, reset 0. -/
def evt2Count : Fld := ⟨0x90, 0, 48, .rw, 0⟩

/-- EVT3_COUNT (R42): RW, reset 0. -/
def evt3Count : Fld := ⟨0x98, 0, 48, .rw, 0⟩

/-- Every field of this table. -/
def all : List Fld :=
  [signature, blockType, instance_, layoutVer, blockRev, evtCounters, capProgress, capRole, capFreeze, capReset] ++
  [capLock, blockCap, enable, blockReset, freeze, thaw, blockCtl, state, errPending, blockSts] ++
  [err, errMask, errSev, errIndex, valid, multiple, detail, percent, opState, position] ++
  [roleEpoch, roleCode, vector, signalEn, lock, evt0Event, evt0Enable, evt0User, evt0Ovf, evt1Event] ++
  [evt1Enable, evt1User, evt1Ovf, evt2Event, evt2Enable, evt2User, evt2Ovf, evt3Event, evt3Enable, evt3User] ++
  [evt3Ovf, evt0Count, evt1Count, evt2Count, evt3Count]

/-- The 64-only registers of this table (R27), as ranges of offsets. -/
def only64 : List (Nat × Nat) := [(0x40, 0x40), (0x80, 0x98)]

end HdrF

namespace GlbF

/-- VENDOR_ID (R467): RO, reset CUWYN_VID. -/
def vendorId : Fld := ⟨0x100, 0, 16, .ro, 0⟩

/-- DEVICE_ID (R467): RO, reset 0x5348. -/
def deviceId : Fld := ⟨0x100, 16, 16, .ro, 21320⟩

/-- STEPPING (R467): RO, reset 0xB0. -/
def stepping : Fld := ⟨0x100, 32, 8, .ro, 176⟩

/-- RESET_ARM (R467): RW1S, reset 0. -/
def resetArm : Fld := ⟨0x108, 0, 1, .rw1s, 0⟩

/-- MODULE_RESET (R467): RW1S, reset 0. -/
def moduleReset : Fld := ⟨0x108, 1, 1, .rw1s, 0⟩

/-- AUTO_RESET (R467): RWL, reset 1. -/
def autoReset : Fld := ⟨0x108, 2, 1, .rwl, 1⟩

/-- MAX_FROZEN (R467): RWL, reset 4. -/
def maxFrozen : Fld := ⟨0x108, 8, 4, .rwl, 4⟩

/-- FAULT_LIMIT (R467): RWL, reset 3. -/
def faultLimit : Fld := ⟨0x108, 16, 4, .rwl, 3⟩

/-- MODULE_STATE (R467): RO, reset 0. -/
def moduleState : Fld := ⟨0x110, 0, 3, .ro, 0⟩

/-- PHASE (R467): RO, reset 0. -/
def phase : Fld := ⟨0x110, 3, 3, .ro, 0⟩

/-- FW_SLOT (R467): RO, reset 1. -/
def fwSlot : Fld := ⟨0x110, 6, 2, .ro, 1⟩

/-- FW_FALLBACK (R467): RO, reset 0. -/
def fwFallback : Fld := ⟨0x110, 8, 1, .ro, 0⟩

/-- LAST_RESET (R467): RO, reset 0. -/
def lastReset : Fld := ⟨0x110, 9, 2, .ro, 0⟩

/-- FROZEN (R467): RO, reset 0. -/
def frozen : Fld := ⟨0x110, 11, 7, .ro, 0⟩

/-- FAULT_RESETS_1H (R467): RO, reset 0. -/
def faultResets1h : Fld := ⟨0x110, 18, 4, .ro, 0⟩

/-- TO_RESTORE_MS (R467): RO, reset 0. -/
def toRestoreMs : Fld := ⟨0x118, 0, 16, .ro, 0⟩

/-- RESTORE_MS (R467): RO, reset 0. -/
def restoreMs : Fld := ⟨0x118, 16, 16, .ro, 0⟩

/-- TO_SERVICE_MS (R467): RO, reset 0. -/
def toServiceMs : Fld := ⟨0x118, 32, 16, .ro, 0⟩

/-- MODULE_RESETS (R467): RO, reset config. -/
def moduleResets : Fld := ⟨0x120, 0, 24, .ro, 0⟩

/-- FAULT_RESETS (R467): RO, reset config. -/
def faultResets : Fld := ⟨0x120, 24, 24, .ro, 0⟩

/-- Every field of this table. -/
def all : List Fld :=
  [vendorId, deviceId, stepping, resetArm, moduleReset, autoReset, maxFrozen, faultLimit, moduleState, phase] ++
  [fwSlot, fwFallback, lastReset, frozen, faultResets1h, toRestoreMs, restoreMs, toServiceMs, moduleResets, faultResets]

/-- The 64-only registers of this table (R27), as ranges of offsets. -/
def only64 : List (Nat × Nat) := [(0x118, 0x120)]

end GlbF

namespace PrtF

/-- MAX_SPEED (R187): RWL, reset 5. -/
def hostMaxSpeed : Fld := ⟨0x100, 0, 3, .rwl, 5⟩

/-- LAT_OPT_EN (R187): RWL, reset 1. -/
def hostLatOptEn : Fld := ⟨0x100, 3, 1, .rwl, 1⟩

/-- IDE_REQUIRED (R187): RWL, reset 0. -/
def hostIdeRequired : Fld := ⟨0x100, 4, 1, .rwl, 0⟩

/-- LINK_DISABLE (R187): RW, reset 0. -/
def hostLinkDisable : Fld := ⟨0x100, 5, 1, .rw, 0⟩

/-- DRAIN (R187): RW1S, reset 0. -/
def hostDrain : Fld := ⟨0x100, 8, 1, .rw1s, 0⟩

/-- RETRAIN (R187): RW1S, reset 0. -/
def hostRetrain : Fld := ⟨0x100, 9, 1, .rw1s, 0⟩

/-- OWN_PBR_ID (R187): RWL, reset 0. -/
def hostOwnPbrId : Fld := ⟨0x100, 32, 12, .rwl, 0⟩

/-- PBR_VALID (R187): RWL, reset 0. -/
def hostPbrValid : Fld := ⟨0x100, 44, 1, .rwl, 0⟩

/-- LINK_STATE (R187): RO, reset 0. -/
def hostLinkState : Fld := ⟨0x108, 0, 3, .ro, 0⟩

/-- SPEED (R187): RO, reset 0. -/
def hostSpeed : Fld := ⟨0x108, 3, 3, .ro, 0⟩

/-- WIDTH (R187): RO, reset 0. -/
def hostWidth : Fld := ⟨0x108, 6, 5, .ro, 0⟩

/-- FLIT_MODE (R187): RO, reset 0. -/
def hostFlitMode : Fld := ⟨0x108, 11, 2, .ro, 0⟩

/-- IDE_ACTIVE (R187): RO, reset 0. -/
def hostIdeActive : Fld := ⟨0x108, 13, 1, .ro, 0⟩

/-- MODE (R187): RO, reset 0. -/
def hostMode : Fld := ⟨0x108, 14, 1, .ro, 0⟩

/-- LD_SEL (R187): RW, reset 0. -/
def hostLdSel : Fld := ⟨0x110, 0, 4, .rw, 0⟩

/-- HOST_CTX (R187): RWL, reset 0. -/
def hostHostCtx : Fld := ⟨0x118, 0, 12, .rwl, 0⟩

/-- LD_EN (R187): RWL, reset 0. -/
def hostLdEn : Fld := ⟨0x118, 12, 1, .rwl, 0⟩

/-- FLITS_RX (R187): CNT, reset 0. -/
def hostFlitsRx : Fld := ⟨0x120, 0, 48, .cnt, 0⟩

/-- FLITS_TX (R187): CNT, reset 0. -/
def hostFlitsTx : Fld := ⟨0x128, 0, 48, .cnt, 0⟩

/-- REPLAYS (R187): CNT, reset 0. -/
def hostReplays : Fld := ⟨0x130, 0, 48, .cnt, 0⟩

/-- RSP_DISCARDED (R187): CNT, reset 0. -/
def hostRspDiscarded : Fld := ⟨0x138, 0, 48, .cnt, 0⟩

/-- STALE_WRITES (R187): CNT, reset 0. -/
def hostStaleWrites : Fld := ⟨0x140, 0, 48, .cnt, 0⟩

/-- STALE_READS (R187): CNT, reset 0. -/
def hostStaleReads : Fld := ⟨0x148, 0, 48, .cnt, 0⟩

/-- DECODE_MISS (R187): CNT, reset 0. -/
def hostDecodeMiss : Fld := ⟨0x150, 0, 48, .cnt, 0⟩

/-- LINK_DOWNS (R187): CNT, reset 0. -/
def hostLinkDowns : Fld := ⟨0x158, 0, 48, .cnt, 0⟩

/-- EXPECT_PEER (R157): RWL, reset 0. -/
def peerExpectPeer : Fld := ⟨0x200, 0, 16, .rwl, 0⟩

/-- REPLAY_LIMIT (R157): RWL, reset 4. -/
def peerReplayLimit : Fld := ⟨0x200, 16, 4, .rwl, 4⟩

/-- REPLAY_TIMER (R157): RWL, reset 16. -/
def peerReplayTimer : Fld := ⟨0x200, 24, 8, .rwl, 16⟩

/-- GCM_EN (R157): RWL, reset 0. -/
def peerGcmEn : Fld := ⟨0x200, 32, 1, .rwl, 0⟩

/-- BULK_COMPRESS (R157): RWL, reset 0. -/
def peerBulkCompress : Fld := ⟨0x200, 33, 1, .rwl, 0⟩

/-- RETRAIN (R157): RW1S, reset 0. -/
def peerRetrain : Fld := ⟨0x200, 48, 1, .rw1s, 0⟩

/-- STATE (R157): RO, reset 0. -/
def peerState : Fld := ⟨0x208, 0, 3, .ro, 0⟩

/-- WIDTH (R157): RO, reset 0. -/
def peerWidth : Fld := ⟨0x208, 3, 3, .ro, 0⟩

/-- KEYGEN_TX (R157): RO, reset 0. -/
def peerKeygenTx : Fld := ⟨0x208, 6, 1, .ro, 0⟩

/-- PEER_ID (R157): RO, reset 0. -/
def peerPeerId : Fld := ⟨0x208, 16, 16, .ro, 0⟩

/-- TX_NEXT (R157): RO, reset 0. -/
def peerTxNext : Fld := ⟨0x210, 0, 20, .ro, 0⟩

/-- TX_OLDEST (R157): RO, reset 0. -/
def peerTxOldest : Fld := ⟨0x210, 20, 20, .ro, 0⟩

/-- RX_NEXT (R157): RO, reset 0. -/
def peerRxNext : Fld := ⟨0x210, 40, 20, .ro, 0⟩

/-- SQUALL (R157): RO, reset 0. -/
def peerSquall : Fld := ⟨0x218, 0, 5, .ro, 0⟩

/-- RETRAINS (R157): RO, reset 0. -/
def peerRetrains : Fld := ⟨0x218, 16, 32, .ro, 0⟩

/-- ONDIE (R157): RO, reset 0. -/
def peerOndie : Fld := ⟨0x220, 0, 11, .ro, 0⟩

/-- SPILLED (R157): RO, reset 0. -/
def peerSpilled : Fld := ⟨0x220, 16, 17, .ro, 0⟩

/-- TX_BSEQ (R157): RO, reset 0. -/
def peerTxBseq : Fld := ⟨0x228, 0, 32, .ro, 0⟩

/-- RX_BSEQ (R157): RO, reset 0. -/
def peerRxBseq : Fld := ⟨0x228, 32, 32, .ro, 0⟩

/-- CREDIT_CLASS (R157): RW, reset 0. -/
def peerCreditClass : Fld := ⟨0x230, 0, 3, .rw, 0⟩

/-- LIMIT (R157): RO, reset 0. -/
def peerLimit : Fld := ⟨0x238, 0, 32, .ro, 0⟩

/-- USED (R157): RO, reset 0. -/
def peerUsed : Fld := ⟨0x238, 32, 32, .ro, 0⟩

/-- POOL_FREE (R157): RO, reset 8,192. -/
def peerPoolFree : Fld := ⟨0x240, 0, 14, .ro, 8192⟩

/-- FRAMES_TX (R157): CNT, reset 0. -/
def peerFramesTx : Fld := ⟨0x248, 0, 48, .cnt, 0⟩

/-- FRAMES_RX (R157): CNT, reset 0. -/
def peerFramesRx : Fld := ⟨0x250, 0, 48, .cnt, 0⟩

/-- CRC_FAIL (R157): CNT, reset 0. -/
def peerCrcFail : Fld := ⟨0x258, 0, 48, .cnt, 0⟩

/-- FEC_CORRECTED (R157): CNT, reset 0. -/
def peerFecCorrected : Fld := ⟨0x260, 0, 48, .cnt, 0⟩

/-- REPLAYED (R157): CNT, reset 0. -/
def peerReplayed : Fld := ⟨0x268, 0, 48, .cnt, 0⟩

/-- DUP_DISCARD (R157): CNT, reset 0. -/
def peerDupDiscard : Fld := ⟨0x270, 0, 48, .cnt, 0⟩

/-- Every field of this table. -/
def all : List Fld :=
  [hostMaxSpeed, hostLatOptEn, hostIdeRequired, hostLinkDisable, hostDrain, hostRetrain, hostOwnPbrId, hostPbrValid, hostLinkState, hostSpeed] ++
  [hostWidth, hostFlitMode, hostIdeActive, hostMode, hostLdSel, hostHostCtx, hostLdEn, hostFlitsRx, hostFlitsTx, hostReplays] ++
  [hostRspDiscarded, hostStaleWrites, hostStaleReads, hostDecodeMiss, hostLinkDowns, peerExpectPeer, peerReplayLimit, peerReplayTimer, peerGcmEn, peerBulkCompress] ++
  [peerRetrain, peerState, peerWidth, peerKeygenTx, peerPeerId, peerTxNext, peerTxOldest, peerRxNext, peerSquall, peerRetrains] ++
  [peerOndie, peerSpilled, peerTxBseq, peerRxBseq, peerCreditClass, peerLimit, peerUsed, peerPoolFree, peerFramesTx, peerFramesRx] ++
  [peerCrcFail, peerFecCorrected, peerReplayed, peerDupDiscard]

/-- The 64-only registers of this table (R27), as ranges of offsets. -/
def only64 : List (Nat × Nat) := [(0x120, 0x158), (0x210, 0x210), (0x228, 0x228), (0x238, 0x238)]

end PrtF

namespace LnqF

/-- ROLE_REQ (R155): RWL, reset 0. -/
def roleReq : Fld := ⟨0x100, 0, 2, .rwl, 0⟩

/-- PEER_SPLIT (R155): RWL, reset 0. -/
def peerSplit : Fld := ⟨0x100, 2, 2, .rwl, 0⟩

/-- HOST_CFG (R155): RWL, reset 0. -/
def hostCfg : Fld := ⟨0x100, 4, 4, .rwl, 0⟩

/-- PORT_BASE (R155): RWL, reset 0. -/
def portBase : Fld := ⟨0x100, 8, 7, .rwl, 0⟩

/-- APPLY (R155): RW1S, reset 0. -/
def apply : Fld := ⟨0x100, 16, 1, .rw1s, 0⟩

/-- ROLE (R156): RO, reset 0. -/
def role : Fld := ⟨0x108, 0, 2, .ro, 0⟩

/-- CHANGING (R156): RO, reset 0. -/
def changing : Fld := ⟨0x108, 2, 1, .ro, 0⟩

/-- COUNT (R156): CNT, reset 0. -/
def count : Fld := ⟨0x110, 0, 48, .cnt, 0⟩

/-- Every field of this table. -/
def all : List Fld :=
  [roleReq, peerSplit, hostCfg, portBase, apply, role, changing, count]

/-- The 64-only registers of this table (R27), as ranges of offsets. -/
def only64 : List (Nat × Nat) := []

end LnqF

namespace HslF

/-- TENURE (R242): RWL, reset 500. -/
def tenure : Fld := ⟨0x100, 0, 14, .rwl, 500⟩

/-- BISNP_TIMEOUT_MS (R242): RWL, reset 10. -/
def bisnpTimeoutMs : Fld := ⟨0x100, 16, 10, .rwl, 10⟩

/-- ONDIE_USED (R242): RO, reset 0. -/
def ondieUsed : Fld := ⟨0x108, 0, 16, .ro, 0⟩

/-- ONDIE_PINNED (R242): RO, reset 0. -/
def ondiePinned : Fld := ⟨0x108, 16, 16, .ro, 0⟩

/-- MEM_USED (R242): RO, reset 0. -/
def memUsed : Fld := ⟨0x108, 32, 23, .ro, 0⟩

/-- BISNP_SENT (R242): CNT, reset 0. -/
def bisnpSent : Fld := ⟨0x110, 0, 48, .cnt, 0⟩

/-- CONFLICTS (R242): CNT, reset 0. -/
def conflicts : Fld := ⟨0x118, 0, 48, .cnt, 0⟩

/-- TENURE_WAITS (R242): CNT, reset 0. -/
def tenureWaits : Fld := ⟨0x120, 0, 48, .cnt, 0⟩

/-- PIN_WAITS (R242): CNT, reset 0. -/
def pinWaits : Fld := ⟨0x128, 0, 48, .cnt, 0⟩

/-- SPILLS (R242): CNT, reset 0. -/
def spills : Fld := ⟨0x130, 0, 48, .cnt, 0⟩

/-- EVICT_SNOOPS (R242): CNT, reset 0. -/
def evictSnoops : Fld := ⟨0x138, 0, 48, .cnt, 0⟩

/-- COARSE (R242): CNT, reset 0. -/
def coarse : Fld := ⟨0x140, 0, 48, .cnt, 0⟩

/-- WAKES (R242): CNT, reset 0. -/
def wakes : Fld := ⟨0x148, 0, 48, .cnt, 0⟩

/-- BISNP_TIMEOUTS (R242): CNT, reset 0. -/
def bisnpTimeouts : Fld := ⟨0x150, 0, 48, .cnt, 0⟩

/-- PROBE_LINE (R242): RW, reset 0. -/
def probeLine : Fld := ⟨0x160, 0, 29, .rw, 0⟩

/-- PROBE (R242): RW1S, reset 0. -/
def probe : Fld := ⟨0x160, 32, 1, .rw1s, 0⟩

/-- FOUND (R242): RO, reset 0. -/
def found : Fld := ⟨0x160, 33, 1, .ro, 0⟩

/-- WHERE (R242): RO, reset 0. -/
def where_ : Fld := ⟨0x160, 34, 1, .ro, 0⟩

/-- PROBE_LO (R242): RO, reset 0. -/
def probeLo : Fld := ⟨0x168, 0, 64, .ro, 0⟩

/-- PROBE_HI (R242): RO, reset 0. -/
def probeHi : Fld := ⟨0x170, 0, 64, .ro, 0⟩

/-- MAP_HITS (R269): CNT, reset 0. -/
def mapHits : Fld := ⟨0x200, 0, 48, .cnt, 0⟩

/-- MAP_MISSES (R269): CNT, reset 0. -/
def mapMisses : Fld := ⟨0x208, 0, 48, .cnt, 0⟩

/-- MAP_WRITEBACKS (R269): CNT, reset 0. -/
def mapWritebacks : Fld := ⟨0x210, 0, 48, .cnt, 0⟩

/-- FC_HITS (R269): CNT, reset 0. -/
def fcHits : Fld := ⟨0x218, 0, 48, .cnt, 0⟩

/-- FC_MISSES (R269): CNT, reset 0. -/
def fcMisses : Fld := ⟨0x220, 0, 48, .cnt, 0⟩

/-- FC_WRITEBACKS (R269): CNT, reset 0. -/
def fcWritebacks : Fld := ⟨0x228, 0, 48, .cnt, 0⟩

/-- MOVE_WAITS (R269): CNT, reset 0. -/
def moveWaits : Fld := ⟨0x230, 0, 48, .cnt, 0⟩

/-- LOST_READS (R269): CNT, reset 0. -/
def lostReads : Fld := ⟨0x238, 0, 48, .cnt, 0⟩

/-- MAP_ENTRIES (R269): RO, reset 0. -/
def mapEntries : Fld := ⟨0x240, 0, 16, .ro, 0⟩

/-- MAP_DIRTY (R269): RO, reset 0. -/
def mapDirty : Fld := ⟨0x240, 16, 16, .ro, 0⟩

/-- FC_KEPT (R269): RO, reset 0. -/
def fcKept : Fld := ⟨0x240, 32, 16, .ro, 0⟩

/-- Every field of this table. -/
def all : List Fld :=
  [tenure, bisnpTimeoutMs, ondieUsed, ondiePinned, memUsed, bisnpSent, conflicts, tenureWaits, pinWaits, spills] ++
  [evictSnoops, coarse, wakes, bisnpTimeouts, probeLine, probe, found, where_, probeLo, probeHi] ++
  [mapHits, mapMisses, mapWritebacks, fcHits, fcMisses, fcWritebacks, moveWaits, lostReads, mapEntries, mapDirty] ++
  [fcKept]

/-- The 64-only registers of this table (R27), as ranges of offsets. -/
def only64 : List (Nat × Nat) := [(0x110, 0x150), (0x168, 0x170), (0x200, 0x238)]

end HslF

namespace MchF

/-- RETIRE (R337): RW1S, reset 0. -/
def retire : Fld := ⟨0x100, 0, 1, .rw1s, 0⟩

/-- SCRUB_EN (R337): RWL, reset 1. -/
def scrubEn : Fld := ⟨0x100, 1, 1, .rwl, 1⟩

/-- MAX_RATE (R337): RWL, reset 5. -/
def maxRate : Fld := ⟨0x100, 8, 3, .rwl, 5⟩

/-- EDC_RETRY_LIMIT (R337): RWL, reset 4. -/
def edcRetryLimit : Fld := ⟨0x100, 16, 4, .rwl, 4⟩

/-- CE_THRESHOLD (R337): RWL, reset 1,000. -/
def ceThreshold : Fld := ⟨0x100, 32, 16, .rwl, 1000⟩

/-- SCRUB_HOURS (R337): RWL, reset 24. -/
def scrubHours : Fld := ⟨0x108, 0, 10, .rwl, 24⟩

/-- RATE (R337): RO, reset 0. -/
def rate : Fld := ⟨0x110, 0, 3, .ro, 0⟩

/-- GROUP (R337): RO, reset channel. -/
def group : Fld := ⟨0x110, 3, 3, .ro, 0⟩

/-- HOT (R337): RO, reset 0. -/
def hot : Fld := ⟨0x110, 6, 1, .ro, 0⟩

/-- SELF_REFRESH (R337): RO, reset 0. -/
def selfRefresh : Fld := ⟨0x110, 7, 1, .ro, 0⟩

/-- TEMP_A (R337): RO, reset 0. -/
def tempA : Fld := ⟨0x110, 16, 8, .ro, 0⟩

/-- TEMP_B (R337): RO, reset 0. -/
def tempB : Fld := ⟨0x110, 24, 8, .ro, 0⟩

/-- REFRESH_SHARE (R337): RO, reset 17. -/
def refreshShare : Fld := ⟨0x110, 32, 8, .ro, 17⟩

/-- EYE_RD (R337): RO, reset 0. -/
def eyeRd : Fld := ⟨0x110, 40, 8, .ro, 0⟩

/-- EYE_WR (R337): RO, reset 0. -/
def eyeWr : Fld := ⟨0x110, 48, 8, .ro, 0⟩

/-- SCRUB_ROW (R337): RO, reset 0. -/
def scrubRow : Fld := ⟨0x118, 0, 21, .ro, 0⟩

/-- LULL_INTERVAL_US (R337): RO, reset 1,000. -/
def lullIntervalUs : Fld := ⟨0x118, 32, 20, .ro, 1000⟩

/-- TOUCHED (R337): RO, reset 0. -/
def touched : Fld := ⟨0x120, 0, 26, .ro, 0⟩

/-- CE_LINES (R337): CNT, reset 0. -/
def ceLines : Fld := ⟨0x140, 0, 48, .cnt, 0⟩

/-- UE_LINES (R337): CNT, reset 0. -/
def ueLines : Fld := ⟨0x148, 0, 48, .cnt, 0⟩

/-- EDC_RETRIES (R337): CNT, reset 0. -/
def edcRetries : Fld := ⟨0x150, 0, 48, .cnt, 0⟩

/-- LULLS (R337): CNT, reset 0. -/
def lulls : Fld := ⟨0x158, 0, 48, .cnt, 0⟩

/-- REFRESHES (R337): CNT, reset 0. -/
def refreshes : Fld := ⟨0x160, 0, 48, .cnt, 0⟩

/-- SCRUB_LINES (R337): CNT, reset 0. -/
def scrubLines : Fld := ⟨0x168, 0, 48, .cnt, 0⟩

/-- LINES_READ (R337): CNT, reset 0. -/
def linesRead : Fld := ⟨0x170, 0, 48, .cnt, 0⟩

/-- LINES_WRITTEN (R337): CNT, reset 0. -/
def linesWritten : Fld := ⟨0x178, 0, 48, .cnt, 0⟩

/-- CAUSE (R338): RO, reset 0. -/
def cause : Fld := ⟨0x200, 0, 4, .ro, 0⟩

/-- ACTIVITY (R338): RO, reset 0. -/
def activity : Fld := ⟨0x200, 4, 4, .ro, 0⟩

/-- VALID (R338): RO, reset 0. -/
def valid : Fld := ⟨0x200, 8, 1, .ro, 0⟩

/-- WRITE (R338): RO, reset 0. -/
def write : Fld := ⟨0x200, 9, 1, .ro, 0⟩

/-- TICK (R338): RO, reset 0. -/
def tick : Fld := ⟨0x200, 16, 48, .ro, 0⟩

/-- COMMAND (R338): RO, reset 0. -/
def command : Fld := ⟨0x208, 0, 5, .ro, 0⟩

/-- BANK (R338): RO, reset 0. -/
def bank : Fld := ⟨0x208, 8, 4, .ro, 0⟩

/-- ROW_ADDR (R338): RO, reset 0. -/
def rowAddr : Fld := ⟨0x208, 12, 17, .ro, 0⟩

/-- COLUMN (R338): RO, reset 0. -/
def column : Fld := ⟨0x208, 29, 6, .ro, 0⟩

/-- EDC_FAILS (R338): RO, reset 0. -/
def edcFails : Fld := ⟨0x208, 35, 4, .ro, 0⟩

/-- SEQ_RULE (R338): RO, reset 0. -/
def seqRule : Fld := ⟨0x208, 40, 8, .ro, 0⟩

/-- ROW_INDEX (R338): RO, reset 0. -/
def rowIndex : Fld := ⟨0x210, 0, 21, .ro, 0⟩

/-- SLOT (R338): RO, reset 0. -/
def slot : Fld := ⟨0x210, 21, 5, .ro, 0⟩

/-- LOCAL_UNIT (R338): RO, reset 0. -/
def localUnit : Fld := ⟨0x210, 26, 20, .ro, 0⟩

/-- LINE (R338): RO, reset 0. -/
def line : Fld := ⟨0x210, 46, 6, .ro, 0⟩

/-- SYNDROME (R338): RO, reset 0. -/
def syndrome : Fld := ⟨0x218, 0, 32, .ro, 0⟩

/-- ERR_BYTES (R338): RO, reset 0. -/
def errBytes : Fld := ⟨0x218, 32, 3, .ro, 0⟩

/-- READS (R338): RO, reset 0. -/
def reads : Fld := ⟨0x220, 0, 10, .ro, 0⟩

/-- WRITES (R338): RO, reset 0. -/
def writes : Fld := ⟨0x220, 16, 10, .ro, 0⟩

/-- OPEN_BANKS (R338): RO, reset 0. -/
def openBanks : Fld := ⟨0x220, 32, 16, .ro, 0⟩

/-- CAP_DATA0 (R338): RO, reset 0. -/
def capData0 : Fld := ⟨0x228, 0, 64, .ro, 0⟩

/-- CAP_DATA1 (R338): RO, reset 0. -/
def capData1 : Fld := ⟨0x230, 0, 64, .ro, 0⟩

/-- CAP_DATA2 (R338): RO, reset 0. -/
def capData2 : Fld := ⟨0x238, 0, 64, .ro, 0⟩

/-- CAP_DATA3 (R338): RO, reset 0. -/
def capData3 : Fld := ⟨0x240, 0, 64, .ro, 0⟩

/-- CAP_DATA4 (R338): RO, reset 0. -/
def capData4 : Fld := ⟨0x248, 0, 64, .ro, 0⟩

/-- CAP_DATA5 (R338): RO, reset 0. -/
def capData5 : Fld := ⟨0x250, 0, 64, .ro, 0⟩

/-- CAP_DATA6 (R338): RO, reset 0. -/
def capData6 : Fld := ⟨0x258, 0, 64, .ro, 0⟩

/-- CAP_DATA7 (R338): RO, reset 0. -/
def capData7 : Fld := ⟨0x260, 0, 64, .ro, 0⟩

/-- CAP_DATA8 (R338): RO, reset 0. -/
def capData8 : Fld := ⟨0x268, 0, 64, .ro, 0⟩

/-- Every field of this table. -/
def all : List Fld :=
  [retire, scrubEn, maxRate, edcRetryLimit, ceThreshold, scrubHours, rate, group, hot, selfRefresh] ++
  [tempA, tempB, refreshShare, eyeRd, eyeWr, scrubRow, lullIntervalUs, touched, ceLines, ueLines] ++
  [edcRetries, lulls, refreshes, scrubLines, linesRead, linesWritten, cause, activity, valid, write] ++
  [tick, command, bank, rowAddr, column, edcFails, seqRule, rowIndex, slot, localUnit] ++
  [line, syndrome, errBytes, reads, writes, openBanks, capData0, capData1, capData2, capData3] ++
  [capData4, capData5, capData6, capData7, capData8]

/-- The 64-only registers of this table (R27), as ranges of offsets. -/
def only64 : List (Nat × Nat) := [(0x140, 0x178), (0x200, 0x268)]

end MchF

namespace CipF

/-- LINES_ENC (R320): CNT, reset 0. -/
def linesEnc : Fld := ⟨0x100, 0, 48, .cnt, 0⟩

/-- LINES_DEC (R320): CNT, reset 0. -/
def linesDec : Fld := ⟨0x108, 0, 48, .cnt, 0⟩

/-- MAC_CHECKED (R320): CNT, reset 0. -/
def macChecked : Fld := ⟨0x110, 0, 48, .cnt, 0⟩

/-- MAC_FAIL (R320): CNT, reset 0. -/
def macFail : Fld := ⟨0x118, 0, 48, .cnt, 0⟩

/-- KEY_MISSES (R320): CNT, reset 0. -/
def keyMisses : Fld := ⟨0x120, 0, 48, .cnt, 0⟩

/-- KEYS_HELD (R320): RO, reset 0. -/
def keysHeld : Fld := ⟨0x128, 0, 7, .ro, 0⟩

/-- Every field of this table. -/
def all : List Fld :=
  [linesEnc, linesDec, macChecked, macFail, keyMisses, keysHeld]

/-- The 64-only registers of this table (R27), as ranges of offsets. -/
def only64 : List (Nat × Nat) := [(0x100, 0x120)]

end CipF

namespace LexF

/-- CLASS_MASK (R290): RWL, reset block. -/
def classMask : Fld := ⟨0x100, 0, 6, .rwl, 0⟩

/-- CLASS (R290): RO, reset 7. -/
def class_ : Fld := ⟨0x108, 0, 3, .ro, 7⟩

/-- SLOT_VALID (R290): RO, reset 0. -/
def slotValid : Fld := ⟨0x108, 3, 1, .ro, 0⟩

/-- SLOT (R290): RO, reset 0. -/
def slot : Fld := ⟨0x108, 4, 15, .ro, 0⟩

/-- VERB_SLOTS_OPEN (R290): RO, reset 0. -/
def verbSlotsOpen : Fld := ⟨0x110, 0, 16, .ro, 0⟩

/-- LEXICONS_READY (R290): RO, reset 1. -/
def lexiconsReady : Fld := ⟨0x110, 32, 15, .ro, 1⟩

/-- C_BLOCKS (R290): CNT, reset 0. -/
def cBlocks : Fld := ⟨0x118, 0, 48, .cnt, 0⟩

/-- C_BYTES_IN (R290): CNT, reset 0. -/
def cBytesIn : Fld := ⟨0x120, 0, 48, .cnt, 0⟩

/-- C_BYTES_OUT (R290): CNT, reset 0. -/
def cBytesOut : Fld := ⟨0x128, 0, 48, .cnt, 0⟩

/-- D_BLOCKS (R290): CNT, reset 0. -/
def dBlocks : Fld := ⟨0x130, 0, 48, .cnt, 0⟩

/-- D_BYTES_OUT (R290): CNT, reset 0. -/
def dBytesOut : Fld := ⟨0x138, 0, 48, .cnt, 0⟩

/-- STORED (R290): CNT, reset 0. -/
def stored : Fld := ⟨0x140, 0, 48, .cnt, 0⟩

/-- D_ERRORS (R290): CNT, reset 0. -/
def dErrors : Fld := ⟨0x148, 0, 48, .cnt, 0⟩

/-- Every field of this table. -/
def all : List Fld :=
  [classMask, class_, slotValid, slot, verbSlotsOpen, lexiconsReady, cBlocks, cBytesIn, cBytesOut, dBlocks] ++
  [dBytesOut, stored, dErrors]

/-- The 64-only registers of this table (R27), as ranges of offsets. -/
def only64 : List (Nat × Nat) := [(0x118, 0x148)]

end LexF

namespace ParF

/-- DELTA_OUT (R124): CNT, reset 0. -/
def deltaOut : Fld := ⟨0x100, 0, 48, .cnt, 0⟩

/-- DELTA_IN (R124): CNT, reset 0. -/
def deltaIn : Fld := ⟨0x108, 0, 48, .cnt, 0⟩

/-- DUP (R124): CNT, reset 0. -/
def dup : Fld := ⟨0x110, 0, 48, .cnt, 0⟩

/-- BOUNCED (R124): CNT, reset 0. -/
def bounced : Fld := ⟨0x118, 0, 48, .cnt, 0⟩

/-- RECON (R124): CNT, reset 0. -/
def recon : Fld := ⟨0x120, 0, 48, .cnt, 0⟩

/-- OCCUPANCY (R124): RO, reset 0. -/
def occupancy : Fld := ⟨0x128, 0, 16, .ro, 0⟩

/-- SLICE_MAP (R124): RO, reset engine. -/
def sliceMap : Fld := ⟨0x130, 0, 64, .ro, 0⟩

/-- Every field of this table. -/
def all : List Fld :=
  [deltaOut, deltaIn, dup, bounced, recon, occupancy, sliceMap]

/-- The 64-only registers of this table (R27), as ranges of offsets. -/
def only64 : List (Nat × Nat) := [(0x100, 0x130)]

end ParF

namespace FrnF

/-- PAUSE (R318): RW, reset 0. -/
def pause : Fld := ⟨0x100, 0, 1, .rw, 0⟩

/-- DOMAIN (R318): RO, reset 0. -/
def domain : Fld := ⟨0x108, 0, 12, .ro, 0⟩

/-- TARGET (R318): RO, reset 0. -/
def target : Fld := ⟨0x108, 16, 12, .ro, 0⟩

/-- AUTO (R318): RO, reset 0. -/
def auto : Fld := ⟨0x108, 32, 1, .ro, 0⟩

/-- INTERNAL (R318): RO, reset 0. -/
def internal : Fld := ⟨0x108, 33, 1, .ro, 0⟩

/-- NEW_G (R318): RO, reset 0. -/
def newG : Fld := ⟨0x108, 34, 1, .ro, 0⟩

/-- BOUNDARY (R318): RO, reset 0. -/
def boundary : Fld := ⟨0x110, 0, 36, .ro, 0⟩

/-- TOTAL (R318): RO, reset 0. -/
def total : Fld := ⟨0x118, 0, 48, .ro, 0⟩

/-- LOCK_WAITS (R318): CNT, reset 0. -/
def lockWaits : Fld := ⟨0x120, 0, 48, .cnt, 0⟩

/-- PAGES_WHOLE (R318): CNT, reset 0. -/
def pagesWhole : Fld := ⟨0x128, 0, 48, .cnt, 0⟩

/-- UNITS_RESET (R318): CNT, reset 0. -/
def unitsReset : Fld := ⟨0x130, 0, 48, .cnt, 0⟩

/-- Every field of this table. -/
def all : List Fld :=
  [pause, domain, target, auto, internal, newG, boundary, total, lockWaits, pagesWhole] ++
  [unitsReset]

/-- The 64-only registers of this table (R27), as ranges of offsets. -/
def only64 : List (Nat × Nat) := [(0x110, 0x130)]

end FrnF

namespace RngF

/-- VERB_LEDGER_CAP (R360): RWL, reset 128. -/
def verbLedgerCap : Fld := ⟨0x100, 0, 8, .rwl, 128⟩

/-- RINGS_ENABLED (R360): RO, reset 0. -/
def ringsEnabled : Fld := ⟨0x108, 0, 14, .ro, 0⟩

/-- RINGS_ERROR (R360): RO, reset 0. -/
def ringsError : Fld := ⟨0x108, 16, 14, .ro, 0⟩

/-- VERBS_INFLIGHT (R360): RO, reset 0. -/
def verbsInflight : Fld := ⟨0x108, 32, 13, .ro, 0⟩

/-- VERBS_DONE (R360): CNT, reset 0. -/
def verbsDone : Fld := ⟨0x110, 0, 48, .cnt, 0⟩

/-- VERBS_FAILED (R360): CNT, reset 0. -/
def verbsFailed : Fld := ⟨0x118, 0, 48, .cnt, 0⟩

/-- BYTES_READ (R360): CNT, reset 0. -/
def bytesRead : Fld := ⟨0x120, 0, 48, .cnt, 0⟩

/-- BYTES_WRITTEN (R360): CNT, reset 0. -/
def bytesWritten : Fld := ⟨0x128, 0, 48, .cnt, 0⟩

/-- DOORBELLS (R360): CNT, reset 0. -/
def doorbells : Fld := ⟨0x130, 0, 48, .cnt, 0⟩

/-- NOTIFICATIONS (R360): CNT, reset 0. -/
def notifications : Fld := ⟨0x138, 0, 48, .cnt, 0⟩

/-- CQ_FULL_WAITS (R360): CNT, reset 0. -/
def cqFullWaits : Fld := ⟨0x140, 0, 48, .cnt, 0⟩

/-- Every field of this table. -/
def all : List Fld :=
  [verbLedgerCap, ringsEnabled, ringsError, verbsInflight, verbsDone, verbsFailed, bytesRead, bytesWritten, doorbells, notifications] ++
  [cqFullWaits]

/-- The 64-only registers of this table (R27), as ranges of offsets. -/
def only64 : List (Nat × Nat) := [(0x110, 0x140)]

end RngF

namespace GrpF

/-- GROUP_EPOCH (R116): RO, reset block. -/
def groupEpoch : Fld := ⟨0x100, 0, 16, .ro, 0⟩

/-- KEEPER_TERM (R116): RO, reset block. -/
def keeperTerm : Fld := ⟨0x100, 16, 16, .ro, 0⟩

/-- KEEPER_INDEX (R116): RO, reset block. -/
def keeperIndex : Fld := ⟨0x100, 32, 4, .ro, 0⟩

/-- OWN_INDEX (R116): RO, reset block. -/
def ownIndex : Fld := ⟨0x100, 36, 4, .ro, 0⟩

/-- MEMBERS (R116): RO, reset block. -/
def members : Fld := ⟨0x100, 40, 5, .ro, 0⟩

/-- K (R116): RO, reset block. -/
def k : Fld := ⟨0x100, 48, 4, .ro, 0⟩

/-- M (R116): RO, reset block. -/
def m : Fld := ⟨0x100, 52, 3, .ro, 0⟩

/-- RESTRIPING (R116): RO, reset block. -/
def restriping : Fld := ⟨0x100, 55, 1, .ro, 0⟩

/-- TARGET_K (R116): RO, reset block. -/
def targetK : Fld := ⟨0x100, 56, 4, .ro, 0⟩

/-- TARGET_M (R116): RO, reset block. -/
def targetM : Fld := ⟨0x100, 60, 3, .ro, 0⟩

/-- MAP_GENERATION (R117): RO, reset block. -/
def mapGeneration : Fld := ⟨0x108, 0, 64, .ro, 0⟩

/-- GROUP_ID (R118): RO, reset block. -/
def groupId : Fld := ⟨0x110, 0, 32, .ro, 0⟩

/-- STRIPE_UNITS (R118): RO, reset block. -/
def stripeUnits : Fld := ⟨0x110, 32, 25, .ro, 0⟩

/-- INDEX (R119): RW, reset 0. -/
def index : Fld := ⟨0x118, 0, 4, .rw, 0⟩

/-- MODULE_ID (R120): RO, reset block. -/
def moduleId : Fld := ⟨0x120, 0, 16, .ro, 0⟩

/-- STATE (R120): RO, reset block. -/
def state : Fld := ⟨0x120, 16, 3, .ro, 0⟩

/-- REACHABLE (R120): RO, reset 0. -/
def reachable : Fld := ⟨0x120, 19, 1, .ro, 0⟩

/-- STANDIN_INDEX (R120): RO, reset block. -/
def standinIndex : Fld := ⟨0x120, 20, 4, .ro, 0⟩

/-- STANDIN_VALID (R120): RO, reset block. -/
def standinValid : Fld := ⟨0x120, 24, 1, .ro, 0⟩

/-- STANDIN_EPOCH (R120): RO, reset block. -/
def standinEpoch : Fld := ⟨0x120, 32, 16, .ro, 0⟩

/-- SPILL_MIB (R120): RO, reset 0. -/
def spillMib : Fld := ⟨0x120, 48, 11, .ro, 0⟩

/-- NEXT_SEQ (R121): RO, reset block. -/
def nextSeq : Fld := ⟨0x128, 0, 32, .ro, 0⟩

/-- UNACKED (R121): RO, reset block. -/
def unacked : Fld := ⟨0x128, 32, 17, .ro, 0⟩

/-- APPLIED_THROUGH (R121): RO, reset block. -/
def appliedThrough : Fld := ⟨0x130, 0, 32, .ro, 0⟩

/-- STAGES (R121): RO, reset block. -/
def stages : Fld := ⟨0x130, 32, 16, .ro, 0⟩

/-- LOSS_MS (R122): RWL, reset 2,000. -/
def lossMs : Fld := ⟨0x138, 0, 32, .rwl, 2000⟩

/-- Every field of this table. -/
def all : List Fld :=
  [groupEpoch, keeperTerm, keeperIndex, ownIndex, members, k, m, restriping, targetK, targetM] ++
  [mapGeneration, groupId, stripeUnits, index, moduleId, state, reachable, standinIndex, standinValid, standinEpoch] ++
  [spillMib, nextSeq, unacked, appliedThrough, stages, lossMs]

/-- The 64-only registers of this table (R27), as ranges of offsets. -/
def only64 : List (Nat × Nat) := [(0x100, 0x108), (0x120, 0x130)]

end GrpF

namespace MovF

/-- PACK_EN (R267): RWL, reset 1. -/
def packEn : Fld := ⟨0x100, 0, 1, .rwl, 1⟩

/-- PEER_EN (R267): RWL, reset 0. -/
def peerEn : Fld := ⟨0x100, 1, 1, .rwl, 0⟩

/-- DEMOTE_ON (R267): RWL, reset 85. -/
def demoteOn : Fld := ⟨0x100, 8, 7, .rwl, 85⟩

/-- DEMOTE_OFF (R267): RWL, reset 80. -/
def demoteOff : Fld := ⟨0x100, 16, 7, .rwl, 80⟩

/-- PROMOTE_HEAT (R267): RWL, reset 4. -/
def promoteHeat : Fld := ⟨0x100, 24, 3, .rwl, 4⟩

/-- COOL_PERIOD (R267): RWL, reset 16. -/
def coolPeriod : Fld := ⟨0x100, 32, 12, .rwl, 16⟩

/-- SHARE_GIB (R267): RWL, reset 0. -/
def shareGib : Fld := ⟨0x108, 0, 6, .rwl, 0⟩

/-- THIN_LIMIT (R267): RWL, reset 1,280. -/
def thinLimit : Fld := ⟨0x110, 0, 11, .rwl, 1280⟩

/-- FRAMES_USED (R267): RO, reset 0. -/
def framesUsed : Fld := ⟨0x118, 0, 27, .ro, 0⟩

/-- USE_PCT (R267): RO, reset 0. -/
def usePct : Fld := ⟨0x118, 32, 14, .ro, 0⟩

/-- LEVEL (R267): RO, reset 0. -/
def level : Fld := ⟨0x118, 48, 2, .ro, 0⟩

/-- BACKED (R267): RO, reset 0. -/
def backed : Fld := ⟨0x120, 0, 18, .ro, 0⟩

/-- THIN (R267): RO, reset 0. -/
def thin : Fld := ⟨0x120, 20, 20, .ro, 0⟩

/-- PAGES_PLAIN (R267): RO, reset 0. -/
def pagesPlain : Fld := ⟨0x128, 0, 27, .ro, 0⟩

/-- PAGES_PACKED (R267): RO, reset 0. -/
def pagesPacked : Fld := ⟨0x130, 0, 29, .ro, 0⟩

/-- GRAINS (R267): RO, reset 0. -/
def grains : Fld := ⟨0x130, 32, 31, .ro, 0⟩

/-- PEER_OUT (R267): RO, reset 0. -/
def peerOut : Fld := ⟨0x138, 0, 27, .ro, 0⟩

/-- PEER_IN (R267): RO, reset 0. -/
def peerIn : Fld := ⟨0x138, 32, 27, .ro, 0⟩

/-- PROMOTED (R267): CNT, reset 0. -/
def promoted : Fld := ⟨0x140, 0, 48, .cnt, 0⟩

/-- DEMOTED_PACK (R267): CNT, reset 0. -/
def demotedPack : Fld := ⟨0x148, 0, 48, .cnt, 0⟩

/-- DEMOTED_PEER (R267): CNT, reset 0. -/
def demotedPeer : Fld := ⟨0x150, 0, 48, .cnt, 0⟩

/-- PACK_REJECT (R267): CNT, reset 0. -/
def packReject : Fld := ⟨0x158, 0, 48, .cnt, 0⟩

/-- ZERO_RECLAIM (R267): CNT, reset 0. -/
def zeroReclaim : Fld := ⟨0x160, 0, 48, .cnt, 0⟩

/-- LOST_PAGES (R267): CNT, reset 0. -/
def lostPages : Fld := ⟨0x168, 0, 48, .cnt, 0⟩

/-- LOST_WRITES (R267): CNT, reset 0. -/
def lostWrites : Fld := ⟨0x170, 0, 48, .cnt, 0⟩

/-- Every field of this table. -/
def all : List Fld :=
  [packEn, peerEn, demoteOn, demoteOff, promoteHeat, coolPeriod, shareGib, thinLimit, framesUsed, usePct] ++
  [level, backed, thin, pagesPlain, pagesPacked, grains, peerOut, peerIn, promoted, demotedPack] ++
  [demotedPeer, packReject, zeroReclaim, lostPages, lostWrites]

/-- The 64-only registers of this table (R27), as ranges of offsets. -/
def only64 : List (Nat × Nat) := [(0x118, 0x118), (0x120, 0x120), (0x130, 0x130), (0x138, 0x170)]

end MovF

namespace KeyF

/-- SLOTS_FREE (R316): RO, reset 4,095. -/
def slotsFree : Fld := ⟨0x100, 0, 13, .ro, 4095⟩

/-- DOMAINS (R316): RO, reset 0. -/
def domains : Fld := ⟨0x100, 16, 13, .ro, 0⟩

/-- FRONTS (R316): RO, reset 0. -/
def fronts : Fld := ⟨0x100, 32, 5, .ro, 0⟩

/-- MAJOR_HIGH (R316): RO, reset 0. -/
def majorHigh : Fld := ⟨0x108, 0, 56, .ro, 0⟩

/-- SLOT_SEL (R316): RW, reset 0. -/
def slotSel : Fld := ⟨0x110, 0, 12, .rw, 0⟩

/-- PAGE_ROLLS (R316): CNT, reset 0. -/
def pageRolls : Fld := ⟨0x118, 0, 48, .cnt, 0⟩

/-- NODE_RECOVERIES (R316): CNT, reset 0. -/
def nodeRecoveries : Fld := ⟨0x120, 0, 48, .cnt, 0⟩

/-- AUTO_FRONTS (R316): CNT, reset 0. -/
def autoFronts : Fld := ⟨0x128, 0, 48, .cnt, 0⟩

/-- LINES_POISONED (R316): CNT, reset 0. -/
def linesPoisoned : Fld := ⟨0x130, 0, 48, .cnt, 0⟩

/-- STATE (R316): RO, reset 0. -/
def state : Fld := ⟨0x138, 0, 2, .ro, 0⟩

/-- MODE (R316): RO, reset 0. -/
def mode : Fld := ⟨0x138, 2, 2, .ro, 0⟩

/-- G (R316): RO, reset 0. -/
def g : Fld := ⟨0x138, 4, 1, .ro, 0⟩

/-- FRONT_ACTIVE (R316): RO, reset 0. -/
def frontActive : Fld := ⟨0x138, 5, 1, .ro, 0⟩

/-- FRONT_ENGINE (R316): RO, reset 0. -/
def frontEngine : Fld := ⟨0x138, 8, 4, .ro, 0⟩

/-- PARTNER (R316): RO, reset 0. -/
def partner : Fld := ⟨0x138, 16, 12, .ro, 0⟩

/-- EXTENTS (R316): RO, reset 0. -/
def extents : Fld := ⟨0x138, 32, 32, .ro, 0⟩

/-- Every field of this table. -/
def all : List Fld :=
  [slotsFree, domains, fronts, majorHigh, slotSel, pageRolls, nodeRecoveries, autoFronts, linesPoisoned, state] ++
  [mode, g, frontActive, frontEngine, partner, extents]

/-- The 64-only registers of this table (R27), as ranges of offsets. -/
def only64 : List (Nat × Nat) := [(0x108, 0x108), (0x118, 0x130)]

end KeyF

namespace VltF

/-- TEST_SAVE (R413): RW1S, reset 0. -/
def testSave : Fld := ⟨0x100, 0, 1, .rw1s, 0⟩

/-- VOLATILE_EN (R413): RWL, reset 1. -/
def volatileEn : Fld := ⟨0x100, 1, 1, .rwl, 1⟩

/-- STATE (R413): RO, reset 0. -/
def state : Fld := ⟨0x108, 0, 3, .ro, 0⟩

/-- TARGET (R413): RO, reset block. -/
def target : Fld := ⟨0x108, 3, 1, .ro, 0⟩

/-- LAST_TRIGGER (R413): RO, reset block. -/
def lastTrigger : Fld := ⟨0x108, 4, 3, .ro, 0⟩

/-- RESTORE_KIND (R413): RO, reset block. -/
def restoreKind : Fld := ⟨0x108, 8, 3, .ro, 0⟩

/-- RECONCILED (R413): RO, reset 0. -/
def reconciled : Fld := ⟨0x108, 11, 1, .ro, 0⟩

/-- AT_RISK (R413): RO, reset 0. -/
def atRisk : Fld := ⟨0x108, 12, 1, .ro, 0⟩

/-- SAVE_SEQ (R413): RO, reset block. -/
def saveSeq : Fld := ⟨0x110, 0, 64, .ro, 0⟩

/-- DURABLE_GIB (R413): RO, reset 0. -/
def durableGib : Fld := ⟨0x118, 0, 8, .ro, 0⟩

/-- PARITY_GIB (R413): RO, reset 0. -/
def parityGib : Fld := ⟨0x118, 8, 8, .ro, 0⟩

/-- VOL_NEED_GIB (R413): RO, reset 0. -/
def volNeedGib : Fld := ⟨0x118, 16, 16, .ro, 0⟩

/-- VOL_COVER_GIB (R413): RO, reset 0. -/
def volCoverGib : Fld := ⟨0x118, 32, 16, .ro, 0⟩

/-- DURATION_MS (R413): RO, reset block. -/
def durationMs : Fld := ⟨0x120, 0, 16, .ro, 0⟩

/-- ENERGY_J (R413): RO, reset block. -/
def energyJ : Fld := ⟨0x120, 16, 16, .ro, 0⟩

/-- V_END (R413): RO, reset block. -/
def vEnd : Fld := ⟨0x120, 32, 16, .ro, 0⟩

/-- DURABLE_COMPLETE (R413): RO, reset block. -/
def durableComplete : Fld := ⟨0x120, 48, 1, .ro, 0⟩

/-- PARITY_UNSAVED (R413): RO, reset block. -/
def parityUnsaved : Fld := ⟨0x128, 0, 32, .ro, 0⟩

/-- VOL_UNSAVED (R413): RO, reset block. -/
def volUnsaved : Fld := ⟨0x128, 32, 32, .ro, 0⟩

/-- SAVES (R413): RO, reset block. -/
def saves : Fld := ⟨0x130, 0, 48, .ro, 0⟩

/-- RESTORES (R413): RO, reset block. -/
def restores : Fld := ⟨0x138, 0, 48, .ro, 0⟩

/-- Every field of this table. -/
def all : List Fld :=
  [testSave, volatileEn, state, target, lastTrigger, restoreKind, reconciled, atRisk, saveSeq, durableGib] ++
  [parityGib, volNeedGib, volCoverGib, durationMs, energyJ, vEnd, durableComplete, parityUnsaved, volUnsaved, saves] ++
  [restores]

/-- The 64-only registers of this table (R27), as ranges of offsets. -/
def only64 : List (Nat × Nat) := [(0x110, 0x110), (0x120, 0x120), (0x128, 0x128)]

end VltF

namespace PwrF

/-- RESTART (R431): RW1S, reset 0. -/
def restart : Fld := ⟨0x100, 0, 1, .rw1s, 0⟩

/-- PF_WARN_EN (R431): RWL, reset 1. -/
def pfWarnEn : Fld := ⟨0x100, 1, 1, .rwl, 1⟩

/-- CHARGE_LIMIT (R431): RWL, reset 27. -/
def chargeLimit : Fld := ⟨0x100, 8, 5, .rwl, 27⟩

/-- STATE (R431): RO, reset 3. -/
def state : Fld := ⟨0x108, 0, 3, .ro, 3⟩

/-- PG (R431): RO, reset 1. -/
def pg : Fld := ⟨0x108, 3, 1, .ro, 1⟩

/-- FAULT (R431): RO, reset 0. -/
def fault : Fld := ⟨0x108, 4, 1, .ro, 0⟩

/-- PRESENT (R431): RO, reset 1. -/
def present : Fld := ⟨0x108, 5, 1, .ro, 1⟩

/-- PWR_EN (R431): RO, reset 1. -/
def pwrEn : Fld := ⟨0x108, 6, 1, .ro, 1⟩

/-- PF_WARN (R431): RO, reset 0. -/
def pfWarn : Fld := ⟨0x108, 7, 1, .ro, 0⟩

/-- CB_TIMER (R431): RO, reset 0. -/
def cbTimer : Fld := ⟨0x108, 8, 1, .ro, 0⟩

/-- DLY (R431): RO, reset strap. -/
def dly : Fld := ⟨0x108, 9, 2, .ro, 3⟩

/-- CHARGING (R431): RO, reset 0. -/
def charging : Fld := ⟨0x108, 11, 1, .ro, 0⟩

/-- LAST_CAUSE (R431): RO, reset log. -/
def lastCause : Fld := ⟨0x108, 12, 4, .ro, 0⟩

/-- VIN (R431): RO, reset 0. -/
def vin : Fld := ⟨0x110, 0, 16, .ro, 0⟩

/-- VOUT (R431): RO, reset 0. -/
def vout : Fld := ⟨0x110, 16, 16, .ro, 0⟩

/-- IIN (R431): RO, reset 0. -/
def iin : Fld := ⟨0x110, 32, 16, .ro, 0⟩

/-- PIN (R431): RO, reset 0. -/
def pin : Fld := ⟨0x110, 48, 16, .ro, 0⟩

/-- CHARGE_P (R431): RO, reset 0. -/
def chargeP : Fld := ⟨0x118, 0, 16, .ro, 0⟩

/-- CELL_MAX (R431): RO, reset 0. -/
def cellMax : Fld := ⟨0x118, 16, 16, .ro, 0⟩

/-- CELL_MIN (R431): RO, reset 0. -/
def cellMin : Fld := ⟨0x118, 32, 16, .ro, 0⟩

/-- FET_TEMP (R431): RO, reset 0. -/
def fetTemp : Fld := ⟨0x118, 48, 8, .ro, 0⟩

/-- IIN_PEAK (R431): RW, reset 0. -/
def iinPeak : Fld := ⟨0x120, 0, 16, .rw, 0⟩

/-- PIN_PEAK (R431): RW, reset 0. -/
def pinPeak : Fld := ⟨0x120, 16, 16, .rw, 0⟩

/-- LOG_SEL (R431): RW, reset 0. -/
def logSel : Fld := ⟨0x128, 0, 4, .rw, 0⟩

/-- CAUSE (R431): RO, reset log. -/
def cause : Fld := ⟨0x130, 0, 4, .ro, 0⟩

/-- VALID (R431): RO, reset log. -/
def valid : Fld := ⟨0x130, 4, 1, .ro, 0⟩

/-- VIN_AT (R431): RO, reset log. -/
def vinAt : Fld := ⟨0x130, 8, 16, .ro, 0⟩

/-- IIN_AT (R431): RO, reset log. -/
def iinAt : Fld := ⟨0x130, 24, 16, .ro, 0⟩

/-- RAMP_NO (R431): RO, reset log. -/
def rampNo : Fld := ⟨0x130, 40, 24, .ro, 0⟩

/-- RAMPS (R431): RO, reset log. -/
def ramps : Fld := ⟨0x138, 0, 24, .ro, 0⟩

/-- LATCHES (R431): RO, reset log. -/
def latches : Fld := ⟨0x138, 24, 24, .ro, 0⟩

/-- Every field of this table. -/
def all : List Fld :=
  [restart, pfWarnEn, chargeLimit, state, pg, fault, present, pwrEn, pfWarn, cbTimer] ++
  [dly, charging, lastCause, vin, vout, iin, pin, chargeP, cellMax, cellMin] ++
  [fetTemp, iinPeak, pinPeak, logSel, cause, valid, vinAt, iinAt, rampNo, ramps] ++
  [latches]

/-- The 64-only registers of this table (R27), as ranges of offsets. -/
def only64 : List (Nat × Nat) := [(0x110, 0x110), (0x130, 0x130), (0x138, 0x138)]

end PwrF

namespace AgeF

/-- REPLAN (R394): RW1S, reset 0. -/
def replan : Fld := ⟨0x100, 0, 1, .rw1s, 0⟩

/-- PLAN_HOURS (R394): RWL, reset 24. -/
def planHours : Fld := ⟨0x100, 8, 8, .rwl, 24⟩

/-- V_PLAN (R394): RO, reset 780. -/
def vPlan : Fld := ⟨0x108, 0, 10, .ro, 780⟩

/-- V_NOW (R394): RO, reset 780. -/
def vNow : Fld := ⟨0x108, 10, 10, .ro, 780⟩

/-- ALLOW_PLAN (R394): RO, reset 0. -/
def allowPlan : Fld := ⟨0x108, 20, 7, .ro, 0⟩

/-- ALLOW_NOW (R394): RO, reset 0. -/
def allowNow : Fld := ⟨0x108, 27, 7, .ro, 0⟩

/-- PLANS (R394): RO, reset 0. -/
def plans : Fld := ⟨0x108, 48, 16, .ro, 0⟩

/-- INDEX (R394): RO, reset 0. -/
def index : Fld := ⟨0x110, 0, 10, .ro, 0⟩

/-- DELAY (R394): RO, reset 0. -/
def delay : Fld := ⟨0x110, 10, 10, .ro, 0⟩

/-- BANK (R394): RO, reset 0. -/
def bank : Fld := ⟨0x110, 20, 10, .ro, 0⟩

/-- NAND (R394): RO, reset 0. -/
def nand : Fld := ⟨0x110, 30, 10, .ro, 0⟩

/-- EYE (R394): RO, reset 0. -/
def eye : Fld := ⟨0x110, 40, 10, .ro, 0⟩

/-- D_MED_PS (R394): RO, reset 0. -/
def dMedPs : Fld := ⟨0x118, 0, 16, .ro, 0⟩

/-- D_TGT_PS (R394): RO, reset block. -/
def dTgtPs : Fld := ⟨0x118, 16, 16, .ro, 0⟩

/-- D_MAX_PS (R394): RO, reset 0. -/
def dMaxPs : Fld := ⟨0x118, 32, 16, .ro, 0⟩

/-- WORST_PATH (R394): RO, reset 0. -/
def worstPath : Fld := ⟨0x118, 48, 9, .ro, 0⟩

/-- C_MF (R394): RO, reset block. -/
def cMf : Fld := ⟨0x120, 0, 16, .ro, 0⟩

/-- ESR_MOHM (R394): RO, reset block. -/
def esrMohm : Fld := ⟨0x120, 16, 16, .ro, 0⟩

/-- V_BANK (R394): RO, reset 0. -/
def vBank : Fld := ⟨0x120, 32, 16, .ro, 0⟩

/-- BANK_STALE (R394): RO, reset 0. -/
def bankStale : Fld := ⟨0x120, 48, 1, .ro, 0⟩

/-- E_USABLE_J (R394): RO, reset 0. -/
def eUsableJ : Fld := ⟨0x128, 0, 16, .ro, 0⟩

/-- E_STORED_J (R394): RO, reset 0. -/
def eStoredJ : Fld := ⟨0x128, 16, 16, .ro, 0⟩

/-- V_LOW (R394): RO, reset 2,500. -/
def vLow : Fld := ⟨0x128, 32, 16, .ro, 2500⟩

/-- E_GIB_MJ (R394): RO, reset 6,700. -/
def eGibMj : Fld := ⟨0x128, 48, 16, .ro, 6700⟩

/-- TPROG_NS (R394): RO, reset 0. -/
def tprogNs : Fld := ⟨0x130, 0, 20, .ro, 0⟩

/-- SLOW_DIE (R394): RO, reset 0. -/
def slowDie : Fld := ⟨0x130, 20, 6, .ro, 0⟩

/-- SAVE_RATE_MBS (R394): RO, reset 0. -/
def saveRateMbs : Fld := ⟨0x130, 32, 16, .ro, 0⟩

/-- DRAM_EYE_MIN (R394): RO, reset 0. -/
def dramEyeMin : Fld := ⟨0x138, 0, 8, .ro, 0⟩

/-- DRAM_EYE_CH (R394): RO, reset 0. -/
def dramEyeCh : Fld := ⟨0x138, 8, 7, .ro, 0⟩

/-- LANE_EYE_MIN (R394): RO, reset 0. -/
def laneEyeMin : Fld := ⟨0x138, 16, 8, .ro, 0⟩

/-- LANE_EYE_LANE (R394): RO, reset 0. -/
def laneEyeLane : Fld := ⟨0x138, 24, 7, .ro, 0⟩

/-- LAST_PLAN_TICK (R394): RO, reset 0. -/
def lastPlanTick : Fld := ⟨0x140, 0, 64, .ro, 0⟩

/-- Every field of this table. -/
def all : List Fld :=
  [replan, planHours, vPlan, vNow, allowPlan, allowNow, plans, index, delay, bank] ++
  [nand, eye, dMedPs, dTgtPs, dMaxPs, worstPath, cMf, esrMohm, vBank, bankStale] ++
  [eUsableJ, eStoredJ, vLow, eGibMj, tprogNs, slowDie, saveRateMbs, dramEyeMin, dramEyeCh, laneEyeMin] ++
  [laneEyeLane, lastPlanTick]

/-- The 64-only registers of this table (R27), as ranges of offsets. -/
def only64 : List (Nat × Nat) := [(0x108, 0x108), (0x128, 0x128), (0x140, 0x140)]

end AgeF

namespace SplF

/-- SPELL_TICKS (R381): RWL, reset 8,192. -/
def spellTicks : Fld := ⟨0x100, 0, 17, .rwl, 8192⟩

/-- BUDGET_SCRUB (R381): RWL, reset 1. -/
def budgetScrub : Fld := ⟨0x108, 0, 8, .rwl, 1⟩

/-- BUDGET_MOVER (R381): RWL, reset 16. -/
def budgetMover : Fld := ⟨0x108, 8, 8, .rwl, 16⟩

/-- BUDGET_REBUILD (R381): RWL, reset 16. -/
def budgetRebuild : Fld := ⟨0x108, 16, 8, .rwl, 16⟩

/-- BUDGET_REKEY (R381): RWL, reset 8. -/
def budgetRekey : Fld := ⟨0x108, 24, 8, .rwl, 8⟩

/-- BUDGET_VERB (R381): RWL, reset 16. -/
def budgetVerb : Fld := ⟨0x108, 32, 8, .rwl, 16⟩

/-- BUDGET_PARITY_IN (R381): RWL, reset 40. -/
def budgetParityIn : Fld := ⟨0x108, 40, 8, .rwl, 40⟩

/-- PLAN_CAP (R381): RO, reset 2,826,240. -/
def planCap : Fld := ⟨0x110, 0, 32, .ro, 2826240⟩

/-- CAP_SPELL (R381): RO, reset 22,609,920. -/
def capSpell : Fld := ⟨0x110, 32, 32, .ro, 22609920⟩

/-- FLOOR_SUM (R381): RO, reset 7,667,712. -/
def floorSum : Fld := ⟨0x118, 0, 48, .ro, 7667712⟩

/-- FLOOR_LIMIT (R381): RO, reset 20,348,928. -/
def floorLimit : Fld := ⟨0x120, 0, 32, .ro, 20348928⟩

/-- SCALE (R381): RO, reset 65,536. -/
def scale : Fld := ⟨0x120, 32, 17, .ro, 65536⟩

/-- TICK (R381): RO, reset 0. -/
def tick : Fld := ⟨0x128, 0, 64, .ro, 0⟩

/-- SPELL_COUNT (R381): RO, reset 0. -/
def spellCount : Fld := ⟨0x130, 0, 64, .ro, 0⟩

/-- CHAN_SEL (R381): RW, reset 0. -/
def chanSel : Fld := ⟨0x138, 0, 7, .rw, 0⟩

/-- ACT_SEL (R381): RW, reset 0. -/
def actSel : Fld := ⟨0x138, 8, 4, .rw, 0⟩

/-- USED_LAST (R381): RO, reset 0. -/
def usedLast : Fld := ⟨0x140, 0, 9, .ro, 0⟩

/-- BUDGET_LAST (R381): RO, reset 0. -/
def budgetLast : Fld := ⟨0x140, 16, 9, .ro, 0⟩

/-- SPARE_LAST (R381): RO, reset 0. -/
def spareLast : Fld := ⟨0x140, 32, 9, .ro, 0⟩

/-- SHORTFALLS (R381): CNT, reset 0. -/
def shortfalls : Fld := ⟨0x150, 0, 48, .cnt, 0⟩

/-- BUDGET_EXHAUSTED (R381): CNT, reset 0. -/
def budgetExhausted : Fld := ⟨0x158, 0, 48, .cnt, 0⟩

/-- Every field of this table. -/
def all : List Fld :=
  [spellTicks, budgetScrub, budgetMover, budgetRebuild, budgetRekey, budgetVerb, budgetParityIn, planCap, capSpell, floorSum] ++
  [floorLimit, scale, tick, spellCount, chanSel, actSel, usedLast, budgetLast, spareLast, shortfalls] ++
  [budgetExhausted]

/-- The 64-only registers of this table (R27), as ranges of offsets. -/
def only64 : List (Nat × Nat) := [(0x110, 0x130), (0x150, 0x158)]

end SplF

namespace DrzF

/-- GAP_US (R445): RWL, reset 250. -/
def gapUs : Fld := ⟨0x100, 0, 16, .rwl, 250⟩

/-- REPAIR_EN (R445): RWL, reset 1. -/
def repairEn : Fld := ⟨0x100, 16, 1, .rwl, 1⟩

/-- REGION (R445): RO, reset 0. -/
def region : Fld := ⟨0x108, 0, 18, .ro, 0⟩

/-- CLASS (R445): RO, reset 0. -/
def class_ : Fld := ⟨0x108, 18, 4, .ro, 0⟩

/-- SPARES_FREE (R445): RO, reset block. -/
def sparesFree : Fld := ⟨0x108, 22, 10, .ro, 0⟩

/-- PASSES (R445): RO, reset 0. -/
def passes : Fld := ⟨0x108, 32, 32, .ro, 0⟩

/-- REGIONS_TESTED (R445): CNT, reset 0. -/
def regionsTested : Fld := ⟨0x110, 0, 48, .cnt, 0⟩

/-- REPAIRS (R445): CNT, reset 0. -/
def repairs : Fld := ⟨0x118, 0, 48, .cnt, 0⟩

/-- SRAM_CE (R445): CNT, reset 0. -/
def sramCe : Fld := ⟨0x120, 0, 48, .cnt, 0⟩

/-- SRAM_UE (R445): CNT, reset 0. -/
def sramUe : Fld := ⟨0x128, 0, 48, .cnt, 0⟩

/-- LOG_SEL (R445): RW, reset 0. -/
def logSel : Fld := ⟨0x130, 0, 8, .rw, 0⟩

/-- LOG_COUNT (R445): RO, reset log. -/
def logCount : Fld := ⟨0x130, 8, 9, .ro, 0⟩

/-- VALID (R445): RO, reset log. -/
def valid : Fld := ⟨0x138, 0, 1, .ro, 0⟩

/-- KIND (R445): RO, reset log. -/
def kind : Fld := ⟨0x138, 1, 1, .ro, 0⟩

/-- LOG_REGION (R445): RO, reset log. -/
def logRegion : Fld := ⟨0x138, 2, 18, .ro, 0⟩

/-- POSITION (R445): RO, reset log. -/
def position : Fld := ⟨0x138, 20, 12, .ro, 0⟩

/-- SPARE (R445): RO, reset log. -/
def spare : Fld := ⟨0x138, 32, 3, .ro, 0⟩

/-- LOG_PASS (R445): RO, reset log. -/
def logPass : Fld := ⟨0x138, 40, 24, .ro, 0⟩

/-- LIFECYCLE (R445): RO, reset fuse. -/
def lifecycle : Fld := ⟨0x140, 0, 2, .ro, 0⟩

/-- KEY_GEN (R445): RO, reset fuse. -/
def keyGen : Fld := ⟨0x140, 2, 6, .ro, 0⟩

/-- LID_OK (R445): RO, reset 1. -/
def lidOk : Fld := ⟨0x140, 8, 1, .ro, 1⟩

/-- TAMPER (R445): RO, reset 0. -/
def tamper : Fld := ⟨0x140, 9, 1, .ro, 0⟩

/-- WIPES (R445): RO, reset fuse. -/
def wipes : Fld := ⟨0x140, 16, 16, .ro, 0⟩

/-- Every field of this table. -/
def all : List Fld :=
  [gapUs, repairEn, region, class_, sparesFree, passes, regionsTested, repairs, sramCe, sramUe] ++
  [logSel, logCount, valid, kind, logRegion, position, spare, logPass, lifecycle, keyGen] ++
  [lidOk, tamper, wipes]

/-- The 64-only registers of this table (R27), as ranges of offsets. -/
def only64 : List (Nat × Nat) := [(0x110, 0x128), (0x138, 0x138)]

end DrzF

namespace PmuF

/-- MODE (R456): RW, reset 0. -/
def mode : Fld := ⟨0x100, 0, 2, .rw, 0⟩

/-- FREEZE_ON_OVF (R456): RW, reset 0. -/
def freezeOnOvf : Fld := ⟨0x100, 2, 1, .rw, 0⟩

/-- OPEN (R456): RO, reset 1. -/
def open_ : Fld := ⟨0x100, 3, 1, .ro, 1⟩

/-- START_TICK (R456): RW, reset 0. -/
def startTick : Fld := ⟨0x108, 0, 64, .rw, 0⟩

/-- STOP_TICK (R456): RW, reset 0. -/
def stopTick : Fld := ⟨0x110, 0, 64, .rw, 0⟩

/-- SNAP (R456): RW1S, reset 0. -/
def snap : Fld := ⟨0x118, 0, 1, .rw1s, 0⟩

/-- SNAP_VALID (R456): RO, reset 0. -/
def snapValid : Fld := ⟨0x118, 1, 1, .ro, 0⟩

/-- SNAP_TICK (R456): RO, reset 0. -/
def snapTick : Fld := ⟨0x120, 0, 64, .ro, 0⟩

/-- SNAP_SEL (R456): RW, reset 0. -/
def snapSel : Fld := ⟨0x128, 0, 9, .rw, 0⟩

/-- SNAP_CNT0 (R456): RO, reset 0. -/
def snapCnt0 : Fld := ⟨0x130, 0, 48, .ro, 0⟩

/-- SNAP_OVF0 (R456): RO, reset 0. -/
def snapOvf0 : Fld := ⟨0x130, 63, 1, .ro, 0⟩

/-- SNAP_CNT1 (R456): RO, reset 0. -/
def snapCnt1 : Fld := ⟨0x138, 0, 48, .ro, 0⟩

/-- SNAP_OVF1 (R456): RO, reset 0. -/
def snapOvf1 : Fld := ⟨0x138, 63, 1, .ro, 0⟩

/-- SNAP_CNT2 (R456): RO, reset 0. -/
def snapCnt2 : Fld := ⟨0x140, 0, 48, .ro, 0⟩

/-- SNAP_OVF2 (R456): RO, reset 0. -/
def snapOvf2 : Fld := ⟨0x140, 63, 1, .ro, 0⟩

/-- SNAP_CNT3 (R456): RO, reset 0. -/
def snapCnt3 : Fld := ⟨0x148, 0, 48, .ro, 0⟩

/-- SNAP_OVF3 (R456): RO, reset 0. -/
def snapOvf3 : Fld := ⟨0x148, 63, 1, .ro, 0⟩

/-- OVF_MAP0 (R456): RO, reset 0. -/
def ovfMap0 : Fld := ⟨0x150, 0, 64, .ro, 0⟩

/-- OVF_MAP1 (R456): RO, reset 0. -/
def ovfMap1 : Fld := ⟨0x158, 0, 64, .ro, 0⟩

/-- OVF_MAP2 (R456): RO, reset 0. -/
def ovfMap2 : Fld := ⟨0x160, 0, 64, .ro, 0⟩

/-- OVF_MAP3 (R456): RO, reset 0. -/
def ovfMap3 : Fld := ⟨0x168, 0, 64, .ro, 0⟩

/-- OVF_MAP4 (R456): RO, reset 0. -/
def ovfMap4 : Fld := ⟨0x170, 0, 64, .ro, 0⟩

/-- OVF_MAP5 (R456): RO, reset 0. -/
def ovfMap5 : Fld := ⟨0x178, 0, 64, .ro, 0⟩

/-- OVF_MAP6 (R456): RO, reset 0. -/
def ovfMap6 : Fld := ⟨0x180, 0, 64, .ro, 0⟩

/-- OVF_MAP7 (R456): RO, reset 0. -/
def ovfMap7 : Fld := ⟨0x188, 0, 64, .ro, 0⟩

/-- Every field of this table. -/
def all : List Fld :=
  [mode, freezeOnOvf, open_, startTick, stopTick, snap, snapValid, snapTick, snapSel, snapCnt0] ++
  [snapOvf0, snapCnt1, snapOvf1, snapCnt2, snapOvf2, snapCnt3, snapOvf3, ovfMap0, ovfMap1, ovfMap2] ++
  [ovfMap3, ovfMap4, ovfMap5, ovfMap6, ovfMap7]

/-- The 64-only registers of this table (R27), as ranges of offsets. -/
def only64 : List (Nat × Nat) := [(0x108, 0x188)]

end PmuF

namespace StwF

/-- STEWARD_PORT (R213): RO, reset block. -/
def stewardPort : Fld := ⟨0x100, 0, 7, .ro, 0⟩

/-- VALID (R213): RO, reset block. -/
def valid : Fld := ⟨0x100, 7, 1, .ro, 1⟩

/-- BME (R213): RO, reset 0. -/
def bme : Fld := ⟨0x108, 0, 1, .ro, 0⟩

/-- MSIX_EN (R213): RO, reset 0. -/
def msixEn : Fld := ⟨0x108, 1, 1, .ro, 0⟩

/-- FUNC_MASK (R213): RO, reset 0. -/
def funcMask : Fld := ⟨0x108, 2, 1, .ro, 0⟩

/-- D3HOT (R213): RO, reset 0. -/
def d3hot : Fld := ⟨0x108, 3, 1, .ro, 0⟩

/-- FLR_COUNT (R213): ROS, reset 0. -/
def flrCount : Fld := ⟨0x108, 16, 16, .ros, 0⟩

/-- FW_ADDR (R213): RW, reset 0. -/
def fwAddr : Fld := ⟨0x110, 12, 52, .rw, 0⟩

/-- FW_LEN (R213): RW, reset 0. -/
def fwLen : Fld := ⟨0x118, 0, 25, .rw, 0⟩

/-- START (R213): RW1S, reset 0. -/
def start : Fld := ⟨0x120, 0, 1, .rw1s, 0⟩

/-- ABORT (R213): RW1S, reset 0. -/
def abort : Fld := ⟨0x120, 1, 1, .rw1s, 0⟩

/-- SLOT (R213): RW, reset 0. -/
def slot : Fld := ⟨0x120, 8, 2, .rw, 0⟩

/-- STATE (R213): RO, reset 0. -/
def state : Fld := ⟨0x128, 0, 3, .ro, 0⟩

/-- RESULT (R213): ROS, reset 0. -/
def result : Fld := ⟨0x128, 8, 8, .ros, 0⟩

/-- OUTSTANDING (R213): RO, reset 0. -/
def outstanding : Fld := ⟨0x128, 16, 5, .ro, 0⟩

/-- STW_LATE_CPL (R213): ROS, reset 0. -/
def stwLateCpl : Fld := ⟨0x130, 0, 48, .ros, 0⟩

/-- STW_MSIX_DISCARDED (R213): ROS, reset 0. -/
def stwMsixDiscarded : Fld := ⟨0x138, 0, 48, .ros, 0⟩

/-- Every field of this table. -/
def all : List Fld :=
  [stewardPort, valid, bme, msixEn, funcMask, d3hot, flrCount, fwAddr, fwLen, start] ++
  [abort, slot, state, result, outstanding, stwLateCpl, stwMsixDiscarded]

/-- The 64-only registers of this table (R27), as ranges of offsets. -/
def only64 : List (Nat × Nat) := [(0x130, 0x138)]

end StwF

namespace RingEF

/-- SQ_BASE (R359): RW, reset 0. -/
def sqBase : Fld := ⟨0x0, 12, 29, .rw, 0⟩

/-- CQ_BASE (R359): RW, reset 0. -/
def cqBase : Fld := ⟨0x8, 12, 29, .rw, 0⟩

/-- DOORBELL (R359): RW, reset 0. -/
def doorbell : Fld := ⟨0x10, 6, 35, .rw, 0⟩

/-- OWNER_CTX (R359): RW, reset 0. -/
def ownerCtx : Fld := ⟨0x18, 0, 12, .rw, 0⟩

/-- DOMAIN (R359): RW, reset 0. -/
def domain : Fld := ⟨0x18, 16, 12, .rw, 0⟩

/-- SQ_LOG2 (R359): RW, reset 0. -/
def sqLog2 : Fld := ⟨0x18, 32, 5, .rw, 0⟩

/-- CQ_LOG2 (R359): RW, reset 0. -/
def cqLog2 : Fld := ⟨0x18, 40, 5, .rw, 0⟩

/-- MAX_INFLIGHT (R359): RW, reset 0. -/
def maxInflight : Fld := ⟨0x18, 48, 9, .rw, 0⟩

/-- NOTIFY (R359): RW, reset 0. -/
def notify : Fld := ⟨0x20, 0, 2, .rw, 0⟩

/-- MSIX_VECTOR (R359): RW, reset 0. -/
def msixVector : Fld := ⟨0x20, 16, 11, .rw, 0⟩

/-- COALESCE_COUNT (R359): RW, reset 1. -/
def coalesceCount : Fld := ⟨0x20, 32, 16, .rw, 1⟩

/-- COALESCE_TICKS (R359): RW, reset 0. -/
def coalesceTicks : Fld := ⟨0x20, 48, 16, .rw, 0⟩

/-- ENABLE (R359): RW, reset 0. -/
def enable : Fld := ⟨0x28, 0, 1, .rw, 0⟩

/-- RESET (R359): RW1S, reset 0. -/
def reset : Fld := ⟨0x28, 1, 1, .rw1s, 0⟩

/-- STATE (R359): RO, reset 0. -/
def state : Fld := ⟨0x30, 0, 2, .ro, 0⟩

/-- RING_EPOCH (R359): RO, reset 0. -/
def ringEpoch : Fld := ⟨0x30, 16, 16, .ro, 0⟩

/-- SQ_HEAD (R359): RO, reset 0. -/
def sqHead : Fld := ⟨0x30, 32, 16, .ro, 0⟩

/-- CQ_TAIL (R359): RO, reset 0. -/
def cqTail : Fld := ⟨0x30, 48, 16, .ro, 0⟩

/-- LAST_STATUS (R359): RO, reset 0. -/
def lastStatus : Fld := ⟨0x38, 0, 8, .ro, 0⟩

/-- LAST_SQ_INDEX (R359): RO, reset 0. -/
def lastSqIndex : Fld := ⟨0x38, 8, 16, .ro, 0⟩

/-- ERROR_CAUSE (R359): RO, reset 0. -/
def errorCause : Fld := ⟨0x38, 24, 4, .ro, 0⟩

/-- VERBS_FAILED (R359): RO, reset 0. -/
def verbsFailed : Fld := ⟨0x38, 32, 32, .ro, 0⟩

/-- Every field of this table. -/
def all : List Fld :=
  [sqBase, cqBase, doorbell, ownerCtx, domain, sqLog2, cqLog2, maxInflight, notify, msixVector] ++
  [coalesceCount, coalesceTicks, enable, reset, state, ringEpoch, sqHead, cqTail, lastStatus, lastSqIndex] ++
  [errorCause, verbsFailed]

/-- The 64-only registers of this table (R27), as ranges of offsets. -/
def only64 : List (Nat × Nat) := [(0x30, 0x38)]

end RingEF

namespace FloorEF

/-- FLOOR (R379): RW, reset 0 hosts; R377 internal. -/
def floor : Fld := ⟨0x0, 0, 26, .rw, 0⟩

/-- GUST_MAX (R379): RW, reset 0 hosts; 4 × FLOOR internal. -/
def gustMax : Fld := ⟨0x0, 32, 26, .rw, 0⟩

/-- WEIGHT (R379): RW, reset 16. -/
def weight : Fld := ⟨0x8, 0, 8, .rw, 16⟩

/-- EFF_FLOOR (R379): RO, reset FLOOR. -/
def effFloor : Fld := ⟨0x10, 0, 26, .ro, 0⟩

/-- GUST_LEVEL (R379): RO, reset 0. -/
def gustLevel : Fld := ⟨0x10, 32, 26, .ro, 0⟩

/-- BYTES_LAST (R379): RO, reset 0. -/
def bytesLast : Fld := ⟨0x18, 0, 48, .ro, 0⟩

/-- REQS_LAST (R379): RO, reset 0. -/
def reqsLast : Fld := ⟨0x20, 0, 32, .ro, 0⟩

/-- SHORT_SPELLS (R379): RO, reset 0. -/
def shortSpells : Fld := ⟨0x20, 32, 32, .ro, 0⟩

/-- BYTES_TOTAL (R379): CNT, reset 0. -/
def bytesTotal : Fld := ⟨0x28, 0, 48, .cnt, 0⟩

/-- REQS_TOTAL (R379): CNT, reset 0. -/
def reqsTotal : Fld := ⟨0x30, 0, 48, .cnt, 0⟩

/-- Every field of this table. -/
def all : List Fld :=
  [floor, gustMax, weight, effFloor, gustLevel, bytesLast, reqsLast, shortSpells, bytesTotal, reqsTotal]

/-- The 64-only registers of this table (R27), as ranges of offsets. -/
def only64 : List (Nat × Nat) := [(0x10, 0x10), (0x18, 0x30)]

end FloorEF

end Sys2Proof.Machine
end

