-- ==== Sys2Proof/Machine/Pages.lean ====
section
/-!
DEFINITION. Machine/Pages.lean: the block page index (R24), what each page type's header supports (R32), its
register fields, its PAGE_ERR bits, and reading and writing one field of the register store.
-/
namespace Sys2Proof.Machine

/-- Type code of a page type (R24). -/
def pageCode : PageTy → Nat
  | .glb => 0x01 | .prt => 0x02 | .lnq => 0x03 | .hsl => 0x04 | .mch => 0x05 | .cip => 0x06 | .lex => 0x07
  | .par => 0x08 | .frn => 0x09 | .rng => 0x0A | .grp => 0x0B | .mov => 0x0C | .key => 0x0D | .vlt => 0x0E
  | .pwr => 0x0F | .age => 0x10 | .spl => 0x11 | .drz => 0x12 | .pmu => 0x13 | .stw => 0x14

/-- How many instances a page type has (R24). -/
def pageCount : PageTy → Nat
  | .prt => 96 | .lnq => 32 | .hsl => 64 | .mch => 96 | .cip => 96 | .lex => 32 | .par => 16 | .frn => 16
  | _ => 1

/-- Base offset of a page type in BAR0 (R24). -/
def pageBase : PageTy → Nat
  | .glb => 0x0000 | .rng => 0x1000 | .grp => 0x2000 | .mov => 0x3000 | .key => 0x4000 | .vlt => 0x5000
  | .pwr => 0x6000 | .age => 0x7000 | .spl => 0x8000 | .drz => 0x9000 | .pmu => 0xA000 | .stw => 0xB000
  | .prt => 0x10000 | .lnq => 0x70000 | .hsl => 0x90000 | .mch => 0xD0000 | .cip => 0x130000
  | .lex => 0x190000 | .par => 0x1B0000 | .frn => 0x1C0000

/-- Every page type. -/
def pageTypes : List PageTy :=
  [.glb, .rng, .grp, .mov, .key, .vlt, .pwr, .age, .spl, .drz, .pmu, .stw, .prt, .lnq, .hsl, .mch, .cip, .lex,
   .par, .frn]

/-- BAR0 offset of a page. -/
def pageAddr (p : PageId) : Nat := pageBase p.ty + p.inst * 0x1000

/-- The module has the page. -/
def pageOk (p : PageId) : Bool := decide (p.inst < pageCount p.ty)

/-- The page in whose 4 KiB slot a BAR0 offset lies, if the slot is not reserved (R24). -/
def pageAt (off : Nat) : Option PageId :=
  (pageTypes.find? fun t => decide (pageBase t ≤ off) && decide (off < pageBase t + pageCount t * 0x1000)).map
    fun t => ⟨t, (off - pageBase t) / 0x1000⟩

/-- The single-instance pages. -/
def pgGlb : PageId := ⟨.glb, 0⟩
def pgRng : PageId := ⟨.rng, 0⟩
def pgGrp : PageId := ⟨.grp, 0⟩
def pgMov : PageId := ⟨.mov, 0⟩
def pgKey : PageId := ⟨.key, 0⟩
def pgVlt : PageId := ⟨.vlt, 0⟩
def pgPwr : PageId := ⟨.pwr, 0⟩
def pgAge : PageId := ⟨.age, 0⟩
def pgSpl : PageId := ⟨.spl, 0⟩
def pgDrz : PageId := ⟨.drz, 0⟩
def pgPmu : PageId := ⟨.pmu, 0⟩
def pgStw : PageId := ⟨.stw, 0⟩
def pgPrt (n : Nat) : PageId := ⟨.prt, n⟩
def pgLnq (n : Nat) : PageId := ⟨.lnq, n⟩
def pgHsl (n : Nat) : PageId := ⟨.hsl, n⟩
def pgMch (n : Nat) : PageId := ⟨.mch, n⟩
def pgCip (n : Nat) : PageId := ⟨.cip, n⟩
def pgLex (n : Nat) : PageId := ⟨.lex, n⟩
def pgPar (n : Nat) : PageId := ⟨.par, n⟩
def pgFrn (n : Nat) : PageId := ⟨.frn, n⟩

/-- PAGE_CAP.RESET (R32): MOV, DRZ and LEX pages state 1 (R267, R445, R290). Where a chapter states none the model
takes 0 (log entry 5). -/
def capReset : PageTy → Bool
  | .mov | .drz | .lex => true
  | _ => false

/-- PAGE_CAP.FREEZE (R32): 1 on MCH pages (R337). -/
def capFreeze : PageTy → Bool
  | .mch => true
  | _ => false

/-- PAGE_CAP.PROGRESS (R32), as each chapter states; 1 where a chapter says what PAGE_PROGRESS reports. -/
def capProgress : PageTy → Bool
  | .mov | .key | .frn | .mch | .age | .vlt | .pwr | .drz | .hsl | .grp | .stw => true
  | _ => false

/-- PAGE_CAP.ROLE (R32): the pages that bear a role (R116, R154, R187, R189, R318). -/
def capRole : PageTy → Bool
  | .grp | .lnq | .prt | .stw | .frn => true
  | _ => false

/-- Block-specific fields of a page type. -/
def pageFields : PageTy → List Fld
  | .glb => GlbF.all | .rng => RngF.all | .grp => GrpF.all | .mov => MovF.all | .key => KeyF.all | .vlt => VltF.all
  | .pwr => PwrF.all | .age => AgeF.all | .spl => SplF.all | .drz => DrzF.all | .pmu => PmuF.all | .stw => StwF.all
  | .prt => PrtF.all | .lnq => LnqF.all | .hsl => HslF.all | .mch => MchF.all | .cip => CipF.all | .lex => LexF.all
  | .par => ParF.all | .frn => FrnF.all

/-- 64-only registers of a page type's own area (R27). -/
def pageOnly64 : PageTy → List (Nat × Nat)
  | .glb => GlbF.only64 | .rng => RngF.only64 | .grp => GrpF.only64 | .mov => MovF.only64 | .key => KeyF.only64
  | .vlt => VltF.only64 | .pwr => PwrF.only64 | .age => AgeF.only64 | .spl => SplF.only64 | .drz => DrzF.only64
  | .pmu => PmuF.only64 | .stw => StwF.only64 | .prt => PrtF.only64 | .lnq => LnqF.only64 | .hsl => HslF.only64
  | .mch => MchF.only64 | .cip => CipF.only64 | .lex => LexF.only64 | .par => ParF.only64 | .frn => FrnF.only64

/-- PAGE_CAP.LOCK (R32): the page has RWL fields. -/
def capLock (t : PageTy) : Bool := (pageFields t).any fun f => f.acc = .rwl

/-- Whether a register offset lies in one of the ranges of `l`. -/
def inRanges (l : List (Nat × Nat)) (off : Nat) : Bool :=
  l.any fun r => decide (r.1 ≤ off) && decide (off ≤ r.2)

/-- The register of a page is marked 64-only (R27, R30). -/
def is64Only (t : PageTy) (off : Nat) : Bool :=
  if off < 0x100 then inRanges HdrF.only64 off else inRanges (pageOnly64 t) off

/-- Fields of the register at an offset of a page. -/
def regFields (t : PageTy) (off : Nat) : List Fld :=
  (if off < 0x100 then HdrF.all else pageFields t).filter fun f => f.off = off

/-- Range of block-specific PAGE_ERR bits of a page type, as (first, one past the last) pairs. -/
def errRanges : PageTy → List (Nat × Nat)
  | .glb => [(8, 12)] | .rng => [(8, 11)] | .grp => [(8, 15)] | .mov => [(8, 15)] | .key => [(8, 13)] | .vlt => [(8, 16)]
  | .pwr => [(8, 18)] | .age => [(8, 18)] | .spl => [(8, 10)] | .drz => [(8, 14)] | .pmu => [(8, 10)] | .stw => [(8, 13)]
  | .prt => [(8, 18), (32, 40)] | .lnq => [] | .hsl => [(8, 11), (24, 26)] | .mch => [(8, 18)] | .cip => [(8, 9)]
  | .lex => [(8, 13)] | .par => [(8, 11)] | .frn => [(8, 10)]

/-- The PAGE_ERR positions a page type defines (R35): the common three and its block's own. -/
def errMaskOf (t : PageTy) : Nat :=
  (errRanges t).foldl (fun a r => a ||| (2 ^ r.2 - 2 ^ r.1)) 7

/-- Reset value of PAGE_ERR_SEV: 0 but for TAMPER on the DRZ page (R446). -/
def sevReset : PageTy → Nat
  | .drz => 0x800
  | _ => 0

/-- Key of a field in the register store: `b` is the BAR0 offset of its page or table entry. -/
def fldKey (b : Nat) (f : Fld) : Nat := (b + f.off) * 64 + f.lo

/-- The value held in a field of the page or entry at BAR0 offset `b`. -/
def Mod.at_ (m : Mod) (b : Nat) (f : Fld) : Nat := mapGetD m.regs (fldKey b f) f.rst

/-- The machine with a field of the page or entry at `b` holding `v`, cut to the field's width. -/
def Mod.setAt (m : Mod) (b : Nat) (f : Fld) (v : Nat) : Mod :=
  { m with regs := mapPut m.regs (fldKey b f) (v % 2 ^ f.width) }

/-- Start-up has brought the block into service (R33): the memory channels and cipher engines once the DRAM is trained,
every other block once the firmware runs (log entry 11). -/
def Mod.inService (m : Mod) (t : PageTy) : Bool :=
  match t with
  | .mch | .cip => m.glb.dramUp
  | _ => m.glb.pagesUp

/-- What a field reads as while nothing has been written to it: its table's reset value; PAGE_ERR_SEV by page type
(R446); ENABLE 1 and STATE READY, both the value 1, once start-up has brought the block into service; CLASS_MASK
as R288 gives it: engines 0 to 7 accept PACKED_READ and PACK, the others every class but PACKED_READ. -/
def Mod.fldReset (m : Mod) (p : PageId) (f : Fld) : Nat :=
  if f = HdrF.errSev then sevReset p.ty
  else if f = HdrF.enable || f = HdrF.state then b2n (m.inService p.ty)
  else if f = LexF.classMask && p.ty = .lex then (if p.inst < 8 then 33 else 62)
  else f.rst

/-- A field of a page. -/
def Mod.get (m : Mod) (p : PageId) (f : Fld) : Nat :=
  mapGetD m.regs (fldKey (pageAddr p) f) (m.fldReset p f)

/-- Set a field of a page. -/
def Mod.set (m : Mod) (p : PageId) (f : Fld) (v : Nat) : Mod := m.setAt (pageAddr p) f v

/-- A one-bit field is 1. -/
def Mod.is (m : Mod) (p : PageId) (f : Fld) : Bool := m.get p f != 0

/-- Add to a field, modulo its width: a counter that wraps to 0. -/
def Mod.add (m : Mod) (p : PageId) (f : Fld) (n : Nat) : Mod := m.set p f (m.get p f + n)

/-- Send something to the outside. -/
def Mod.send (m : Mod) (o : Out) : Mod := { m with out := m.out ++ [o] }

/-- The 64-bit value of a page's register. -/
def Mod.pageReg (m : Mod) (p : PageId) (off : Nat) : Nat := (regFields p.ty off).foldl (fun a f => a + (m.get p f <<< f.lo)) 0

/-- Block state codes (R34). -/
def stOff : Nat := 0
def stReady : Nat := 1
def stBusy : Nat := 2
def stFrozen : Nat := 3
def stFault : Nat := 4
def stRetired : Nat := 5

/-- The state of a block (R34), with READY for a block that is READY or BUSY: which of the two, `inFlight` says. -/
def Mod.blockState (m : Mod) (p : PageId) : Nat := m.get p HdrF.state

/-- Set PAGE_STS.STATE. -/
def Mod.setState (m : Mod) (p : PageId) (c : Nat) : Mod := m.set p HdrF.state c

/-- The block takes work: READY or BUSY. -/
def Mod.works (m : Mod) (p : PageId) : Bool := m.blockState p = stReady

/-- PAGE_PROGRESS of a running operation: OP_STATE, PERCENT and POSITION (R38). -/
def Mod.progress (m : Mod) (p : PageId) (op percent pos : Nat) : Mod :=
  ((m.set p HdrF.opState op).set p HdrF.percent percent).set p HdrF.position pos

/-- A change of role (R39): the new code, and the epoch advanced by one. -/
def Mod.newRole (m : Mod) (p : PageId) (code : Nat) : Mod :=
  (m.add p HdrF.roleEpoch 1).set p HdrF.roleCode code

/-- The next free value (log entry 4): the value, and the counter advanced. -/
def Mod.fresh (m : Mod) : Nat × Mod := (Config.free m.free, { m with free := m.free + 1 })

end Sys2Proof.Machine
end

