-- ==== Sys2Proof/Machine/Flags.lean ====
section
/-!
DEFINITION. Machine/Flags.lean: the flags of the module: event counters and their gate (R42, R447 to R453), PAGE_ERR
and its capture (R35 to R37), MSI-X signals (R40, R196), event records (R203).
-/
namespace Sys2Proof.Machine

/-- Event selector and counter fields of a page's four counters (R42). -/
def evtEvent : Nat → Fld
  | 0 => HdrF.evt0Event | 1 => HdrF.evt1Event | 2 => HdrF.evt2Event | _ => HdrF.evt3Event
def evtEnable : Nat → Fld
  | 0 => HdrF.evt0Enable | 1 => HdrF.evt1Enable | 2 => HdrF.evt2Enable | _ => HdrF.evt3Enable
def evtUser : Nat → Fld
  | 0 => HdrF.evt0User | 1 => HdrF.evt1User | 2 => HdrF.evt2User | _ => HdrF.evt3User
def evtOvf : Nat → Fld
  | 0 => HdrF.evt0Ovf | 1 => HdrF.evt1Ovf | 2 => HdrF.evt2Ovf | _ => HdrF.evt3Ovf
def evtCount : Nat → Fld
  | 0 => HdrF.evt0Count | 1 => HdrF.evt1Count | 2 => HdrF.evt2Count | _ => HdrF.evt3Count

/-- Common event numbers (R450). -/
def evTicks : Nat := 0x0001
def evBusyTicks : Nat := 0x0002
def evErrors : Nat := 0x0003
def evSpells : Nat := 0x0004

/-- The event numbers a page type defines (R450). -/
def eventDefined (t : PageTy) (e : Nat) : Bool :=
  if e ≤ 4 then true else
  match t with
  | .glb => e = 0x100 || e = 0x101
  | .rng => decide (0x100 ≤ e) && decide (e ≤ 0x103)
  | .grp | .mov | .spl | .drz | .cip | .par => decide (0x100 ≤ e) && decide (e ≤ 0x102)
  | .key | .vlt | .pwr | .age | .pmu | .stw | .lnq | .frn => e = 0x100 || e = 0x101
  | .prt => decide (0x100 ≤ e) && decide (e ≤ 0x105)
  | .hsl => decide (0x100 ≤ e) && decide (e ≤ 0x106)
  | .mch => (decide (0x100 ≤ e) && decide (e ≤ 0x108)) || (decide (0x110 ≤ e) && decide (e ≤ 0x112))
  | .lex => (decide (0x100 ≤ e) && decide (e ≤ 0x105)) || e = 0x110

/-- Page slot of a page: BAR0 offset over 0x1000 (R454, R457). -/
def pageSlot (p : PageId) : Nat := pageAddr p / 0x1000

/-- Counter `k` of page `p` counts event `e` (R447). -/
def Mod.counts (m : Mod) (p : PageId) (k e : Nat) : Bool :=
  m.is pgPmu PmuF.open_ && m.is p (evtEnable k) && decide (m.get p (evtEvent k) = e)

/-- Add to counter `k` of page `p`: it wraps from 2^48 - 1 to 0 and each wrap sets OVF (R42). Answers whether it
wrapped. -/
def Mod.bumpCounter (m : Mod) (p : PageId) (k n : Nat) : Mod × Bool :=
  let v := m.get p (evtCount k) + n
  if v < 2 ^ 48 then (m.set p (evtCount k) v, false)
  else ((m.set p (evtCount k) v).set p (evtOvf k) 1, true)

/-- Add `n` to each counter of page `p` that counts event `e`, without what a wrap brings; the wraps' numbers. -/
def Mod.countRaw (m : Mod) (p : PageId) (e n : Nat) : Mod × List Nat :=
  (upto 4).foldl (fun (a : Mod × List Nat) k =>
    if a.1.counts p k e then
      let r := a.1.bumpCounter p k n
      (r.1, if r.2 then a.2 ++ [k] else a.2)
    else a) (m, [])

/-- One MSI-X message of vector `v` goes out (R196), and STW counts it (R450). -/
def Mod.msixIssue (m : Mod) (v : Nat) : Mod :=
  let e := mapGetD m.stw.msix v { addr := 0, data := 0, masked := true }
  ((m.countRaw pgStw 0x100 1).1).send (.msix v e.addr e.data)

/-- A message on vector `v` may go out: MSI-X enabled, bus master enabled, function and vector unmasked, not in
D3hot (R193, R196). -/
def Mod.msixOpen (m : Mod) (v : Nat) : Bool :=
  m.is pgStw StwF.msixEn && m.is pgStw StwF.bme && !m.is pgStw StwF.funcMask && !m.is pgStw StwF.d3hot &&
  !(mapGetD m.stw.msix v { addr := 0, data := 0, masked := true }).masked

/-- Set PAGE_ERR bits and capture without any signal or escalation (R35, R37): the lowest bit set in the same instant
is captured, MULTIPLE is set for every other. -/
def Mod.errBits (m : Mod) (p : PageId) (bitNo detail : Nat) : Mod :=
  let m := m.set p HdrF.err (setBit (m.get p HdrF.err) bitNo)
  if m.is p HdrF.valid then m.set p HdrF.multiple 1
  else ((m.set p HdrF.errIndex bitNo).set p HdrF.valid 1).set p HdrF.detail detail

/-- ERR_PENDING: a PAGE_ERR bit is set whose mask bit is 0 (R34). -/
def Mod.errPending (m : Mod) (p : PageId) : Bool :=
  (m.get p HdrF.err &&& (m.get p HdrF.err ^^^ (m.get p HdrF.err &&& m.get p HdrF.errMask))) != 0

/-- Add a vector to the pending-bit array. -/
def Mod.setPend (m : Mod) (v : Nat) : Mod :=
  if m.stw.pend.contains v then m else { m with stw := { m.stw with pend := m.stw.pend ++ [v] } }

/-- A signal on a vector (R196): a message, a pending bit, or discarded and counted while MSI-X is disabled; the
discard sets MSIX_DISCARDED (R214), which signals nothing itself. -/
def Mod.signal (m : Mod) (v : Nat) : Mod :=
  if m.is pgStw StwF.valid then
    if m.is pgStw StwF.msixEn then
      if m.msixOpen v then (if m.stw.pend.contains v then m else m.msixIssue v) else m.setPend v
    else (m.add pgStw StwF.stwMsixDiscarded 1).errBits pgStw 12 0
  else m

/-- Messages held back go out once nothing holds them (R196, R207): each pending vector that may issue sends one
message and its pending bit clears. -/
def Mod.msixRelease (m : Mod) : Mod :=
  let go := m.stw.pend.filter fun v => m.msixOpen v
  go.foldl (fun a v => a.msixIssue v)
    { m with stw := { m.stw with pend := m.stw.pend.filter fun v => !m.msixOpen v } }

/-- Set a PAGE_ERR bit with its capture, the ERRORS event, the MSI-X signal at a rise of ERR_PENDING, and FAULT for a
fatal severity (R35 to R37, R40); no escalation to a module fault, no wrap of the ERRORS counter itself reported. -/
def Mod.errQuiet (m : Mod) (p : PageId) (bitNo detail : Nat) : Mod :=
  let was := m.errPending p
  let m := ((m.errBits p bitNo detail).countRaw p evErrors 1).1
  let m := if !was && m.errPending p && m.is p HdrF.signalEn then m.signal (m.get p HdrF.vector) else m
  if bit (m.get p HdrF.errSev) bitNo then m.setState p stFault else m

/-- What a wrap of an enabled counter brings (R453, R457): COUNTER_WRAP, and with FREEZE_ON_OVF the gate closes, MODE
becomes 2 and GATE_FROZEN is set. -/
def Mod.wrapped (m : Mod) (p : PageId) (k : Nat) : Mod :=
  let d := pageSlot p ||| (k <<< 9)
  let m := m.errQuiet pgPmu 8 d
  if m.is pgPmu PmuF.freezeOnOvf && m.is pgPmu PmuF.open_ then
    ((m.set pgPmu PmuF.open_ 0).set pgPmu PmuF.mode 2).errQuiet pgPmu 9 d
  else m

/-- `n` events `e` happen at page `p` (R447). -/
def Mod.count (m : Mod) (p : PageId) (e n : Nat) : Mod :=
  let r := m.countRaw p e n
  r.2.foldl (fun a k => a.wrapped p k) r.1

/-- Severity as a number: the log it goes to. -/
def sevIdx : Sev → Nat
  | .info => 0 | .warning => 1 | .failure => 2 | .fatal => 3

/-- The next event handle: 16 bits, never 0 (R203). -/
def nextHandle (h : Nat) : Nat := if h + 1 ≥ 65536 then 1 else h + 1

/-- An event record is appended to its log, or lost and counted when the log holds 1,024 (R203). The event-log
interrupt set by Set Event Interrupt Policy is signalled (R195), and EVENT_RECORDS counts it (R450). -/
def Mod.event (m : Mod) (sev : Sev) (kind : EvKind) (args : List Nat) : Mod :=
  let l := m.mgmt.logs
  let m := m.count pgGlb 0x100 1
  if (l.recs.filter fun r => r.sev = sev).length < 1024 then
    let r : EvRec := { handle := l.next, sev := sev, kind := kind, args := args, at_ := m.tick }
    let m := { m with mgmt := { m.mgmt with logs := { l with recs := l.recs ++ [r], next := nextHandle l.next } } }
    -- a setting holds 1 in its low two bits for an MSI-X interrupt, and the vector in its high four bits
    let pol := m.mgmt.policy.getD (sevIdx sev) 0
    if pol % 4 = 1 then m.signal (pol / 16) else m
  else
    { m with mgmt := { m.mgmt with logs := { l with lost := mapPut l.lost (sevIdx sev) (mapGetD l.lost (sevIdx sev) 0 + 1) } } }

end Sys2Proof.Machine
end

