-- ==== Sys2Proof/Machine/Ops.lean ====
section
/-!
DEFINITION. Machine/Ops.lean: the shared operations of the module: outcomes, refusals of a page command, starting a save
(R397, R400), module faults (R464), resetting the die (R461 to R463), raising an error (R35, R36), mailbox replies.
-/
namespace Sys2Proof.Machine

open Host

/-- A command that touches only the module proper: its queue, fuses and power entry stage stay. -/
def State.onM (s : State) (f : Mod → Mod) : Outcome State Fault Refusal := .next { s with m := f s.m }

/-- A command that names a unit: `absentUnit` where the module does not have it. -/
def State.onUnit (s : State) (has : Bool) (f : Mod → Mod) : Outcome State Fault Refusal :=
  if has then s.onM f else .fault .absentUnit

/-- Apply `f` when `c` holds. -/
def Mod.when (m : Mod) (c : Bool) (f : Mod → Mod) : Mod := if c then f m else m

/-- Ticks in a unit of time (R5). -/
def us : Nat := 1000
def ms : Nat := 1000000
def second : Nat := 1000000000
def hour : Nat := 3600 * second

/-- Time over the module's life in ticks: what passed before the last reset of the tick count, and the count. -/
def Mod.now (m : Mod) : Nat := m.glb.past + m.tick

/-- The phase of start-up reached (R458). -/
def Mod.phase (m : Mod) : Nat := m.get pgGlb GlbF.phase

/-- Phase 4 has ended: the restore is done (R458, R464). -/
def Mod.restored (m : Mod) : Bool := decide (5 ≤ m.phase)

/-- The die runs: it has power and is not HALTED. -/
def Mod.runs (m : Mod) : Bool := m.glb.powered && !m.glb.halted

/-- MODULE_STATE codes (R467). -/
def msBooting : Nat := 0
def msRestoring : Nat := 1
def msJoining : Nat := 2
def msServing : Nat := 3
def msSaving : Nat := 4
def msHalted : Nat := 5

/-- Set MODULE_STATE. -/
def Mod.setModState (m : Mod) (c : Nat) : Mod := m.set pgGlb GlbF.moduleState c

/-- A save runs. -/
def Mod.saving (m : Mod) : Bool := m.vlt.save.isSome

/-- What follows when a second trigger is absorbed by a running save (R412, R466): losing power outranks a reset and
a halt, and those outrank resuming. -/
def AfterSave.absorb : AfterSave → AfterSave → AfterSave
  | .powerDown, _ => .powerDown
  | _, .powerDown => .powerDown
  | .resume, b => b
  | a, _ => a

/-- A plan that runs is abandoned by a save or by input loss: OP_STATE done-with-error (R387, R393). -/
def Mod.abandonPlan (m : Mod) : Mod :=
  if m.age.plan.isSome then
    ({ m with age := { m.age with plan := none } }.set pgAge HdrF.opState 3).set pgAge AgeF.replan 0
  else m

/-- Fenced regions of one instance of an on-die memory (R433, R440): its class's first region, regions of an instance, instance. -/
def Mod.fencedIn (m : Mod) (first per n : Nat) : Nat :=
  (m.drz.fenced.filter fun r => decide (first + per * n ≤ r) && decide (r < first + per * (n + 1))).length

/-- Drizzle pauses for a save, and the region under test is restored at once (R444). -/
def Mod.pauseDrizzle (m : Mod) : Mod :=
  { m with drz := { m.drz with under := none, paused := true } }.set pgDrz HdrF.opState 2

/-- VLT_STS.STATE (R413): SAVING, RESTORING, RECONCILING, READY when the target is wholly erased, else NOT_READY. -/
def Mod.showVlt (m : Mod) : Mod :=
  m.set pgVlt VltF.state (if m.saving then 2 else if m.vlt.restoring then 3 else if m.aux.reconciling then 4 else if m.vlt.erased then 1 else 0)

/-- A save starts (R397, R400). A trigger during a save is absorbed by it; during a restore, before the restore has
ended, or after the lid was opened (R443) no save is made. `gpf` names ports whose GPF Phase 2 waits for the seal. -/
def Mod.startSave (m : Mod) (trigger : Nat) (after : AfterSave) (gpf : List Nat) : Mod :=
  match m.vlt.save with
  | some v => { m with vlt := { m.vlt with save := some { v with after := v.after.absorb after, gpf := v.gpf ++ gpf } } }
  | none =>
    if !m.restored || m.glb.tampered then m else
    let v : Save := { trigger := trigger, step := .prepare, after := after, start := m.tick, truncated := false,
                      parityCut := 0, volCut := 0, durable := true, gpf := gpf }
    let m := { m with vlt := { m.vlt with save := some v } }
    let m := m.showVlt.set pgVlt VltF.lastTrigger trigger
    let m := m.progress pgVlt 1 0 0
    (m.abandonPlan.pauseDrizzle).setModState msSaving

/-- Whether a field belongs to the module configuration that a module reset applies (R28, R189, R209): RWL fields,
ENABLE, BLOCK_CTL, LINK_DISABLE, the steward designation, roles and role epochs. -/
def cfgField (b : Nat) (f : Fld) : Bool :=
  f.acc = .rwl || f = HdrF.enable || f = HdrF.blockCtl || f = HdrF.roleEpoch || f = HdrF.roleCode ||
  (f = PrtF.hostLinkDisable && decide (0x10000 ≤ b) && decide (b < 0x70000)) ||
  (decide (b = 0xB000) && (f = StwF.stewardPort || f = StwF.valid))

/-- The fields of a page type: header and block. -/
def allFields (t : PageTy) : List Fld := HdrF.all ++ pageFields t

/-- The block-page field a key of the register store names. -/
def fieldAt (key : Nat) : Option (PageId × Fld) :=
  match pageAt (key / 64) with
  | none => none
  | some p => ((allFields p.ty).find? fun f => fldKey (pageAddr p) f = key).map fun f => (p, f)

/-- A key of the register store lies in the ring table. -/
def isRingKey (key : Nat) : Bool := decide (0x800000 * 64 ≤ key) && decide (key < 0x880000 * 64)

/-- A ring-table key that is module configuration (R357): every register but RING_STS and RING_ERR; ENABLE and RESET, whose pair is
DISABLED after a restore, are not kept. -/
def isRingCfg (key : Nat) : Bool := isRingKey key && decide (key / 64 % 64 < 0x28)

/-- A key of the register store holds module configuration. -/
def isCfgKey (key : Nat) : Bool :=
  isRingCfg key ||
  match fieldAt key with
  | some (p, f) => cfgField (pageAddr p) f
  | none => false

/-- The module configuration among the register fields. -/
def Mod.config (m : Mod) : Map Nat := m.regs.filter fun e => isCfgKey e.1

/-- The die is reset (R461 to R463): everything of it returns to its reset value but what the boot flash and the vault
hold, what the module counts over its life, and the reference values of manufacture. `code` is LAST_RESET. -/
def Mod.dieReset (m : Mod) (code : Nat) : Mod :=
  let r := Mod.reset
  let r := { r with
    out := m.out, free := m.free, boot := m.boot,
    age := { r.age with dRef := m.age.dRef, c0 := m.age.c0, esr0 := m.age.esr0, tProg0 := m.age.tProg0,
                        raised := m.age.raised },
    vlt := { m.vlt with save := none, restoring := false },
    drz := if code = 0 then r.drz else { r.drz with fenced := m.drz.fenced, used := m.drz.used },
    chn := { r.chn with
      retired := m.chn.retired,
      internalFrames := m.chn.internalFrames.filter fun e => decide (83886080 ≤ e.1) && m.chn.retired.contains (e.1 % 96) },
    glb := { r.glb with past := m.now, lidOpen := m.glb.lidOpen, faultTicks := m.glb.faultTicks,
                        moduleResets := m.glb.moduleResets, faultResets := m.glb.faultResets,
                        clkStopped := m.glb.clkStopped, leakLow := m.glb.leakLow } }
  -- the last plan's bank, NAND and eye values are kept (R386)
  let r := [AgeF.cMf, AgeF.esrMohm, AgeF.tprogNs, AgeF.slowDie, AgeF.dramEyeMin, AgeF.dramEyeCh, AgeF.laneEyeMin,
            AgeF.laneEyeLane].foldl (fun a f => a.set pgAge f (m.get pgAge f)) r
  let r := (r.set pgVlt VltF.saveSeq (m.get pgVlt VltF.saveSeq)).set pgVlt VltF.target (m.get pgVlt VltF.target)
  r.set pgGlb GlbF.lastReset code

/-- The module reset proper, at the seal or without a save (R463, R464). -/
def Mod.moduleResetNow (m : Mod) (code : Nat) : Mod :=
  let g := m.glb
  let n := m.now
  let ft := if code = 2 then (g.faultTicks.filter fun t => decide (n < t + hour)) ++ [n] else g.faultTicks
  ({ m with glb := { g with moduleResets := g.moduleResets + 1, faultTicks := ft,
                            faultResets := if code = 2 then g.faultResets + 1 else g.faultResets } }).dieReset code

/-- Add a reason to fence the durable extents (R85). -/
def Mod.fence (m : Mod) (f : Fence) : Mod :=
  if m.fences.contains f then m else { m with fences := m.fences ++ [f] }

/-- A reason to fence no longer holds. -/
def Mod.unfence (m : Mod) (f : Fence) : Mod := { m with fences := m.fences.filter fun g => g != f }

/-- HALTED is entered (R464): the durable extents are fenced, MODULE_STATE 5 and FAULT_LIMIT. -/
def Mod.enterHalted (m : Mod) : Mod :=
  (({ m with glb := { m.glb with halted := true, resetBy := none } }.fence .halted).setModState msHalted).errQuiet pgGlb 10 0

/-- A module reset is asked for (R463): a save with trigger 5 and the reset at its seal. Before the restore has ended,
or with the lid open, no save can be made and the reset happens at once (R464, R443). A request during a
module reset is absorbed; one during another save follows its seal. -/
def Mod.requestReset (m : Mod) (code : Nat) : Mod :=
  if m.glb.resetBy.isSome then m
  else if m.restored && !m.glb.tampered then
    { m with glb := { m.glb with resetBy := some code } }.startSave 5 (.reset code) []
  else m.moduleResetNow code

/-- Module-fault resets within the last hour (R467). -/
def Mod.faultResets1h (m : Mod) : Nat := (m.glb.faultTicks.filter fun t => decide (m.now < t + hour)).length

/-- A module fault (R464): MODULE_FAULT with the cause, a Fatal record, then a module reset or HALTED. Cause FIRMWARE
always halts at once. A second fault while a reset runs or in HALTED is absorbed (R466). -/
def Mod.moduleFault (m : Mod) (cause slot : Nat) : Mod :=
  if m.glb.halted || m.glb.resetBy.isSome then m else
  let m := (m.errQuiet pgGlb 8 (cause ||| (slot <<< 4))).event .fatal .moduleFault [cause, slot]
  if cause = 5 then m.enterHalted
  else if m.is pgGlb GlbF.autoReset && decide (m.faultResets1h < m.get pgGlb GlbF.faultLimit) then m.requestReset 2
  else if m.restored && !m.glb.tampered then m.startSave 5 .halt []
  else m.enterHalted

/-- An error occurs at a page (R35 to R37, R40): its bit, capture, ERRORS event, signal, and for a fatal severity FAULT;
a page whose PAGE_CAP.RESET is 0 in FAULT is a module fault of cause 1 (R464). -/
def Mod.raise (m : Mod) (p : PageId) (bitNo detail : Nat) : Mod :=
  let was := m.errPending p
  let fatal := bit (m.get p HdrF.errSev) bitNo
  let m := (m.errBits p bitNo detail).count p evErrors 1
  let m := if !was && m.errPending p && m.is p HdrF.signalEn then m.signal (m.get p HdrF.vector) else m
  if fatal then
    let m := m.setState p stFault
    if capReset p.ty then m else m.moduleFault 1 (pageSlot p)
  else m

/-- A PAGE_CTL or block command is refused (R33, R35). -/
def Mod.refuse (m : Mod) (p : PageId) : Mod := m.raise p 0 0

/-- The steward port's link is up, in the host role (R187, R189). -/
def Mod.stewardUp (m : Mod) : Bool :=
  m.is pgStw StwF.valid && decide (m.get (pgPrt (m.get pgStw StwF.stewardPort)) PrtF.hostLinkState = 2)

/-- A mailbox or FM-API command on this interface reaches the management core (R200, R458, R464): the sideband from the
end of phase 1 on and in HALTED; the steward function's link once it is up, outside D3hot, FLR and HALTED, and not
while a save has ports stop granting credit (R400). -/
def Mod.mailbox (m : Mod) (via : Via) : Bool :=
  m.glb.powered &&
  match via with
  | .sideband => decide (2 ≤ m.phase)
  | .steward => m.runs && m.stewardUp && !m.is pgStw StwF.d3hot && !m.stw.flr && !m.saving
  | .fmLink => m.runs && m.stewardUp && !m.stw.flr && !m.saving

/-- One of the commands the boot ROM answers after both images failed (R459), besides the gate of `mailbox`. -/
def Mod.mailboxRom (m : Mod) (via : Via) : Bool :=
  m.mailbox via || (m.glb.powered && m.glb.halted && decide (via = .sideband))

/-- A completion of a command with its output bytes; MAILBOX_CMDS counts it (R450). -/
def Mod.reply (m : Mod) (via : Via) (rc : Rc) (data : List Byte) : Mod :=
  (m.count pgGlb 0x101 1).send (.reply via rc data)

/-- A completion whose payload layout is the standard's: its values. -/
def Mod.replyVals (m : Mod) (via : Via) (rc : Rc) (vals : List Nat) : Mod :=
  (m.count pgGlb 0x101 1).send (.replyVals via rc vals)

/-- A command that reached the core runs `f`; one that did not has no effect. -/
def Mod.onMailbox (m : Mod) (via : Via) (f : Mod → Mod) : Mod := if m.mailbox via then f m else m

/-- Whether a background command of this interface runs (R202). -/
def Mod.bgBusy (m : Mod) (via : Via) : Bool := m.mgmt.bg.any fun b => b.via = via

/-- A background command of this interface starts. -/
def Mod.bgStart (m : Mod) (via : Via) (opcode : Nat) : Mod :=
  { m with mgmt := { m.mgmt with bg := m.mgmt.bg ++ [{ via := via, opcode := opcode, arg := 0 }] } }

/-- A background command of this interface starts on something numbered. -/
def Mod.bgStartOn (m : Mod) (via : Via) (opcode arg : Nat) : Mod :=
  { m with mgmt := { m.mgmt with bg := m.mgmt.bg ++ [{ via := via, opcode := opcode, arg := arg }] } }

/-- The interface of the running background command with this opcode on this. -/
def Mod.bgOn (m : Mod) (opcode arg : Nat) : Option Via :=
  (m.mgmt.bg.find? fun b => b.opcode = opcode && b.arg = arg).map BgCmd.via

/-- The background command of an interface ends. -/
def Mod.bgDone (m : Mod) (via : Via) : Mod :=
  { m with mgmt := { m.mgmt with bg := m.mgmt.bg.filter fun b => b.via != via } }

/-- The background command with this opcode ends, and its interface. -/
def Mod.bgEnd (m : Mod) (opcode : Nat) : Mod :=
  { m with mgmt := { m.mgmt with bg := m.mgmt.bg.filter fun b => b.opcode != opcode } }

/-- The event counter of which a key is the ENABLE field: its page and number. -/
def enableKey (key : Nat) : Option (PageId × Nat) :=
  match pageAt (key / 64) with
  | none => none
  | some p => ((upto 4).find? fun k => fldKey (pageAddr p) (evtEnable k) = key).map fun k => (p, k)

/-- Line number of a DPA. -/
def lineOf (dpa : Nat) : Nat := dpa / 64

/-- Home slice of a line, DPA[13:8] (R215). -/
def sliceOf (l : Nat) : Nat := bits l 2 6

/-- Slice of a held full stop: that of its stop line. -/
def Mod.stopSlice (m : Mod) (s : FullStop) : Nat := match mapGet m.led.wins s.win with
  | some w => sliceOf (lineOf w.entry.stopDpa)
  | none => 64

/-- Requests admitted at a slice. -/
def Mod.admitted (m : Mod) (sl : Nat) : List Req := m.led.reqs.filter fun r => r.wait != .ingress && sliceOf r.line = sl

/-- Ledger entries held at a slice: admitted requests, durable writes awaiting protection, held full stops. -/
def Mod.entriesUsed (m : Mod) (sl : Nat) : Nat :=
  (m.admitted sl).length + (m.led.dws.filter fun d => d.slice = sl).length + (m.led.stops.filter fun s => m.stopSlice s = sl).length

/-- CLASS of a CTL message (R132). -/
def clsCtl : Nat := 3

/-- Credits a message of a length costs (R139). -/
def creditCost (len : Nat) : Nat := (len + 63) / 64

/-- Credits of a class left to the sender (R140). -/
def PeerPort.credit (p : PeerPort) (c : Nat) : Nat := (p.limit.getD c 0 + 2 ^ 32 - p.used.getD c 0) % 2 ^ 32

/-- A message of a class and length may begin: on a GCM port one CTL credit is left for the run's MAC_TAG (R140, R150). -/
def PeerPort.mayBegin (p : PeerPort) (gcm : Bool) (cls len : Nat) : Bool :=
  decide (creditCost len ≤ p.credit cls - (if gcm && cls = clsCtl then 1 else 0)) && (!gcm || decide (1 ≤ p.credit clsCtl))

/-- The message at the head of a bundle, by class and length: one returned goes first (R143). One that waits has not been compressed
yet (R152). -/
def Bundle.head (b : Bundle) : Option (Nat × Nat) := match b.returned, b.queue with
  | (_, w) :: _, _ => some (((w.getD 8 0#8).toNat) % 8, w.length)
  | [], g :: _ => some (g.cls, 16 + g.body.length)
  | [], [] => none

/-- An up peer port has a message ready and no credit for it (R140, R450). -/
def Mod.creditStalled (m : Mod) (n : Nat) : Bool :=
  m.get (pgPrt n) PrtF.peerState = 3 &&
  (match mapGet m.bfl.ports n with
   | none => false
   | some p => match p.peer.bind fun id => (mapGet m.bfl.bundles id).bind Bundle.head with
     | none => false
     | some (c, len) => p.rest.isNone && !p.mayBegin (m.is (pgPrt n) PrtF.peerGcmEn) c len)

/-- A hold that this module requested of a member is outstanding (R107, R450). -/
def Mod.holdsOut (m : Mod) : Bool :=
  (m.grp.recons.any fun r => !r.held.isEmpty) || (m.grp.walk.any fun w => !w.holds.isEmpty) || m.aux.step.any fun s => !s.holds.isEmpty

/-- The block holds work in flight: a READY block that does is BUSY (R34). -/
def Mod.inFlight (m : Mod) (p : PageId) : Bool := match p.ty with
  | .prt => (m.led.reqs.any fun r => match r.who with
      | .host src _ => src.port = p.inst && !r.mute
      | _ => false) || ((mapGet m.bfl.ports p.inst).any fun q => !q.frames.isEmpty)
  | .lnq => (mapGet m.bfl.changing p.inst).isSome
  | .hsl => decide (0 < m.entriesUsed p.inst)
  | .mch => (mapGet m.chn.chans p.inst).any fun c => c.lull || c.settling || c.retiring.isSome
  | .lex => (mapGet m.lex.running p.inst).isSome || !(mapGetD m.lex.waiting p.inst []).isEmpty
  | .frn => (mapGet m.key.fronts p.inst).isSome
  | .rng => m.rng.any fun e => e.2.verbs.any Verb.started
  | .grp => m.grp.walk.isSome || m.aux.step.isSome || m.grp.prop.isSome
  | .mov => !m.tier.moves.isEmpty
  | .key => !m.key.fronts.isEmpty || !m.key.walks.isEmpty
  | .vlt => m.saving || m.vlt.restoring
  | .age => m.age.plan.isSome
  | .drz => m.drz.under.isSome
  | .stw => m.stw.fetch.isSome
  | .glb | .cip | .par | .pwr | .spl | .pmu => false

/-- A block whose ENABLE was cleared enters OFF once its work in flight has drained (R34). -/
def Mod.drained (m : Mod) (p : PageId) : Mod :=
  if m.works p && !m.is p HdrF.enable && !m.inFlight p then m.setState p stOff else m

/-- Ticks of `n` in which the condition of a tick event holds (R450); it does not change while time passes. -/
def Mod.tickShare (m : Mod) (p : PageId) (e n : Nat) : Nat :=
  if e = evTicks then n
  else if e = evBusyTicks then (if m.works p && m.inFlight p then n else 0)
  else match p.ty with
    | .pwr => if e = 0x101 && m.is pgPwr PwrF.charging then n else 0
    | .grp => if e = 0x102 && m.holdsOut then n else 0
    | .prt => if e = 0x105 && m.creditStalled p.inst then n else 0
    | .hsl => if e = 0x104 && decide (1024 ≤ m.entriesUsed p.inst) then n else 0
    | _ => 0

/-- Time passes: `n` ticks (R362), and every counter that counts a tick event counts them (R447). -/
def Mod.advance (m : Mod) (n : Nat) : Mod :=
  if n = 0 then m else
  let m := m.regs.foldl (fun a e =>
    match enableKey e.1 with
    | none => a
    | some (p, k) =>
      let ev := a.get p (evtEvent k)
      let c := a.tickShare p ev n
      if c != 0 && a.counts p k ev then
        let r := a.bumpCounter p k c
        if r.2 then r.1.wrapped p k else r.1
      else a) m
  { m with tick := m.tick + n }

/-- Time passes until tick `t`, if that lies ahead: a command that stands for a deadline falls due no earlier
(log entry 12). -/
def Mod.until_ (m : Mod) (t : Nat) : Mod := m.advance (t - m.tick)

end Sys2Proof.Machine
end

