-- ==== Sys2Proof/Machine/Operands.lean ====
section
/-!
DEFINITION. Machine/Operands.lean: the address forms of commands: lines, pages, home slices and map slices (R215, R248),
host addresses through alias windows and decoders (R168, R169, R178), which context sends a request (R165), extents,
frames and runs, units on channels (R326), stripes (R88) and GF(2^8) (R90).
-/
namespace Sys2Proof.Machine

/-! ## Lines, pages, slices -/

/-- Page number of a line, P = DPA[40:12] (R247). -/
def pageOfLine (l : Nat) : Nat := l / 64

/-- Slice line number LINE = DPA[40:14] × 4 + DPA[7:6] (R215). -/
def sliceLine (l : Nat) : Nat := bits l 8 27 * 4 + bits l 0 2

/-- Map slice of a page: DPA[13:12] × 16 + DPA[17:14] (R248). -/
def mapSlice (p : Nat) : Nat := bits p 0 2 * 16 + bits p 2 4

/-- Slices of the module. -/
def slices : Nat := 64

/-! ## Who sends, and where an address leads -/

/-- The port is in the host role (R187). -/
def Mod.hostRole (m : Mod) (port : Nat) : Bool := m.get (pgPrt port) HdrF.roleCode = 1

/-- The port serves behind PBR switches (R161). -/
def Mod.gfdMode (m : Mod) (port : Nat) : Bool := m.is (pgPrt port) PrtF.hostMode

/-- A host port beside its registers. -/
def Mod.hp (m : Mod) (port : Nat) : HostPort :=
  mapGetD m.fab.ports port { drain := none, ideMem := false, ideIo := false, insecure := false, bi := [] }

/-- Set a host port's state. -/
def Mod.setHp (m : Mod) (port : Nat) (h : HostPort) : Mod := { m with fab := { m.fab with ports := mapPut m.fab.ports port h } }

/-- The designated steward port (R189). -/
def Mod.isSteward (m : Mod) (port : Nat) : Bool := m.is pgStw StwF.valid && decide (m.get pgStw StwF.stewardPort = port)

/-- Logical devices as assigned, by port × 16 + number: logical device 0 of the steward port is always presented (R187). -/
def Mod.lds (m : Mod) : Map (Nat × Bool) :=
  if m.is pgStw StwF.valid then
    let k := m.get pgStw StwF.stewardPort * 16
    mapPut m.fab.lds k ((mapGetD m.fab.lds k (0, false)).1, true)
  else m.fab.lds

/-- The context and LD_EN of a logical device (R165, R187). -/
def Mod.ldOf (m : Mod) (port ld : Nat) : Nat × Bool := mapGetD m.lds (port * 16 + ld) (0, false)

/-- The context a request comes from (R165); none where the logical device does not respond (R166). -/
def Mod.ctxOf (m : Mod) (src : HostSrc) : Option Nat :=
  if m.gfdMode src.port then (if src.id < 4096 then some src.id else none)
  else if src.id < 16 then
    let a := m.ldOf src.port src.id
    if a.2 then some a.1 else none
  else none

/-- What a host address leads to (R169). -/
inductive Target where
  | miss
  | at (dpa hint : Nat) (consumer : Option Nat)
  deriving DecidableEq, Repr

/-- An address in an alias window (R178): hints 3 to 15 are decode misses; a consumer entry may be unused (R179). -/
def aliasTarget (w : AliasWin) (a : Nat) : Target :=
  let o := a - w.base
  let hint := o / w.span
  let dpa := w.dpa + o % w.span
  if 3 ≤ hint && hint ≤ 15 then .miss
  else if hint < 16 then .at dpa hint none
  else .at dpa hint ((w.consumers.getD (hint - 16) 0xFFFF |> fun c => if c = 0xFFFF then none else some c))

/-- The window covers the address. -/
def AliasWin.covers (w : AliasWin) (a : Nat) : Bool := decide (w.base ≤ a) && decide (a < w.base + 32 * w.span)

/-- The DPA of an address in a decoder: the interleave bits are taken out; a GFD decoder answers only for its
position (R168). -/
def Decoder.dpaOf (d : Decoder) (a : Nat) : Option Nat :=
  if d.base ≤ a && a < d.base + d.size then
    let o := a - d.base
    let way := o / d.gran % d.ways
    if d.pos.getD way = way then some (d.dpa + o / (d.gran * d.ways) * d.gran + o % d.gran) else none
  else none

/-- The decoders a request goes through (R168): 4 HDM decoders of its logical device or 8 GFD decoders of its context. -/
def Mod.decodersFor (m : Mod) (src : HostSrc) (ctx : Nat) : List Decoder :=
  if m.gfdMode src.port then (upto 8).filterMap fun i => mapGet m.fab.gfd (ctx * 8 + i)
  else (upto 4).filterMap fun i => mapGet m.fab.hdm ((src.port * 16 + src.id) * 4 + i)

/-- Where a request's address leads: alias windows first, then decoders (R169). -/
def Mod.target (m : Mod) (src : HostSrc) (ctx hpa : Nat) : Target :=
  let wins := (upto 4).filterMap fun i => mapGet m.fab.alias_ (ctx * 4 + i)
  match wins.find? fun w => w.covers hpa with
  | some w => aliasTarget w hpa
  | none => match (m.decodersFor src ctx).findSome? fun d => d.dpaOf hpa with
    | some dpa => if dpa < dpaBytes then .at dpa 0 none else .miss
    | none => .miss

/-! ## Lane quads (R154, R161) -/

/-- A quad's configuration in force. -/
def Mod.quad (m : Mod) (q : Nat) : QuadCfg := mapGetD m.bfl.quads q { role := 0, split := 0, cfg := 0, base := 0 }

/-- Ports that a quad's configuration drives: one, two or four in the peer role, one of a host quad but for a member of a wide port. -/
def QuadCfg.count (c : QuadCfg) : Nat :=
  if c.role = 2 then (if c.split = 0 then 1 else if c.split = 1 then 2 else 4)
  else if c.role = 1 then (if c.cfg % 4 = 3 then 0 else 1)
  else 0

/-- Port engines of a configuration. -/
def QuadCfg.ports (c : QuadCfg) : List Nat := List.range' c.base c.count

/-- Width of the ports of a peer quad. -/
def QuadCfg.width (c : QuadCfg) : Nat := if c.split = 0 then 4 else if c.split = 1 then 2 else 1

/-- The quad that drives a port engine. -/
def Mod.quadOf (m : Mod) (port : Nat) : Option Nat := (m.bfl.quads.find? fun e => e.2.ports.contains port).map Prod.fst

/-- The quad of a port has its reference clock: pair k serves quads 4k to 4k + 3 (R476, R477). -/
def Mod.clocked (m : Mod) (port : Nat) : Bool := match m.quadOf port with
  | some q => !m.glb.clkStopped.contains (q / 4)
  | none => true

/-- The port's quad changes role (R154). -/
def Mod.quadChanging (m : Mod) (port : Nat) : Bool := m.bfl.changing.any fun e => (m.quad e.1).ports.contains port

/-- An event of the port's quad (R450). -/
def Mod.countQuad (m : Mod) (port e : Nat) : Mod := match m.quadOf port with
  | some q => m.count (pgLnq q) e 1
  | none => m

/-! ## Extents -/

/-- The extent that holds a DPA, with its number. -/
def Mod.extAt (m : Mod) (dpa : Nat) : Option (Nat × Extent) :=
  m.fab.extents.find? fun e => decide (e.2.base ≤ dpa) && decide (dpa < e.2.base + e.2.size)

/-- An extent by number. -/
def Mod.ext (m : Mod) (n : Nat) : Option Extent := mapGet m.fab.extents n

/-- Change an extent. -/
def Mod.updExt (m : Mod) (n : Nat) (f : Extent → Extent) : Mod :=
  { m with fab := { m.fab with extents := mapUpd m.fab.extents n f } }

/-- A region no command has set up: empty and volatile, HDM-H, domain 0 (log entry 5). -/
def Region.none : Region := { base := 0, len := 0, durable := false, hdmDb := false, thin := false, domain := 0 }

/-- A region by number. -/
def Mod.region (m : Mod) (n : Nat) : Region := mapGetD m.fab.regions n Region.none

/-- Attributes an extent carries from its region (R170). -/
def Mod.extReg (m : Mod) (e : Extent) : Region := m.region e.region

/-- The domain of a line, 0 outside every extent. -/
def Mod.domainAt (m : Mod) (l : Nat) : Nat :=
  match m.extAt (l * 64) with
  | some e => (m.extReg e.2).domain
  | none => 0

/-- The grant of a context for an extent (R173): at most one. -/
def Mod.grant (m : Mod) (ctx ext : Nat) : Option Grant := m.fab.grants.find? fun g => g.ctx = ctx && g.ext = ext

/-- The context holds an ACTIVE grant at the extent's epoch (R174). -/
def Mod.granted (m : Mod) (ctx ext : Nat) : Bool :=
  match m.grant ctx ext, m.ext ext with
  | some g, some e => g.st = .active && g.epoch = e.epoch
  | _, _ => false

/-- A range lies wholly in extents that satisfy `f`, walking from extent to extent; `n` bounds the walk. -/
def Mod.inExtents (m : Mod) (f : Nat → Extent → Bool) : Nat → Nat → Nat → Bool
  | 0, _, len => len = 0
  | n + 1, a, len =>
    if len = 0 then true else
    match m.extAt a with
    | none => false
    | some (i, e) =>
      f i e && (let room := e.base + e.size - a
                if len ≤ room then true else m.inExtents f n (a + room) (len - room))

/-! ## Frames, runs, channels -/

/-- Frames of the pool (R245). -/
def poolFrames : Nat := 83886080

/-- Units of the data area (R302). -/
def allUnits : Nat := 88080384

/-- Channel of a unit (R326). -/
def chanOf (u : Nat) : Nat := u % 96

/-- Local unit on its channel (R326). -/
def localUnit (u : Nat) : Nat := u / 96

/-- Channel data line x = 64v + n (R326). -/
def chanLine (v n : Nat) : Nat := 64 * v + n

/-- Channel row and slot of a data line (R326). -/
def rowOf (x : Nat) : Nat := x / 28
def slotOf (x : Nat) : Nat := x % 28

/-- Offsets 0 to 95 from a start whose frame's channel is not skipped. -/
def Run.offs (r : Run) : List Nat := (upto 96).filter fun o => !r.skip.contains ((r.start + o) % 96)

/-- Frames a run holds. -/
def Run.count (r : Run) : Nat := r.len / 96 * r.offs.length + (r.offs.filter fun o => decide (o < r.len % 96)).length

/-- The i-th frame of a run. -/
def Run.nth (r : Run) (i : Nat) : Nat :=
  let k := r.offs.length
  r.start + 96 * (i / k) + r.offs.getD (i % k) 0

/-- Position of a frame in a run. -/
def Run.index (r : Run) (f : Nat) : Option Nat :=
  if r.start ≤ f && f < r.start + r.len && !r.skip.contains (f % 96) then
    let o := f - r.start
    some (o / 96 * r.offs.length + (r.offs.filter fun x => decide (x < o % 96)).length)
  else none

/-- Frames of a list of runs. -/
def runsCount (l : List Run) : Nat := l.foldl (fun a r => a + r.count) 0

/-- The i-th frame of a list of runs. -/
def runsNth : List Run → Nat → Option Nat
  | [], _ => none
  | r :: t, i => if i < r.count then some (r.nth i) else runsNth t (i - r.count)

/-- Position of a frame in a list of runs. -/
def runsIndex : List Run → Nat → Option Nat
  | [], _ => none
  | r :: t, f => match r.index f with
    | some i => some i
    | none => (runsIndex t f).map fun i => r.count + i

/-! ## Stripes (R87 to R89) -/

/-- Stripe and position of data unit u of member i, for n members and k data units (R88). -/
def stripeOf (n k i u : Nat) : Nat × Nat := (u / k * n + (i + n * k - u % k) % n, u % k)

/-- Member and data unit at position j of stripe s. -/
def dataUnit (n k s j : Nat) : Nat × Nat := ((s % n + j) % n, s / n * k + j)

/-- Member and parity unit of parity index p of stripe s. -/
def parityUnit (n k mm s p : Nat) : Nat × Nat := ((s % n + k + p) % n, s / n * mm + p)

/-- Data lines of a unit. -/
def linesPerUnit : Nat := 64

/-- Home slice that owns parity line x (R93). -/
def paritySlice (x : Nat) : Nat := x / 4 % 64

/-- Parity engine of a home slice (R93). -/
def engineOf (slice : Nat) : Nat := slice / 4

/-! ## GF(2^8) with polynomial 0x11D (R90) -/

/-- Multiply by x. -/
def gfX (poly a : Nat) : Nat := if 128 ≤ a then (2 * a - 256) ^^^ poly else 2 * a

/-- Product of two bytes modulo a polynomial given by its low 8 bits: `n` bits of `b` from the lowest. -/
def gfMulN (poly : Nat) : Nat → Nat → Nat → Nat
  | 0, _, _ => 0
  | n + 1, a, b => (if b % 2 = 1 then a else 0) ^^^ gfMulN poly n (gfX poly a) (b / 2)

/-- Product in the field of R90. -/
def gfMul (a b : Nat) : Nat := gfMulN 0x1D 8 a b

/-- Inverse in the field of R90, 0 for 0. -/
def gfInv (a : Nat) : Nat := ((upto 256).find? fun b => gfMul a b = 1).getD 0

/-- The coefficient g(p, j) of R90. -/
def coef (p j : Nat) : Nat := gfMul (j + 4) (gfInv ((j + 4) ^^^ p))

/-- Byte-wise product of a line with a coefficient. -/
def gfScale (c : Nat) (bs : List Byte) : List Byte := bs.map fun b => BitVec.ofNat 8 (gfMul c b.toNat)

/-- Byte-wise sum Σ c_i · line_i of lines with coefficients, `n` bytes. -/
def gfSum (n : Nat) (l : List (Nat × List Byte)) : List Byte :=
  l.foldl (fun a e => xorBytes a (gfScale e.1 e.2)) (zeros n)

end Sys2Proof.Machine
end

