-- ==== Sys2Proof/Machine/Codes.lean ====
section
/-!
DEFINITION. Machine/Codes.lean: the codes of the spec as functions: CRC-32C (R272) and CRC-64/XZ (R130), the Reed-Solomon
codes of frames (R130) and of lines (R327), and the erasure code of R90 with its inverse.
-/
namespace Sys2Proof.Machine

/-! ## CRC -/

/-- `n` steps of a reflected CRC register. -/
def crcStep (poly : Nat) : Nat → Nat → Nat
  | 0, r => r
  | n + 1, r => crcStep poly n (if r % 2 = 1 then (r / 2) ^^^ poly else r / 2)

/-- A reflected CRC over bytes: the register starts and ends complemented; `seed` is the CRC of the bytes before. -/
def crcOf (poly ones seed : Nat) (bs : List Byte) : Nat :=
  (bs.foldl (fun r b => crcStep poly 8 (r ^^^ b.toNat)) (seed ^^^ ones)) ^^^ ones

/-- CRC-32C: polynomial 0x1EDC_6F41, reflected (R272). -/
def crc32c (seed : Nat) (bs : List Byte) : Nat := crcOf 0x82F63B78 0xFFFFFFFF seed bs

/-- CRC-64/XZ: polynomial 0x42F0_E1EB_A9EA_3693, reflected (R130). -/
def crc64 (seed : Nat) (bs : List Byte) : Nat := crcOf 0xC96C5795D7870F42 0xFFFFFFFFFFFFFFFF seed bs

/-! ## Reed-Solomon codes -/

/-- Powers of α = 2. -/
def gfPow : Nat → Nat
  | 0 => 1
  | n + 1 => gfX 0x1D (gfPow n)

/-- Product of the factors (x - α^i) for i in [lo, lo + n), highest power first. -/
def rsGen (lo : Nat) : Nat → List Nat
  | 0 => [1]
  | n + 1 =>
    let g := rsGen lo n
    let r := gfPow (lo + n)
    -- multiply by (x + r)
    List.zipWith (· ^^^ ·) (g ++ [0]) (0 :: g.map (gfMul r))

/-- Remainder of the information polynomial times x^n divided by the generator: `n` check bytes, highest power first. -/
def rsCheck (lo n : Nat) (info : List Nat) : List Nat :=
  let g := (rsGen lo n).drop 1
  info.foldl (fun rem b =>
    let f := b ^^^ rem.headD 0
    List.zipWith (· ^^^ ·) (rem.drop 1 ++ [0]) (g.map (gfMul f))) (List.replicate n 0)

/-- Value of a codeword (highest power first) at α^i: syndrome i. -/
def rsSyndrome (i : Nat) (w : List Nat) : Nat := w.foldl (fun a b => gfMul a (gfPow i) ^^^ b) 0

/-- Divide in the field. -/
def gfDiv (a b : Nat) : Nat := gfMul a (gfInv b)

/-- Correct up to one byte of an interleave of a frame (R130): roots 1 and 2. Answers the word and whether a byte was
corrected; a word it cannot correct is left as it is. -/
def fecCorrect (w : List Nat) : List Nat × Bool :=
  let s0 := rsSyndrome 0 w
  let s1 := rsSyndrome 1 w
  if s0 = 0 && s1 = 0 then (w, false) else
  if s0 = 0 then (w, false) else
  match (upto w.length).find? fun k => gfMul s0 (gfPow k) = s1 with
  | some k => let i := w.length - 1 - k
              (w.set i (w.getD i 0 ^^^ s0), true)
  | none => (w, false)

/-- What the code of a line finds (R327). -/
inductive EccRes where
  | clean
  | fixed (w : List Nat) (count : Nat)
  | bad
  deriving DecidableEq, Repr

/-- Pairs i < j below n. -/
def pairsBelow (n : Nat) : List (Nat × Nat) := (upto n).flatMap fun j => (upto j).map fun i => (i, j)

/-- Decode a line's 72-byte codeword, highest power first (R327): up to 2 erroneous bytes are corrected. -/
def eccDecode (w : List Nat) : EccRes :=
  let s := (upto 4).map fun i => rsSyndrome i w
  let s0 := s.getD 0 0; let s1 := s.getD 1 0; let s2 := s.getD 2 0; let s3 := s.getD 3 0
  if s.all (· = 0) then .clean else
  -- one byte e at power k: S_i = e α^(ik)
  match (upto w.length).find? fun k => s0 != 0 && gfMul s0 (gfPow k) = s1 && gfMul s1 (gfPow k) = s2 && gfMul s2 (gfPow k) = s3 with
  | some k => let i := w.length - 1 - k
              .fixed (w.set i (w.getD i 0 ^^^ s0)) 1
  | none =>
    -- two bytes e, f at powers j, k: from S0 = e + f and S1 = e α^j + f α^k
    let sol := (pairsBelow w.length).findSome? fun jk =>
      let a := gfPow jk.1
      let b := gfPow jk.2
      let f := gfDiv (s1 ^^^ gfMul s0 a) (a ^^^ b)
      let e := s0 ^^^ f
      if e != 0 && f != 0 && gfMul e (gfMul a a) ^^^ gfMul f (gfMul b b) = s2 &&
         gfMul e (gfMul a (gfMul a a)) ^^^ gfMul f (gfMul b (gfMul b b)) = s3
      then some (jk.1, e, jk.2, f) else none
    match sol with
    | some (j, e, k, f) =>
      let x := w.length - 1 - j
      let y := w.length - 1 - k
      .fixed ((w.set x (w.getD x 0 ^^^ e)).set y (w.getD y 0 ^^^ f)) 2
    | none => .bad

/-- The codeword of a line: data, tag word, check bytes (R327). -/
def eccEncode (info : List Byte) : List Byte :=
  info ++ (rsCheck 0 4 (info.map BitVec.toNat)).map (BitVec.ofNat 8)

/-! ## The erasure code (R90, R348) -/

/-- Row of the generator for a position: data positions give unit rows, parity ones the coefficients g(p, j). -/
def codeRow (k pos : Nat) : List Nat :=
  if pos < k then (upto k).map fun j => b2n (j = pos) else (upto k).map fun j => coef (pos - k) j

/-- Add a multiple of a row to another. -/
def rowAdd (c : Nat) (a b : List Nat) : List Nat := List.zipWith (fun x y => x ^^^ gfMul c y) a b

/-- Gauss-Jordan elimination of the column at step i of an augmented matrix. -/
def elimStep (rows : List (List Nat)) (i : Nat) : List (List Nat) :=
  match (upto rows.length).find? fun r => decide (i ≤ r) && (rows.getD r []).getD i 0 != 0 with
  | none => rows
  | some r =>
    let rows := (rows.set r (rows.getD i [])).set i (rows.getD r [])
    let p := rows.getD i []
    let p := p.map (gfMul (gfInv (p.getD i 0)))
    (upto rows.length).map fun q => if q = i then p else rowAdd ((rows.getD q []).getD i 0) (rows.getD q []) p

/-- Inverse of a square matrix over the field. -/
def gfInverse (a : List (List Nat)) : List (List Nat) :=
  let n := a.length
  let aug := (upto n).map fun i => a.getD i [] ++ (upto n).map fun j => b2n (i = j)
  ((upto n).foldl elimStep aug).map fun r => r.drop n

/-- Coefficients that give the unit at position `want` from the units at `k` positions (R90, R348). -/
def recoverCoefs (k : Nat) (pos : List Nat) (want : Nat) : List Nat :=
  let inv := gfInverse (pos.map (codeRow k))
  let row := codeRow k want
  -- row × inv
  (upto k).map fun c => (upto k).foldl (fun a i => a ^^^ gfMul (row.getD i 0) ((inv.getD i []).getD c 0)) 0

/-- The line at position `want` from `k` lines at other positions. -/
def recoverLine (k : Nat) (have_ : List (Nat × List Byte)) (want n : Nat) : List Byte :=
  let l := have_.take k
  gfSum n (List.zip (recoverCoefs k (l.map fun e => e.1) want) (l.map fun e => e.2))

end Sys2Proof.Machine
end

