-- ==== Sys2Proof/Machine/Codec.lean ====
section
/-!
DEFINITION. Machine/Codec.lean: the lexicon codec (R271 to R276): the decoder whole, and building a block from a
compressor's candidate, which the decoder must accept. The compressor's choice of tokens is open (R274), so the candidate
is a free value (log entry 20).
-/
namespace Sys2Proof.Machine

/-- Outcome codes (R276). -/
def dcOk : Nat := 0x00
def dcOverrun : Nat := 0x01
def dcShort : Nat := 0x02
def dcTruncated : Nat := 0x03
def dcDistance : Nat := 0x04
def dcToken : Nat := 0x05
def dcHeader : Nat := 0x06
def dcCrc : Nat := 0x07
def dcUnavailable : Nat := 0x08
def dcLost : Nat := 0x09
def dcNoSlot : Nat := 0x0A

/-- Copy up to `n` bytes from distance `d`, one at a time, while fewer than `lim` are written; `rev` is output and history,
latest byte first. Answers the output, the count written, and whether the limit was met first. -/
def copyBytes (d lim : Nat) : Nat → List Byte → Nat → List Byte × Nat × Bool
  | 0, rev, w => (rev, w, false)
  | n + 1, rev, w => if lim ≤ w then (rev, w, true) else copyBytes d lim n (rev.getD (d - 1) 0#8 :: rev) (w + 1)

/-- Put literal bytes while fewer than `lim` are written. -/
def putBytes (lim : Nat) : List Byte → List Byte → Nat → List Byte × Nat × Bool
  | [], rev, w => (rev, w, false)
  | b :: t, rev, w => if lim ≤ w then (rev, w, true) else putBytes lim t (b :: rev) (w + 1)

/-- A match of length l at distance d (R274): before the first byte of the history it is DECOMP_DISTANCE, beyond the limit
DECOMP_OVERRUN. -/
def matchStep (lim l d : Nat) (rev : List Byte) (w : Nat) : Except (Nat × List Byte × Nat) (List Byte × Nat) :=
  if rev.length < d then .error (dcDistance, rev, w)
  else
    let r := copyBytes d lim l rev w
    if r.2.2 then .error (dcOverrun, r.1, r.2.1) else .ok (r.1, r.2.1)

/-- Decode tokens until END (R273): `orig` is ORIG_LEN, `lim` the limit of output. Answers the code, the output with the
history before it, latest first, and the bytes written. -/
def tokens (orig lim : Nat) : Nat → List Byte → List Byte → Nat → Nat × List Byte × Nat
  | 0, _, rev, w => (dcTruncated, rev, w)
  | fuel + 1, inp, rev, w =>
    match inp with
    | [] => (dcTruncated, rev, w)
    | b :: t =>
      let v := b.toNat
      if v = 0xFF then (if w < orig then (dcShort, rev, w) else (dcOk, rev, w))
      else if 0xE0 ≤ v then (dcToken, rev, w)
      else if v < 0x80 then
        let n := v + 1
        if t.length < n then
          let r := putBytes lim t rev w
          if r.2.2 then (dcOverrun, r.1, r.2.1) else (dcTruncated, r.1, r.2.1)
        else
          let r := putBytes lim (t.take n) rev w
          if r.2.2 then (dcOverrun, r.1, r.2.1) else tokens orig lim fuel (t.drop n) r.1 r.2.1
      else if v < 0xC0 then
        match t with
        | [] => (dcTruncated, rev, w)
        | c :: u =>
          match matchStep lim (v / 4 % 16 + 3) (v % 4 * 256 + c.toNat + 1) rev w with
          | .error e => e
          | .ok r => tokens orig lim fuel u r.1 r.2
      else
        match t with
        | c :: d :: u =>
          let dist := c.toNat + 256 * d.toNat + 1
          if v = 0xDF then
            match u with
            | [] => (dcTruncated, rev, w)
            | e :: x =>
              match matchStep lim (34 + e.toNat) dist rev w with
              | .error e => e
              | .ok r => tokens orig lim fuel x r.1 r.2
          else
            match matchStep lim (v % 32 + 3) dist rev w with
            | .error e => e
            | .ok r => tokens orig lim fuel u r.1 r.2
        | _ => (dcTruncated, rev, w)

/-- What a decoder is told of a block: its mode and whether the container allows RESET (R272, R285), the history before it,
and a further limit on output (DST_CAP, R349). -/
structure DecodeArgs where
  stream : Bool
  resetOk : Bool
  hist : List Byte
  seed : List Byte
  cap : Nat

/-- Output limit of a mode (R272). -/
def modeLimit (stream : Bool) : Nat := if stream then 65536 else 4096

/-- The history a block starts from: the seed alone after RESET (R271, R284), at most 65,536 bytes. -/
def startHist (a : DecodeArgs) (reset : Bool) : List Byte :=
  let h := if reset then a.seed else a.hist
  h.drop (h.length - 65536)

/-- Decode a block of which `inp` is all the input limit allows (R275, R276): the outcome code and the bytes written. -/
def decodeBlock (a : DecodeArgs) (inp : List Byte) : Nat × List Byte :=
  let w0 := leAt inp 0 4
  let orig := w0 % 2 ^ 17
  let stream := bit w0 17
  let stored := bit w0 18
  let reset := bit w0 19
  if decide (inp.length < 8) || decide (orig = 0) || decide (modeLimit stream < orig) || decide (2 ^ 20 ≤ w0) || stream != a.stream ||
     (reset && (!stream || !a.resetOk)) then (dcHeader, [])
  else
    let lim := min (min orig (modeLimit stream)) a.cap
    let body := inp.drop 8
    let r : Nat × List Byte :=
      if stored then
        if body.length < orig || lim < orig then (dcOverrun, body.take lim) else (dcOk, body.take orig)
      else
        let h := startHist a reset
        let t := tokens orig lim (body.length + 1) body h.reverse 0
        (t.1, (t.2.1.take t.2.2).reverse)
    if r.1 != dcOk then r
    else if crc32c 0 r.2 = leAt inp 4 4 then r else (dcCrc, r.2)

/-- Header of a block (R271). -/
def blockHeader (orig : Nat) (stream stored reset : Bool) (data : List Byte) : List Byte :=
  leBytes 4 (orig + b2n stream * 2 ^ 17 + b2n stored * 2 ^ 18 + b2n reset * 2 ^ 19) ++ leBytes 4 (crc32c 0 data)

/-- The block the compressor emits (R272, R274): the free candidate's token body where it is no longer than the original
and decodes to it, else a STORED block. Answers the block and whether it is STORED. -/
def compressBlock (hist : List Byte) (stream reset : Bool) (data : List Byte) : List Byte × Bool :=
  let body := Config.packed hist data
  let blk := blockHeader data.length stream false reset data ++ body
  let a : DecodeArgs := { stream := stream, resetOk := true, hist := hist, seed := hist, cap := 65536 }
  if decide (body.length ≤ data.length) && decide (decodeBlock a blk = (dcOk, data)) then (blk, false)
  else (blockHeader data.length stream true reset data ++ data, true)

/-- A history of the last 64 KiB (R152, R274). -/
def histAdd (h data : List Byte) : List Byte := let l := h ++ data
  l.drop (l.length - 65536)

end Sys2Proof.Machine
end

