-- ==== Sys2Proof/Machine/Crypto.lean ====
section
/-!
DEFINITION. Machine/Crypto.lean: AES-256 and its modes as the spec uses them: XTS for lines and packed blocks (R297), the
line MAC (R300), GCM for Berfel runs (R150). Blocks are lists of 16 bytes as numbers.
-/
namespace Sys2Proof.Machine

/-! ## AES-256 -/

/-- Product in AES's field, polynomial 0x11B. -/
def aesMul (a b : Nat) : Nat := gfMulN 0x1B 8 a b

/-- Rotate a byte left. -/
def rotl8 (a n : Nat) : Nat := (a * 2 ^ n) % 256 ||| a / 2 ^ (8 - n)

/-- a^254 in AES's field: the inverse, 0 for 0. -/
def aesInv (a : Nat) : Nat :=
  let a2 := aesMul a a; let a4 := aesMul a2 a2; let a8 := aesMul a4 a4; let a16 := aesMul a8 a8
  let a32 := aesMul a16 a16; let a64 := aesMul a32 a32; let a128 := aesMul a64 a64
  aesMul a128 (aesMul a64 (aesMul a32 (aesMul a16 (aesMul a8 (aesMul a4 a2)))))

/-- AES's S-box. -/
def sbox (a : Nat) : Nat :=
  let b := aesInv a
  b ^^^ rotl8 b 1 ^^^ rotl8 b 2 ^^^ rotl8 b 3 ^^^ rotl8 b 4 ^^^ 0x63

/-- AES's inverse S-box. -/
def sboxInv (a : Nat) : Nat := aesInv (rotl8 a 1 ^^^ rotl8 a 3 ^^^ rotl8 a 6 ^^^ 0x05)

/-- Byte-wise exclusive or of blocks. -/
def xorN (a b : List Nat) : List Nat := List.zipWith (· ^^^ ·) a b

/-- Next words of the key schedule: `n` more, from the words so far (most recent first) and the index of the next. -/
def keyWords : Nat → Nat → List (List Nat) → List (List Nat)
  | 0, _, ws => ws
  | n + 1, i, ws =>
    let prev := ws.headD []
    let t := if i % 8 = 0 then
        let r := (prev.drop 1 ++ prev.take 1).map sbox
        r.set 0 (r.headD 0 ^^^ 2 ^ (i / 8 - 1))
      else if i % 8 = 4 then prev.map sbox else prev
    keyWords n (i + 1) (xorN (ws.getD 7 []) t :: ws)

/-- The 15 round keys of a 32-byte key. -/
def roundKeys (key : List Nat) : List (List Nat) :=
  let w0 := (upto 8).map fun i => (key.drop (4 * i)).take 4
  let ws := (keyWords 52 8 w0.reverse).reverse
  (upto 15).map fun r => ((ws.drop (4 * r)).take 4).foldl (· ++ ·) []

/-- Rows shift left (true) or right; byte 4c + r is row r, column c. -/
def shiftRows (left : Bool) (s : List Nat) : List Nat :=
  (upto 16).map fun i => let r := i % 4
                         let c := i / 4
                         s.getD (4 * ((if left then c + r else c + 4 - r) % 4) + r) 0

/-- Multiply each column by the circulant of four coefficients. -/
def mixCols (k : List Nat) (s : List Nat) : List Nat :=
  (upto 16).map fun i => let r := i % 4
                         let c := i / 4
                         (upto 4).foldl (fun a j => a ^^^ aesMul (k.getD ((j + 4 - r) % 4) 0) (s.getD (4 * c + j) 0)) 0

/-- AES-256 of a block. -/
def aesEnc (key block : List Nat) : List Nat :=
  let rk := roundKeys key
  let s := xorN block (rk.headD [])
  let s := (List.range' 1 13).foldl (fun s r =>
    xorN (mixCols [2, 3, 1, 1] (shiftRows true (s.map sbox))) (rk.getD r [])) s
  xorN (shiftRows true (s.map sbox)) (rk.getD 14 [])

/-- Inverse of AES-256. -/
def aesDec (key block : List Nat) : List Nat :=
  let rk := roundKeys key
  let s := (shiftRows false (xorN block (rk.getD 14 []))).map sboxInv
  let s := (List.range' 1 13).foldl (fun s i =>
    ((shiftRows false (mixCols [14, 11, 13, 9] (xorN s (rk.getD (14 - i) [])))).map sboxInv)) s
  xorN s (rk.headD [])

/-! ## XTS (R297) -/

/-- Bytes as numbers. -/
def toNats (l : List Byte) : List Nat := l.map BitVec.toNat

/-- Numbers as bytes. -/
def toBytes (l : List Nat) : List Byte := l.map (BitVec.ofNat 8)

/-- Little-endian number of a list of byte values. -/
def natOfLe (l : List Nat) : Nat := l.foldr (fun b a => b + 256 * a) 0

/-- Little-endian byte values of a number. -/
def leOfNat (n v : Nat) : List Nat := toNats (leBytes n v)

/-- Multiply a 128-bit XTS tweak by the field's generator. -/
def xtsNext (t : Nat) : Nat := let d := 2 * t
                               if 2 ^ 128 ≤ d then (d - 2 ^ 128) ^^^ 0x87 else d

/-- Blocks of a data unit under XTS, `n` of them; `f` is AES-256 or its inverse. -/
def xtsBlocks (f : List Nat → List Nat) : Nat → Nat → List Nat → List Nat
  | 0, _, _ => []
  | n + 1, t, l =>
    let tw := leOfNat 16 t
    xorN tw (f (xorN tw (l.take 16))) ++ xtsBlocks f n (xtsNext t) (l.drop 16)

/-- AES-256-XTS of a data unit with tweak value i, under K1 and K2 (bytes 0 to 31 and 32 to 63 of key material). -/
def xts (dec : Bool) (key : List Byte) (i : Nat) (data : List Byte) : List Byte :=
  let k1 := toNats (key.take 32)
  let k2 := toNats ((key.drop 32).take 32)
  let t := natOfLe (aesEnc k2 (leOfNat 16 i))
  toBytes (xtsBlocks (if dec then aesDec k1 else aesEnc k1) (data.length / 16) t (toNats data))

/-! ## The line MAC (R300) -/

/-- Multiply by x in GF(2^64) with x^64 + x^4 + x^3 + x + 1. -/
def gf64X (a : Nat) : Nat := let d := 2 * a
                             if 2 ^ 64 ≤ d then (d - 2 ^ 64) ^^^ 0x1B else d

/-- Product in GF(2^64): `n` bits of `b` from the lowest. -/
def gf64MulN : Nat → Nat → Nat → Nat
  | 0, _, _ => 0
  | n + 1, a, b => (if b % 2 = 1 then a else 0) ^^^ gf64MulN n (gf64X a) (b / 2)

/-- Product in GF(2^64). -/
def gf64Mul (a b : Nat) : Nat := gf64MulN 64 a b

/-- The hash of the ciphertext words: c1·H^8 ⊕ … ⊕ c8·H. -/
def macHash (h : Nat) (cs : List Nat) : Nat := cs.foldl (fun a c => gf64Mul (a ^^^ c) h) 0

/-- Words 0 and 1 of the MAC input (R300, steps 3 and 4). -/
def macWords (ln st bootTag major minor h : Nat) : Nat × Nat :=
  ((ln ||| (st <<< 36) ||| (bootTag <<< 40)) ^^^ h, major ||| (minor <<< 56) ||| (1 <<< 63))

/-- The MAC of a line (R300): KMAC is bytes 64 to 95 of the key material. -/
def lineMac (key : List Byte) (ln st bootTag major minor : Nat) (cipher : List Byte) : Nat :=
  let kmac := toNats (key.drop 64)
  let h := natOfLe ((aesEnc kmac (List.replicate 16 0)).take 8)
  let cs := (upto 8).map fun i => natOfLe (toNats (slice cipher (8 * i) 8))
  let w := macWords ln st bootTag major minor (macHash h cs)
  natOfLe ((aesEnc kmac (leOfNat 8 w.1 ++ leOfNat 8 w.2)).take 4) % 2 ^ 28

/-! ## GCM (R150) -/

/-- Product in GCM's field: blocks as numbers, most significant bit first; `n` bits of `x` from the top. -/
def ghashMulN : Nat → Nat → Nat → Nat → Nat
  | 0, _, _, z => z
  | n + 1, x, v, z =>
    let z := if x.testBit n then z ^^^ v else z
    ghashMulN n x (if v % 2 = 1 then (v / 2) ^^^ (0xE1 * 2 ^ 120) else v / 2) z

/-- Big-endian number of byte values. -/
def natOfBe (l : List Nat) : Nat := l.foldl (fun a b => 256 * a + b) 0

/-- Big-endian byte values of a number. -/
def beOfNat (n v : Nat) : List Nat := (leOfNat n v).reverse

/-- GHASH over a text, in blocks of 16 bytes padded with zeros; `n` bounds the blocks. -/
def ghash (h : Nat) : Nat → Nat → List Nat → Nat
  | 0, y, _ => y
  | n + 1, y, l =>
    if l = [] then y else
    let b := l.take 16 ++ List.replicate (16 - (l.take 16).length) 0
    ghash h n (ghashMulN 128 (y ^^^ natOfBe b) h 0) (l.drop 16)

/-- Counter-mode key stream: `n` blocks from counter block number `c`. -/
def ctrStream (key iv : List Nat) : Nat → Nat → List Nat
  | 0, _ => []
  | n + 1, c => aesEnc key (iv ++ beOfNat 4 (c % 2 ^ 32)) ++ ctrStream key iv n (c + 1)

/-- The text under counter mode with a 96-bit IV, from counter 2. -/
def gcmText (key : List Byte) (iv : List Nat) (text : List Byte) : List Byte :=
  toBytes (xorN (toNats text) (ctrStream (toNats key) iv ((text.length + 15) / 16) 2))

/-- The 16-byte tag over additional data and ciphertext. -/
def gcmTag (key : List Byte) (iv : List Nat) (aad cipher : List Byte) : List Byte :=
  let k := toNats key
  let h := natOfBe (aesEnc k (List.replicate 16 0))
  let y := ghash h (aad.length / 16 + 1) 0 (toNats aad)
  let y := ghash h (cipher.length / 16 + 1) y (toNats cipher)
  let y := ghash h 1 y (beOfNat 8 (8 * aad.length) ++ beOfNat 8 (8 * cipher.length))
  toBytes (xorN (beOfNat 16 y) (aesEnc k (iv ++ [0, 0, 0, 1])))

end Sys2Proof.Machine
end

