-- ==== Sys2Proof/Machine/Floors.lean ====
section
/-!
DEFINITION. Machine/Floors.lean: masters and admission (chapter 14): the floor table's fields, shares and levels of R373 to
R375, what a master is charged (R372), and the arbiter rule (R364).
-/
namespace Sys2Proof.Machine

/-- BAR0 offset of a master's floor-table entry (R379). -/
def floorAt (n : Nat) : Nat := 0x400000 + 64 * n

/-- Master numbers of the internal parties (R371). -/
def masterParity : Nat := 4096
def masterMover : Nat := 4097
def masterScrub : Nat := 4098
def masterRebuild : Nat := 4099
def masterFront (e : Nat) : Nat := 4100 + e
def masterCore : Nat := 4116

/-- The master exists: a context or an internal party (R371, R380). -/
def masterOk (n : Nat) : Bool := decide (n ≤ 4116)

/-- Default FLOOR in 64 B units (R377). -/
def floorDefault (n : Nat) : Nat :=
  if n < 4096 then 0 else if n = 4096 then 49152 else if n = 4097 then 16384 else if n = 4098 then 1024
  else if n = 4099 then 32768 else if n ≤ 4115 then 1024 else if n = 4116 then 4096 else 0

/-- A field of a floor-table entry, with the defaults of R377 and R379. -/
def Mod.floorFld (m : Mod) (n : Nat) (f : Fld) : Nat :=
  let d := if f = FloorEF.floor || f = FloorEF.effFloor then floorDefault n
           else if f = FloorEF.gustMax then 4 * floorDefault n else f.rst
  mapGetD m.regs (fldKey (floorAt n) f) d

/-- A master with nothing recorded in this spell. -/
def Master.fresh : Master := { bytes := [], floorShare := [], gustShare := [], drawn := 0, reqs := 0, deficit := 0 }

def Mod.master (m : Mod) (n : Nat) : Master := mapGetD m.spl.masters n Master.fresh
def Mod.setMaster (m : Mod) (n : Nat) (x : Master) : Mod := { m with spl := { m.spl with masters := mapPut m.spl.masters n x } }

/-- A master's floor share at a slice in lines; split evenly where it had no bytes in the last spell (R375). -/
def Mod.floorShareOf (m : Mod) (n sl : Nat) : Nat :=
  let x := m.master n
  if x.floorShare = [] then (m.floorFld n FloorEF.effFloor + 63) / 64 else mapGetD x.floorShare sl 0

/-- A master's gust share at a slice in lines (R375). -/
def Mod.gustShareOf (m : Mod) (n sl : Nat) : Nat :=
  let x := m.master n
  if x.gustShare = [] then (m.floorFld n FloorEF.gustLevel + 63) / 64 else mapGetD x.gustShare sl 0

/-- Level at which a slice would let in a request of a master now (R373). -/
def Mod.levelAt (m : Mod) (n sl : Nat) : Nat :=
  let lines := mapGetD (m.master n).bytes sl 0 / 64
  let fs := m.floorShareOf n sl
  if lines < fs then 1
  else if lines < fs + m.gustShareOf n sl && 0 < m.floorFld n FloorEF.gustLevel then 2
  else 3

/-- A request of a master is admitted at a slice (R372 to R374): 64 B and one request; what level 2 admits is drawn from the
gust level. -/
def Mod.chargeMaster (m : Mod) (n sl : Nat) : Mod :=
  if !masterOk n then m else
  let lv := m.levelAt n sl
  let x := m.master n
  let m := m.setMaster n { x with bytes := mapPut x.bytes sl (mapGetD x.bytes sl 0 + 64), reqs := x.reqs + 1,
                                  drawn := x.drawn + (if lv = 2 then 64 else 0), deficit := x.deficit + (if lv = 3 then 1 else 0) }
  let b := floorAt n
  let m := m.setAt b FloorEF.bytesTotal (m.floorFld n FloorEF.bytesTotal + 64)
  let m := m.setAt b FloorEF.reqsTotal (m.floorFld n FloorEF.reqsTotal + 1)
  if lv = 2 then m.setAt b FloorEF.gustLevel (m.floorFld n FloorEF.gustLevel - 1) else m

/-- Lines read or written at a slice for an internal party (R371, R372; log entry 44). -/
def Mod.chargeLines (m : Mod) (n sl k : Nat) : Mod := (upto k).foldl (fun (a : Mod) _ => a.chargeMaster n sl) m

/-- The contender that wins a contested resource (R364): one owed by the largest number of the others; of several such
the arbiter's choice `pick`, which the rule leaves open. -/
def contestWinner (debts : List (Nat × Nat × Nat)) (res pick : Nat) (parties : List Nat) : Nat :=
  let score := fun p => (parties.filter fun q => q != p && debts.contains (res, p, q)).length
  let best := parties.foldl (fun a p => max a (score p)) 0
  let opts := parties.filter fun p => score p = best
  opts.getD (pick % (max 1 opts.length)) 0

/-- Debts after a contested grant (R364): every loser becomes owed by the winner, and what the loser owed is settled. -/
def contestDebts (debts : List (Nat × Nat × Nat)) (res w : Nat) (parties : List Nat) : List (Nat × Nat × Nat) :=
  (parties.filter fun q => q != w).foldl (fun d q =>
    let d := d.filter fun e => e != (res, w, q)
    if d.contains (res, q, w) then d else d ++ [(res, q, w)]) debts

end Sys2Proof.Machine
end

