-- ==== Sys2Proof/Machine/Deltas.lean ====
section
/-!
DEFINITION. Machine/Deltas.lean: the group as every write sees it: members that take part (R78), the geometry of a unit
(R88, R112), messages to members (R132, R135), forming and acknowledging deltas (R91 to R96, R98), tolerance (R80).
-/
namespace Sys2Proof

/-- Members of a map. -/
def GMap.n (g : GMap) : Nat := g.members.length

/-- State of a member, 0 where the map has none. -/
def GMap.stOf (g : GMap) (x : Nat) : Nat := ((g.members[x]?).map Member.st).getD 0

/-- Module ID of a member. -/
def GMap.idOf (g : GMap) (x : Nat) : Nat := ((g.members[x]?).map Member.id).getD 0

/-- The lost member a member stands in for. -/
def GMap.standsFor (g : GMap) (by_ : Nat) : Option Nat :=
  (List.range g.n).find? fun x => ((g.members[x]?).bind Member.standin) = some by_

end Sys2Proof

namespace Sys2Proof.Machine

/-- Member states (R78). -/
def mbActive : Nat := 1
def mbStale : Nat := 2
def mbLost : Nat := 3
def mbRebuilding : Nat := 4
def mbResync : Nat := 5

/-- Deltas go to the member (R78, R91). -/
def takesDeltas (st : Nat) : Bool := st = mbActive || st = mbRebuilding || st = mbResync

/-- Index of this module in its map (R116). -/
def Mod.own (m : Mod) : Nat :=
  match m.grp.map with
  | some g => ((upto g.n).find? fun x => g.idOf x = m.grp.ownId).getD 16
  | none => 16

/-- The group epoch carried in every message (R77). -/
def Mod.groupEpoch (m : Mod) : Nat := match m.grp.map with
  | some g => g.gen % 65536
  | none => 0

/-- MAP_GENERATION, 0 in no group (R115). -/
def Mod.mapGen (m : Mod) : Nat := match m.grp.map with
  | some g => g.gen
  | none => 0

/-- The lost member this module stands in for (R104). -/
def Mod.standsFor (m : Mod) : Option Nat := match m.grp.map with
  | some g => (upto g.n).find? fun x => ((g.members[x]?).bind Member.standin) = some m.own && x != m.own
  | none => none

/-- A geometry with the parity store that follows it: 0 the one in force, 1 the target of a re-stripe (R112). -/
structure Geo where
  n : Nat
  k : Nat
  m : Nat
  store : Nat
  deriving DecidableEq, Repr

/-- The geometry data unit `u` follows: below the boundary of a running re-stripe the target's (R112). -/
def Mod.geoOf (m : Mod) (g : GMap) (u : Nat) : Geo :=
  if g.restripe && decide (u < m.aux.restripeB) then { n := g.n, k := g.tk, m := g.tm, store := 1 }
  else { n := g.n, k := g.k, m := g.m, store := 0 }

/-- Where a line of a parity unit lies in the parity memory: each store is a range of its own. -/
def parityAddr (store unit line : Nat) : Nat := store * 2 ^ 44 + (unit * 64 + line) * 64

/-- The holders of the stripe of data unit `u` of member `i`: parity index, member, parity unit. -/
def holdersOf (q : Geo) (i u : Nat) : List (Nat × Nat × Nat) :=
  let s := (stripeOf q.n q.k i u).1
  (upto q.m).map fun p => (p, parityUnit q.n q.k q.m s p)

/-! ## Messages -/

/-- A bundle that has carried nothing. -/
def Bundle.empty : Bundle :=
  { queue := [], returned := [], tx := 0, rx := 0, reorder := [], reqs := [], tag := 1, ownInc := 0, peerInc := 0,
    histReset := true, txHist := [], rxHist := [], sent := [], bounced := [] }

/-- The bundle to a peer by its module ID. -/
def Mod.bundle (m : Mod) (id : Nat) : Bundle := 
  mapGetD m.bfl.bundles id { Bundle.empty with ownInc := m.bfl.inc0 }

/-- Set a bundle. -/
def Mod.setBundle (m : Mod) (id : Nat) (b : Bundle) : Mod :=
  { m with bfl := { m.bfl with bundles := mapPut m.bfl.bundles id b } }

/-- Change a bundle. -/
def Mod.updBundle (m : Mod) (id : Nat) (f : Bundle → Bundle) : Mod := m.setBundle id (f (m.bundle id))

/-- The map in force, or in no group the one that GRP_FORM has carried or a proposal brought (R110, R115). -/
def Mod.anyMap (m : Mod) : Option GMap := match m.grp.map, m.grp.form with
  | some g, _ => some g
  | none, some f => some f.2.1
  | none, none => match m.grp.accepted with
    | some g => some g
    | none => m.aux.heldPropose.map fun h => h.2.2

/-- Module ID of a member. -/
def Mod.idOf (m : Mod) (x : Nat) : Nat := match m.anyMap with
  | some g => g.idOf x
  | none => 0

/-- Member index of a module ID. -/
def Mod.indexOf (m : Mod) (id : Nat) : Option Nat := match m.anyMap with
  | some g => (upto g.n).find? fun x => g.idOf x = id
  | none => none

/-- A message of class REQ, RSP, CTL or BULK (R132). -/
def mkMsg (cls op param : Nat) (body : List Byte) : Msg :=
  { cls := cls, flags := 0, op := op, param := param, dseq := 0, line := 0, body := body }

/-- Frames of a port held on the die (R144): 1,024, less 4 for each of its buffer's regions that is fenced (R440). -/
def Mod.onDieFrames (m : Mod) (n : Nat) : Nat :=
  1024 - 4 * m.fencedIn 196608 256 n

/-- Bytes of a message. -/
def Msg.size (g : Msg) : Nat := 16 + g.body.length

/-- Bytes of the replay spill that belong to a peer (R144): messages that wait, the reorder store, and frames beyond those on the die. -/
def Mod.spillFor (m : Mod) (id : Nat) : Nat :=
  let b := m.bundle id
  let ps := m.bfl.ports.filter fun e => e.2.peer = some id
  (b.queue.foldl (fun a g => a + g.size) 0) + (b.returned.foldl (fun a e => a + e.2.length) 0) +
  (b.reorder.foldl (fun a e => a + e.2.length) 0) +
  ps.foldl (fun a e => a + 256 * (e.2.frames.length - m.onDieFrames e.1)) 0

/-- The replay-spill region of 1 GiB is full (R11, R144). -/
def Mod.spillFull (m : Mod) : Bool := decide (gib ≤ m.bfl.bundles.foldl (fun a e => a + m.spillFor e.1) 0)

/-- Queue a message for a peer. -/
def Mod.sendTo (m : Mod) (id : Nat) (g : Msg) : Mod := m.updBundle id fun b => { b with queue := b.queue ++ [g] }

/-- Queue a message for a member. -/
def Mod.sendMember (m : Mod) (x : Nat) (g : Msg) : Mod := m.sendTo (m.idOf x) g

/-- A request to a peer: it takes the bundle's next TAG and stays outstanding until it is answered (R148). -/
def Mod.requestTo (m : Mod) (id op : Nat) (body : List Byte) : Mod × Nat :=
  let b := m.bundle id
  let g := mkMsg 0 op b.tag body
  let tag := if b.tag + 1 < 65536 then b.tag + 1 else 1
  (m.setBundle id { b with queue := b.queue ++ [g], reqs := b.reqs ++ [{ tag := b.tag, msg := g }], tag := tag }, b.tag)

/-- A request to a member. -/
def Mod.request (m : Mod) (x op : Nat) (body : List Byte) : Mod × Nat := m.requestTo (m.idOf x) op body

/-- STATUS codes of responses (R135). -/
def rspCode : RspSt → Nat
  | .ok => 0 | .refused => 1 | .busy => 2 | .invalid => 3 | .notHolder => 4 | .unavailable => 5

/-- A response to a member's request (R132). -/
def Mod.respond (m : Mod) (x op tag : Nat) (st : RspSt) (body : List Byte) : Mod :=
  m.sendMember x (mkMsg 1 op (tag + rspCode st * 65536) body)

/-- The request a response answers, taken off the outstanding ones. -/
def Mod.answered (m : Mod) (x tag : Nat) : Mod × Option Msg :=
  let id := m.idOf x
  let b := m.bundle id
  match b.reqs.find? fun r => r.tag = tag with
  | some r => (m.setBundle id { b with reqs := b.reqs.filter fun q => q.tag != tag }, some r.msg)
  | none => (m, none)

/-! ## Pairs -/

/-- Delta state towards a holder, at its start (R97). -/
def PairOut.start : PairOut := { next := 0, unacked := [] }

/-- Delta state from a sender, at its start: A = 0xFFFF_FFFF (R97). -/
def PairIn.start : PairIn := { a := 0xFFFFFFFF, set_ := [], stages := [], sentA := 0xFFFFFFFF }

def Mod.pairOut (m : Mod) (x : Nat) : PairOut := mapGetD m.grp.outs x PairOut.start
def Mod.pairIn (m : Mod) (x : Nat) : PairIn := mapGetD m.grp.ins x PairIn.start
def Mod.setPairOut (m : Mod) (x : Nat) (p : PairOut) : Mod := { m with grp := { m.grp with outs := mapPut m.grp.outs x p } }
def Mod.setPairIn (m : Mod) (x : Nat) (p : PairIn) : Mod := { m with grp := { m.grp with ins := mapPut m.grp.ins x p } }

/-- LINE field of a delta: SOURCE_LINE with the STANDIN bit (R133). -/
def lineField (line : Nat) (standin : Bool) : Nat := line + b2n standin * 2 ^ 31

/-- The message of a delta (R133). -/
def deltaMsg (d : Delta) : Msg :=
  { cls := 2, flags := 0, op := d.kind, param := 0, dseq := d.seq, line := lineField d.line d.standin, body := d.data }

/-- Form a delta for a holder (R94): it takes the pair's next sequence and leaves at once while fewer than 65,536 are
unacknowledged. -/
def Mod.pushDelta (m : Mod) (x kind line : Nat) (standin : Bool) (data : List Byte) : Mod × Nat :=
  let p := m.pairOut x
  let go := decide (p.unacked.length < 65536)
  let d : Delta := { seq := p.next, kind := kind, line := line, standin := standin, data := data, sent := go }
  let m := m.setPairOut x { next := (p.next + 1) % 2 ^ 32, unacked := p.unacked ++ [d] }
  (if go then m.sendMember x (deltaMsg d) else m, d.seq)

/-- Fold bytes into a parity line (R93). -/
def Mod.foldParity (m : Mod) (store unit line : Nat) (data : List Byte) : Mod :=
  let a := parityAddr store unit line
  { m with grp := { m.grp with parity := Memory.putBytes m.grp.parity a (xorBytes (Memory.bytes m.grp.parity a 64) data) } }

/-- Store a stage under its key, replacing one already held (R98). -/
def stagePut (l : List Stage) (s : Stage) : List Stage := (l.filter fun q => q.key != s.key) ++ [s]

/-- A delta of this module that it is itself a holder for, as a stand-in may be: applied with no message (R108). -/
def Mod.applyOwn (m : Mod) (q : Geo) (i kind line : Nat) (standin : Bool) (data : List Byte) : Mod :=
  let u := line / 64
  match (holdersOf q i u).find? fun h => h.2.1 = m.own with
  | none => m
  | some (_, _, unit) =>
    let p := m.pairIn m.own
    let key := lineField line standin
    if kind = 1 then m.foldParity q.store unit (line % 64) data
    else if kind = 2 then m.setPairIn m.own { p with stages := stagePut p.stages { key := key, seq := 0, data := data } }
    else match p.stages.find? fun s => s.key = key with
      | some s => (m.foldParity q.store unit (line % 64) s.data).setPairIn m.own
          { p with stages := p.stages.filter fun q => q.key != key }
      | none => m

/-- Form the deltas of a change to a line of member `i`'s stripe space (R91, R98, R106, R108): one for each holder that
takes deltas, counted on the parity engine of the slice. Answers the acknowledgements that count under R57, those of
ACTIVE holders (R78). -/
def Mod.formDeltas (m : Mod) (slice i kind line : Nat) (standin : Bool) (delta : List Byte) : Mod × List (Nat × Nat) :=
  match m.grp.map with
  | none => (m, [])
  | some g =>
    let q := m.geoOf g (line / 64)
    let j := (stripeOf q.n q.k i (line / 64)).2
    (holdersOf q i (line / 64)).foldl (fun (a : Mod × List (Nat × Nat)) h =>
      let st := g.stOf h.2.1
      if !takesDeltas st then a else
      let data := if kind = 3 then [] else gfScale (coef h.1 j) delta
      let m := (a.1.add (pgPar (engineOf slice)) ParF.deltaOut 1).count (pgPar (engineOf slice)) 0x100 1
      if h.2.1 = m.own then (m.applyOwn q i kind line standin data, a.2)
      else
        let r := m.pushDelta h.2.1 kind line standin data
        (r.1, if st = mbActive then a.2 ++ [(h.2.1, r.2)] else a.2)) (m, [])

/-- A delta of sequence n counts as acknowledged by A (R96). -/
def ackedBy (a n : Nat) : Bool := decide ((a + 2 ^ 32 - n % 2 ^ 32) % 2 ^ 32 < 2 ^ 31)

/-- Acknowledgements owed by a member that A covers are settled. -/
def settleOwed (x a : Nat) (l : List (Nat × Nat)) : List (Nat × Nat) := l.filter fun e => !(e.1 = x && ackedBy a e.2)

/-- Acknowledgements owed by a member fall away when it is declared lost (R79). -/
def dropOwed (x : Nat) (l : List (Nat × Nat)) : List (Nat × Nat) := l.filter fun e => e.1 != x

/-- Durable writes and held full stops after `f` has settled what holders owe: a write with nothing owed is protected, and
leaves its window's count and its ledger entry (R57). -/
def Mod.settle (m : Mod) (f : List (Nat × Nat) → List (Nat × Nat)) : Mod :=
  { m with led := { m.led with
      dws := (m.led.dws.map fun d => { d with owed := f d.owed }).filter fun d => !d.owed.isEmpty,
      stops := m.led.stops.map fun s => { s with owed := f s.owed } } }

/-- APPLIED_THROUGH arrives from a holder (R96): the deltas it covers are acknowledged, waiting ones leave (R94), and
writes they protect are protected. -/
def Mod.ackDeltas (m : Mod) (x a : Nat) : Mod :=
  let p := m.pairOut x
  let rest := p.unacked.filter fun d => !(d.sent && ackedBy a d.seq)
  let live := (rest.filter fun d => d.sent).length
  let r := rest.foldl (fun (c : Mod × List Delta × Nat) d =>
    if d.sent then (c.1, c.2.1 ++ [d], c.2.2)
    else if c.2.2 < 65536 then (c.1.sendMember x (deltaMsg { d with sent := true }), c.2.1 ++ [{ d with sent := true }], c.2.2 + 1)
    else (c.1, c.2.1 ++ [d], c.2.2)) (m, [], live)
  (r.1.setPairOut x { p with unacked := r.2.1 }).settle (settleOwed x a)

/-! ## Tolerance -/

/-- Boundary of a rebuilding or resyncing member in blocks: this module's own, or another's as last answered (R80). -/
def Mod.boundOf (m : Mod) (x : Nat) : Nat :=
  if x = m.own then (m.grp.walk.map Walk.q).getD 0 else (mapGetD m.grp.bounds x (0, 0)).2

/-- A data unit of a member is unavailable (R80); boundaries count blocks of the geometry in force. -/
def Mod.dataGone (m : Mod) (g : GMap) (x u : Nat) : Bool :=
  let st := g.stOf x
  st = mbStale || st = mbLost || (st = mbRebuilding && decide (m.boundOf x ≤ u / g.k))

/-- A parity unit of a member is unavailable (R80). -/
def Mod.parityGone (m : Mod) (g : GMap) (q : Geo) (x unit : Nat) : Bool :=
  let st := g.stOf x
  st = mbStale || st = mbLost || ((st = mbRebuilding || st = mbResync) &&
    (if x = m.own && (m.grp.walk.map Walk.partly).getD false then m.aux.resyncUnits.contains unit else decide (m.boundOf x ≤ unit / q.m * q.k / g.k)))

/-- Units of a stripe that are available: positions 0 to k - 1 for data, k + p for parity. -/
def Mod.availUnits (m : Mod) (g : GMap) (q : Geo) (s : Nat) : List Nat :=
  ((upto q.k).filter fun j => let d := dataUnit q.n q.k s j; !m.dataGone g d.1 d.2) ++
  (((upto q.m).filter fun p => let d := parityUnit q.n q.k q.m s p; !m.parityGone g q d.1 d.2).map fun p => q.k + p)

/-- The stripe is short of parity holders that take part, or has a unit unavailable (R80, DEGRADED). -/
def Mod.stripeDegraded (m : Mod) (g : GMap) (q : Geo) (s : Nat) : Bool :=
  decide ((m.availUnits g q s).length < q.k + q.m) ||
  (upto q.m).any fun p => g.stOf (parityUnit q.n q.k q.m s p).1 != mbActive

/-- SOURCE_LINE of a line of a durable extent in its member's stripe space (R87, R92). -/
def Extent.sourceLine (e : Extent) (l : Nat) : Nat := e.stripe.getD 0 * 512 * 64 + (l - e.base / 64)

/-- The member whose stripe space an extent lies in: the lost one's for an adopted extent (R106). -/
def Mod.spaceOf (m : Mod) (e : Extent) : Nat := e.adopted.getD m.own

end Sys2Proof.Machine
end

