-- ==== Sys2Proof/Machine/Counters.lean ====
section
/-!
DEFINITION. Machine/Counters.lean: keys and write counters as every line sees them (chapter 11): key slots, which key a line
is under, starting a front, logical numbers, the counter tree's nodes, page rolls.
-/
namespace Sys2Proof.Machine

/-- A register counter and the event that counts the same (R450). -/
def Mod.tally (m : Mod) (p : PageId) (f : Fld) (e n : Nat) : Mod := (m.add p f n).count p e n

/-- A key slot; slot 0 is the internal domain (R292). -/
def Mod.slot (m : Mod) (d : Nat) : Option KeySlot := if d = 0 then some m.key.zero else mapGet m.key.slots d

/-- The slot is in state DOMAIN (R292). -/
def Mod.isDomain (m : Mod) (d : Nat) : Bool := match mapGet m.key.slots d with
  | some k => !k.target
  | none => false

/-- Integrity mode of a line's domain (R294): DPA outside every extent, and slot 0, take mode 2. -/
def Mod.modeOf (m : Mod) (d : Nat) : Nat := ((m.slot d).map KeySlot.mode).getD 2

/-- `n` fresh random bytes from the module's random source (R295): free values. -/
def Mod.randomBytes (m : Mod) : Nat → Mod × List Byte
  | 0 => (m, [])
  | n + 1 => let r := m.fresh
             let q := r.2.randomBytes n
             (q.1, BitVec.ofNat 8 r.1 :: q.2)

/-- The front of a domain, with its engine. -/
def Mod.frontOf (m : Mod) (d : Nat) : Option (Nat × Front) := m.key.fronts.find? fun e => e.2.domain = d

/-- Lines of a walk before line `l`; none where the walk does not hold it. A walk is a list of (first line, lines, tag). -/
def walkIndex : List (Nat × Nat × Nat) → Nat → Option Nat
  | [], _ => none
  | (a, n, _) :: t, l => if a ≤ l && l < a + n then some (l - a) else (walkIndex t l).map fun i => n + i

/-- The line at position i of a walk. -/
def walkLine : List (Nat × Nat × Nat) → Nat → Option Nat
  | [], _ => none
  | (a, n, _) :: t, i => if i < n then some (a + i) else walkLine t (i - n)

/-- Lines of a walk. -/
def walkTotal (w : List (Nat × Nat × Nat)) : Nat := w.foldl (fun a e => a + e.2.1) 0

/-- The front has passed the line: it is below F, or lies outside the fixed walk (R311, R315). -/
def Front.passedLine (f : Front) (l : Nat) : Bool := match walkIndex f.walk l with
  | some i => decide (i < f.passed)
  | none => true

/-- Key material and generation a line of domain `d` is under; `l` is its line number, or its LN for slot 0 (R310, R311). -/
def Mod.keyFor (m : Mod) (d l : Nat) : List Byte × Nat :=
  match m.slot d with
  | none => ([], 0)
  | some s => match m.frontOf d with
    | some (_, f) => if f.passedLine l then (f.key, 1 - s.g) else (s.key, s.g)
    | none => (s.key, s.g)

/-- Lines of the internal regions by code, the parity store apart (R296; chapter 01's table). -/
def regionLines : Nat → Nat
  | 1 => 41943040 | 2 => 67108864 | 3 => 16777216 | 4 => 33554432 | 5 => 8388608 | 6 => 11184810 | 7 => 89478486 | _ => 0

/-- The lowest FREE slot that no region names (R310). -/
def Mod.freeSlot (m : Mod) : Option Nat :=
  (List.range' 1 4095).find? fun d => (mapGet m.key.slots d).isNone && !(m.fab.regions.any fun r => r.2.domain = d)

/-- The lowest idle front engine. -/
def Mod.freeEngine (m : Mod) : Option Nat := (upto 16).find? fun e => (mapGet m.key.fronts e).isNone

/-- The fixed walk of a front (R311): the extents in regions naming the domain in ascending DPA; for slot 0 the internal
lines in ascending LN. -/
def Mod.frontWalk (m : Mod) (d : Nat) : List (Nat × Nat × Nat) :=
  if d = 0 then
    (match m.grp.map with
     | some g => [(0, (g.units + g.k - 1) / g.k * g.m * 64, 0)]
     | none => []) ++
    (List.range' 1 7).map fun c => (c * 2 ^ 32, regionLines c, c)
  else
    let l := (m.fab.extents.filter fun e => (m.extReg e.2).domain = d).map fun e => (e.2.base / 64, e.2.size / 64, e.1)
    l.foldl (fun a e => (a.filter fun x => decide (x.1 < e.1)) ++ [e] ++ (a.filter fun x => decide (e.1 < x.1))) []

/-- The registers of an engine show its front (R311, R318). -/
def Mod.frontShow (m : Mod) (eng : Nat) (f : Front) : Mod :=
  let p := pgFrn eng
  let g := ((m.slot f.domain).map KeySlot.g).getD 0
  let m := (((m.set p FrnF.domain f.domain).set p FrnF.target (f.target.getD 0)).set p FrnF.auto (b2n f.auto)).set p FrnF.internal
    (b2n (f.domain = 0))
  let m := ((m.set p FrnF.newG (1 - g)).set p FrnF.total f.total).set p FrnF.boundary ((walkLine f.walk f.passed).getD 0)
  m.progress p (if m.is p FrnF.pause then 2 else 1) (if f.total = 0 then 0 else f.passed * 10000 / f.total) f.passed

/-- A front starts (R310): the target slot takes the new key with the other generation, the engine its role; for slot 0
the internal spare key register stands for the target (R307). -/
def Mod.frontBegin (m : Mod) (d : Nat) (key : List Byte) (auto : Bool) (target : Option Nat) (eng : Nat) : Mod :=
  let g := ((m.slot d).map KeySlot.g).getD 0
  let w := m.frontWalk d
  let f : Front := { domain := d, target := target, key := key, walk := w, passed := 0, total := walkTotal w, auto := auto }
  let slots := match target with
    | some t => mapPut m.key.slots t { target := true, mode := m.modeOf d, g := 1 - g, key := key, lost := false }
    | none => m.key.slots
  let m := { m with key := { m.key with slots := slots, fronts := mapPut m.key.fronts eng f } }
  let m := (m.newRole (pgFrn eng) 1).frontShow eng f
  if auto then m.add pgKey KeyF.autoFronts 1 else m

/-- An automatic front starts once a slot and an engine are free (R307, R310); a front that already runs suffices
(R315). Answers whether it started or was not needed. -/
def Mod.autoFront (m : Mod) (d : Nat) : Mod × Bool :=
  if (m.frontOf d).isSome then (m, true) else
  match m.freeEngine, (if d = 0 then some 0 else m.freeSlot) with
  | some e, some t =>
    let r := m.randomBytes 96
    (r.1.frontBegin d r.2 true (if d = 0 then none else some t) e, true)
  | _, _ => (m, false)

/-- DETAIL of a KEY error: slot and node index or LN (R317). -/
def keyDetail (slot idx : Nat) : Nat := slot ||| (bits idx 0 36 <<< 12)

/-- Nodes before each level of the tree, from level 1 (R304). -/
def levelBase : Nat → Nat
  | 1 => 0 | 2 => 88080384 | 3 => 89456640 | 4 => 89478144 | 5 => 89478480 | _ => 89478486

/-- Level of a node index; 6 is the root. -/
def levelOf (x : Nat) : Nat :=
  if x < levelBase 2 then 1 else if x < levelBase 3 then 2 else if x < levelBase 4 then 3 else if x < levelBase 5 then 4
  else if x < levelBase 6 then 5 else 6

/-- Node index of the root in the model's store. -/
def rootNode : Nat := levelBase 6

/-- Parent of a node and its child number in it (R304). -/
def parentOf (x : Nat) : Nat × Nat :=
  let lv := levelOf x
  let i := x - levelBase lv
  if lv = 5 then (rootNode, i) else (levelBase (lv + 1) + i / 64, i % 64)

/-- MAJOR of a node. -/
def Mod.major (m : Mod) (x : Nat) : Nat := mapGetD m.key.majors x 0

/-- Minor n of a node. -/
def Mod.minor (m : Mod) (x n : Nat) : Nat := mapGetD m.key.minors (x * 64 + n) 0

/-- MAJOR_HIGH rises to a MAJOR issued (R303). -/
def Mod.raiseMajorHigh (m : Mod) (v : Nat) : Mod :=
  if m.glb.sec.majorHigh < v then { m with glb := { m.glb with sec := { m.glb.sec with majorHigh := v } } } else m

/-- A node gets MAJOR `v` and minors 0. -/
def Mod.resetNode (m : Mod) (x v : Nat) : Mod :=
  { m with key := { m.key with
      majors := if v = 0 then mapDel m.key.majors x else mapPut m.key.majors x v,
      minors := m.key.minors.filter fun e => decide (e.1 < x * 64) || decide (x * 64 + 64 ≤ e.1) } }

/-- A MAJOR passes 2^55 (R307): COUNTER_HIGH; a leaf starts a front on its domain, or waits for one with NO_FRONT_SLOT; an
interior node raises a Failure record. -/
def Mod.counterHigh (m : Mod) (x d : Nat) : Mod :=
  let m := m.raise pgKey 9 (keyDetail d x)
  if levelOf x != 1 then m.event .failure .counterHigh [x] else
  let r := m.autoFront d
  if r.2 then r.1
  else
    let m := (m.raise pgKey 10 (keyDetail d x)).event .warning .noFrontSlot [d]
    if m.key.deferred.contains d then m else { m with key := { m.key with deferred := m.key.deferred ++ [d] } }

/-! ## How a front passes (R311 to R313) -/

/-- DETAIL of a CIP or FRN error (R319, R321): slot and LN. -/
def cipDetail (slot ln : Nat) : Nat := slot ||| (bits ln 0 36 <<< 12)

/-- The line at F (R310): the first the front has not passed. -/
def Front.next (f : Front) : Option Nat := walkLine f.walk f.passed

/-- The segment of the walk that F lies in: first line, lines, tag. -/
def segAt : List (Nat × Nat × Nat) → Nat → Option (Nat × Nat × Nat)
  | [], _ => none
  | (a, n, t) :: r, i => if i < n then some (a, n, t) else segAt r (i - n)

/-- Lines of the walk from F to the end of its segment. -/
def segLeft : List (Nat × Nat × Nat) → Nat → Nat
  | [], _ => 0
  | (_, n, _) :: r, i => if i < n then n - i else segLeft r (i - n)

/-- A front ends (R313): every cipher engine drops the old key, the new key moves to the domain's own slot with the other
generation, the target slot is wiped and FREE, FRONT_DONE is set. -/
def Mod.frontDone (m : Mod) (eng : Nat) : Mod := match mapGet m.key.fronts eng with
  | none => m
  | some f =>
    let caches := m.key.caches.map fun c => (c.1, c.2.filter fun d => d != f.domain && some d != f.target)
    let upd := fun (k : KeySlot) => { k with key := f.key, g := 1 - k.g, lost := false }
    let slots := match f.target with
      | some t => mapDel m.key.slots t
      | none => m.key.slots
    let slots := if f.domain = 0 then slots else mapUpd slots f.domain upd
    let zero := if f.domain = 0 then upd m.key.zero else m.key.zero
    let m := { m with key := { m.key with caches := caches, slots := slots, zero := zero, fronts := mapDel m.key.fronts eng } }
    let p := pgFrn eng
    let m := (m.progress p 0 10000 f.total).raise p 8 (cipDetail f.domain ((walkLine f.walk (f.total - 1)).getD 0))
    (m.newRole p 0).set p FrnF.pause 0

/-- The front passes `n` lines (R311): F advances, and past the last line it ends. -/
def Mod.frontPass (m : Mod) (eng n : Nat) : Mod := match mapGet m.key.fronts eng with
  | none => m
  | some f =>
    let f := { f with passed := min f.total (f.passed + n) }
    let p := pgFrn eng
    let m := { m with key := { m.key with fronts := mapPut m.key.fronts eng f } }
    let m := (m.count p 0x100 n).set p FrnF.boundary (f.next.getD (m.get p FrnF.boundary))
    if f.total ≤ f.passed then m.frontDone eng
    else m.progress p 1 (f.passed * 10000 / f.total) f.passed

/-- An extent is released during a front on its domain (R315): its lines count as passed. They take their place before F, under a tag
no extent has. -/
def Mod.frontsDrop (m : Mod) (n : Nat) : Mod :=
  m.key.fronts.foldl (fun (a : Mod) e =>
    let f := e.2
    if f.domain = 0 then a else
    match f.walk.find? fun s => s.2.2 = n with
    | none => a
    | some s =>
      let left := s.2.1 - min s.2.1 (f.passed - (walkIndex f.walk s.1).getD 0)
      let f := { f with walk := (s.1, s.2.1, 65536) :: f.walk.filter fun x => x != s }
      Mod.frontPass { a with key := { a.key with fronts := mapPut a.key.fronts e.1 f } } e.1 left) m

end Sys2Proof.Machine
end

