-- ==== Sys2Proof/Machine/Traffic.lean ====
section
/-!
DEFINITION. Machine/Traffic.lean: lines on their way to and from a channel (R293, R303, R320, R333, R367): key caches, channel time, the
counter caches and the tree (R303 to R305), the loss of a node (R308).
-/
namespace Sys2Proof.Machine

/-! ## Channels and cipher engines -/

/-- A cipher engine uses a slot (R293): a miss unwraps it, and 64 are held. -/
def Mod.useKey (m : Mod) (c d : Nat) : Mod :=
  let l := mapGetD m.key.caches c []
  if l.contains d then { m with key := { m.key with caches := mapPut m.key.caches c ((l.filter fun x => x != d) ++ [d]) } }
  else
    let m := (m.add (pgCip c) CipF.keyMisses 1).count pgKey 0x101 1
    { m with key := { m.key with caches := mapPut m.key.caches c ((if 64 ≤ l.length then l.drop 1 else l) ++ [d]) } }

/-- A channel beside its registers. -/
def Chan.fresh : Chan :=
  { touched := [], settling := false, settleTotal := 0, thawing := false, retiring := none, ceTicks := [],
    lull := false, refreshHeld := 0, spellUse := [],
    useLast := [], budLast := [] }

def Mod.chan (m : Mod) (c : Nat) : Chan := mapGetD m.chn.chans c Chan.fresh
def Mod.setChan (m : Mod) (c : Nat) (x : Chan) : Mod := { m with chn := { m.chn with chans := mapPut m.chn.chans c x } }
def Mod.updChan (m : Mod) (c : Nat) (f : Chan → Chan) : Mod := m.setChan c (f (m.chan c))

/-- The channel is frozen. -/
def Mod.frozen (m : Mod) (c : Nat) : Bool := m.blockState (pgMch c) = stFrozen

/-- A line of a frozen channel is marked touched (R333). -/
def Mod.touch (m : Mod) (c x : Nat) : Mod :=
  m.updChan c fun k => if k.touched.contains x then k else { k with touched := k.touched ++ [x] }

/-- Add to the channel time an activity used in the spell (R367). -/
def Mod.charge (m : Mod) (c act n : Nat) : Mod :=
  (m.updChan c fun k => { k with spellUse := (upto 9).map fun i => k.spellUse.getD i 0 + (if i = act then n else 0) }).count
    (pgMch c) (0x100 + act) n

/-- Ticks that a line read or write is charged: three columns of 32 B at the rate in force, 2 ticks at least (R324, R367;
log entry 15). -/
def lineTicks : Nat := 2

/-- A line is read through a channel and its cipher engine for a domain (R301, R320). -/
def Mod.readTraffic (m : Mod) (c d act : Nat) : Mod :=
  let m := (m.tally (pgMch c) MchF.linesRead 0x110 1).tally (pgCip c) CipF.linesDec 0x101 1
  let m := if 1 ≤ m.modeOf d then m.add (pgCip c) CipF.macChecked 1 else m
  (m.useKey c d).charge c act lineTicks

/-- A line is written through a channel and its cipher engine for a domain. -/
def Mod.writeTraffic (m : Mod) (c d act : Nat) : Mod :=
  let m := (m.tally (pgMch c) MchF.linesWritten 0x111 1).tally (pgCip c) CipF.linesEnc 0x100 1
  (m.useKey c d).charge c act lineTicks

/-! ## Reserved regions -/

/-- Unit and line of a line of a reserved region: the regions lie in code order behind the pool (log entry 25), but for units moved to a
pool frame (R333, R335). -/
def Mod.regionUnit (m : Mod) (code index : Nat) : Nat × Nat :=
  let before := ((List.range' 1 7).filter fun c => decide (c < code)).foldl (fun a c => a + regionLines c) 0
  let x := before + index
  let u := poolFrames + x / 64
  (mapGetD m.chn.internalFrames u u, x % 64)

/-! ## The counter caches (R303 to R305) -/

/-- The slice that owns a node (R305). -/
def nodeSlice (x : Nat) : Nat := (x - levelBase (levelOf x)) % 64

/-- Nodes a slice's counter cache holds: 256 KiB of 64 B, but for its fenced regions (R305, R440). -/
def Mod.nodeCacheMax (m : Mod) (slice : Nat) : Nat := 4096 - 16 * m.fencedIn 163840 256 slice

def Mod.nodeCache (m : Mod) (x : Nat) : List (Nat × Bool) := mapGetD m.key.nodes (nodeSlice x) []

/-- The node is in its owner's counter cache; the root always is at hand. -/
def Mod.nodeHeld (m : Mod) (x : Nat) : Bool := rootNode ≤ x || (m.nodeCache x).any fun e => e.1 = x

/-- Channel that a node's line lies on. -/
def Mod.nodeChan (m : Mod) (x : Nat) : Nat := chanOf (m.regionUnit 7 x).1

/-- A node whose channel takes no writes stays pinned in its cache (R308). -/
def Mod.nodePinned (m : Mod) (x : Nat) : Bool := m.frozen (m.nodeChan x)

/-- A node becomes the newest in its cache. -/
def Mod.nodePut (m : Mod) (x : Nat) (dirty : Bool) : Mod :=
  let l := m.nodeCache x
  let d := dirty || l.any fun e => e.1 = x && e.2
  { m with key := { m.key with nodes := mapPut m.key.nodes (nodeSlice x) ((l.filter fun e => e.1 != x) ++ [(x, d)]) } }

/-- The node that a full cache gives up for its newest (R305): the oldest that is not pinned. -/
def Mod.nodeVictim (m : Mod) (x : Nat) : Option (Nat × Bool) :=
  let l := m.nodeCache x
  if l.length ≤ m.nodeCacheMax (nodeSlice x) then none else l.find? fun e => !m.nodePinned e.1 && e.1 != x

/-- A node leaves its cache. -/
def Mod.nodeDrop (m : Mod) (x : Nat) : Mod :=
  { m with key := { m.key with nodes := mapPut m.key.nodes (nodeSlice x) ((m.nodeCache x).filter fun e => e.1 != x) } }

/-- The counters of child n of a node advance (R303): its minor, or past 127 the page rolls. `d` is the domain the unit serves. -/
def Mod.bumpCount (m : Mod) (x n d : Nat) : Mod :=
  let v := m.minor x n + 1
  if v ≤ 127 then { m with key := { m.key with minors := mapPut m.key.minors (x * 64 + n) v } }
  else
    let old := m.major x
    let m := (m.resetNode x (old + 1)).raiseMajorHigh (old + 1)
    let m := m.tally pgKey KeyF.pageRolls 0x100 1
    if old ≤ 2 ^ 55 && 2 ^ 55 < old + 1 then m.counterHigh x d else m

/-- A node is put in its cache, and what it displaces is written back, which advances the displaced node's minor in its parent, and so
on up the tree (R305); `fuel` bounds the chain, at the end of which the caches hold more than their number. -/
def Mod.nodeCacheIn : Nat → Mod → Nat → Bool → Mod
  | 0, m, x, dirty => m.nodePut x dirty
  | fuel + 1, m, x, dirty =>
    if rootNode ≤ x then m else
    let m := m.nodePut x dirty
    match m.nodeVictim x with
    | none => m
    | some v =>
      let m := m.nodeDrop v.1
      if !v.2 then m
      else
        let p := parentOf v.1
        let m := m.writeTraffic (m.nodeChan v.1) 0 0
        Mod.nodeCacheIn fuel (m.bumpCount p.1 p.2 0) p.1 true

/-- A bound on chains of displaced nodes. -/
def nodeFuel : Nat := 64

/-- Child n of a node is written to its channel (R303): its counters advance, and the node is dirty in its cache. -/
def Mod.bumpMinor (m : Mod) (x n d : Nat) : Mod := Mod.nodeCacheIn nodeFuel (m.bumpCount x n d) x true

/-- Units below a node: the first and how many (R304). -/
def leavesOf (x : Nat) : Nat × Nat :=
  let lv := levelOf x
  let n := 64 ^ (lv - 1)
  let first := (x - levelBase lv) * n
  (first, min n (levelBase 2 - first))

/-- The node lies at or below another. -/
def nodeBelow (x top : Nat) : Bool :=
  let a := leavesOf x
  let b := leavesOf top
  decide (levelOf x ≤ levelOf top) && decide (b.1 ≤ a.1) && decide (a.1 + a.2 ≤ b.1 + b.2)

/-- A node is rebuilt (R308, step 3): MAJOR_HIGH + 1 and minors 0, kept dirty in its cache. -/
def Mod.nodeRebuild (m : Mod) (x : Nat) : Mod :=
  let v := m.glb.sec.majorHigh + 1
  Mod.nodeCacheIn nodeFuel (((m.resetNode x v).raiseMajorHigh v).add pgKey KeyF.nodeRecoveries 1) x true

/-- A recovery walk below a node joins those that are due (R308). -/
def Mod.addWalk (m : Mod) (x : Nat) : Mod :=
  let l := leavesOf x
  let w : NodeWalk := { node := x, first := l.1, leaves := l.2, done := 0, told := false }
  let m := if m.key.walks = [] then m.progress pgKey 1 0 0 else m
  { m with key := { m.key with walks := m.key.walks ++ [w] } }

/-- A counter node is found uncorrectable (R308): its minor in its parent advances, it is rebuilt, and a walk of the leaves below it is
due, unless a running walk passes them. -/
def Mod.nodeLost (m : Mod) (x : Nat) : Mod :=
  let m := m.raise pgKey 8 (keyDetail 0 x)
  let p := parentOf x
  let m := (m.bumpMinor p.1 p.2 0).nodeRebuild x
  match m.key.walks with
  | w :: _ => if nodeBelow x w.node then m else m.addWalk x
  | [] => m.addWalk x

/-- A node is used (R305): one that is not cached is read and verified against its parents up to a cached one; on a frozen channel it is
lost (R333). `n` bounds the levels. -/
def Mod.nodeUse : Nat → Mod → Nat → Mod
  | 0, m, _ => m
  | n + 1, m, x =>
    if rootNode ≤ x then m
    else if m.nodeHeld x then m.nodePut x false
    else if m.frozen (m.nodeChan x) then m.nodeLost x
    else
      let m := Mod.nodeUse n m (parentOf x).1
      Mod.nodeCacheIn nodeFuel (m.readTraffic (m.nodeChan x) 0 0) x false

/-- The unit's leaf is at hand for a domain that uses counters (R302, R305). -/
def Mod.leafUse (m : Mod) (u d : Nat) : Mod := if m.modeOf d = 2 then Mod.nodeUse 6 m u else m

/-- Lines of the unit are unverifiable: a recovery walk has not yet passed its leaf (R308). -/
def Mod.unverifiable (m : Mod) (u : Nat) : Bool := m.key.walks.any fun w => decide (w.first + w.done ≤ u) && decide (u < w.first + w.leaves)

/-- A line is read from unit u through its channel's cipher engine (R301, R320). -/
def Mod.chanRead (m : Mod) (u d act : Nat) : Mod := (m.leafUse u d).readTraffic (chanOf u) d act

/-- A line is written to line n of unit u for a domain (R303): its minor advances in mode MAC with freshness. On a frozen
channel the write-back is discarded and the line marked touched (R333). -/
def Mod.chanWrite (m : Mod) (u n d act : Nat) : Mod :=
  let c := chanOf u
  if m.frozen c then m.touch c (chanLine (localUnit u) n) else
  let m := (m.leafUse u d).writeTraffic c d act
  if m.modeOf d = 2 then m.bumpMinor u n d else m

/-- The counter caches are flushed (R305, R400): each dirty node is written back and advances its minor in its parent,
level by level up to the root. -/
def Mod.flushCounters (m : Mod) : Mod :=
  (List.range' 1 5).foldl (fun (a : Mod) lv =>
    let dirty := a.key.nodes.flatMap fun e => (e.2.filter fun x => x.2 && levelOf x.1 = lv).map Prod.fst
    dirty.foldl (fun (b : Mod) x =>
      let b : Mod := { b with key := { b.key with nodes := b.key.nodes.map fun e => (e.1, e.2.map fun y => if y.1 = x then (x, false) else y) } }
      let p := parentOf x
      (b.writeTraffic (b.nodeChan x) 0 0).bumpMinor p.1 p.2 0) a) m

end Sys2Proof.Machine
end

