-- ==== Sys2Proof/Machine/Caches.lean ====
section
/-!
DEFINITION. Machine/Caches.lean: the pool and its use (R245, R260), page-map entries (R247), the page-map cache, the front
cache (R250), traffic of a line to and from its channel (R303, R320, R333), LOST pages (R263).
-/
namespace Sys2Proof.Machine

/-! ## The pool -/

/-- A channel holds no new frames: frozen, settling out of service, or retired (R333, R335). -/
def Mod.chanShut (m : Mod) (c : Nat) : Bool :=
  m.chn.retired.contains c || m.blockState (pgMch c) = stFrozen || m.blockState (pgMch c) = stRetired

/-- Channels that take no new frames. -/
def Mod.shutChans (m : Mod) : List Nat := (upto 96).filter fun c => m.chanShut c

/-- Pool frames of a channel (R326). -/
def chanFrames (c : Nat) : Nat := if c < 32 then 873814 else 873813

/-- Frames of the pool that remain (R335). -/
def Mod.poolSize (m : Mod) : Nat :=
  poolFrames - (m.chn.retired.foldl (fun a c => a + chanFrames c) 0) -
    (m.chn.internalFrames.filter fun e => decide (poolFrames ≤ e.1) && m.chn.retired.contains (chanOf e.1)).length

/-- A page of an extent that is fully backed here: not thin, not adopted (R246, R108). -/
def Mod.fullyBacked (m : Mod) (e : Extent) : Bool := !(m.extReg e).thin && e.adopted.isNone

/-- Frames named one by one: plain pages with an entry of their own, packing frames, moves, pages held for peers. -/
def Mod.singles (m : Mod) : List Nat :=
  (m.tier.pages.filterMap fun e => match e.2.st with
    | .plain f => some f
    | _ => none) ++
  (m.tier.moves.filterMap fun e => match e.2 with
    | .plain f => some f
    | _ => none) ++
  (m.tier.limbo.filterMap fun e => match e.1 with
    | .plain f => some f
    | _ => none) ++
  m.tier.packs.map (fun e => e.1) ++ m.tier.heldFrames.map (fun e => e.2)

/-- Runs taken by extents and by the parity store. -/
def Mod.runs_ (m : Mod) : List Run :=
  (m.fab.extents.foldl (fun a e => a ++ e.2.runs) []) ++ m.aux.parityRuns ++ m.aux.targetRuns

/-- Frames that are not free (R245): frames of runs on channels in service, and single frames outside every run. -/
def Mod.framesUsed (m : Mod) : Nat :=
  let rs := m.runs_.map fun r => { r with skip := r.skip ++ m.chn.retired.filter fun c => !r.skip.contains c }
  let moved := (m.chn.internalFrames.filter fun e => (runsIndex m.runs_ e.1).isSome && m.chn.retired.contains (chanOf e.1)).length
  runsCount rs + (m.singles.filter fun f => (runsIndex m.runs_ f).isNone).length + moved

/-- The share of R256 in frames. -/
def Mod.share (m : Mod) : Nat := m.get pgMov MovF.shareGib * 262144

/-- Members of the group, 1 in none. -/
def Mod.groupN (m : Mod) : Nat := match m.grp.map with
  | some g => g.n
  | none => 1

/-- Frames still owed to peers (R245). -/
def Mod.owedFrames (m : Mod) : Nat := m.share * (m.groupN - 1) - m.tier.heldFrames.length

/-- Use in frames (R245). -/
def Mod.useFrames (m : Mod) : Nat := m.framesUsed + m.owedFrames

/-- Use in 0.01 % (R245). -/
def Mod.usePct (m : Mod) : Nat := m.useFrames * 10000 / m.poolSize

/-- `n` more frames keep use within a limit in 0.01 % (R246, R261). -/
def Mod.fits (m : Mod) (n limit : Nat) : Bool := decide ((m.useFrames + n) * 10000 ≤ limit * m.poolSize)

/-- Insert an interval into a list sorted by start. -/
def spanInsert : List (Nat × Nat) → Nat × Nat → List (Nat × Nat)
  | [], s => [s]
  | h :: t, s => if s.1 ≤ h.1 then s :: h :: t else h :: spanInsert t s

/-- Taken intervals of frames, sorted. -/
def Mod.spans (m : Mod) : List (Nat × Nat) :=
  let l := m.runs_.foldl (fun a r => spanInsert a (r.start, r.len)) []
  let moved := (m.chn.internalFrames.filter fun e => decide (poolFrames ≤ e.1) || (mapGet m.tier.packs e.1).isSome ||
    (runsIndex m.runs_ e.1).isSome).map fun e => e.2
  (m.singles ++ moved).foldl (fun a f => spanInsert a (f, 1)) l

/-- Gaps between sorted intervals from `a` on, up to the pool's end. -/
def gapsFrom : Nat → List (Nat × Nat) → List (Nat × Nat)
  | a, [] => if a < poolFrames then [(a, poolFrames - a)] else []
  | a, (s, n) :: t => if a < s then (a, s - a) :: gapsFrom (max a (s + n)) t else gapsFrom (max a (s + n)) t

/-- Runs of `n` frames taken from the gaps, lowest first (log entry 14), leaving out the channels of `skip`. -/
def takeRuns (skip : List Nat) : List (Nat × Nat) → Nat → Option (List Run)
  | _, 0 => some []
  | [], _ => none
  | (a, l) :: t, n =>
    let r : Run := { start := a, len := l, skip := skip }
    if n ≤ r.count then some [{ r with len := r.nth (n - 1) + 1 - a }]
    else if r.count = 0 then takeRuns skip t n
    else (takeRuns skip t (n - r.count)).map fun q => r :: q

/-- Runs of `n` free frames. -/
def Mod.allocRuns (m : Mod) (n : Nat) : Option (List Run) := takeRuns m.shutChans (gapsFrom 0 m.spans) n

/-- A free frame within 98.00 % (R261). -/
def Mod.allocFrame (m : Mod) : Option Nat :=
  if m.fits 1 9800 then (m.allocRuns 1).bind fun l => runsNth l 0 else none

/-! ## Levels -/

/-- Level for a use, given the level in force (R260): entered at its threshold, left 1.00 % below it. -/
def levelFor (pct old : Nat) : Nat :=
  let up := if 9800 ≤ pct then 3 else if 9500 ≤ pct then 2 else if 9000 ≤ pct then 1 else 0
  let down := if 9700 < pct then 3 else if 9400 < pct then 2 else if 8900 < pct then 1 else 0
  max up (min old down)

/-- Thin volatile extents that hold the most frames, largest first: four at most, 0xFFFF unused (R262). -/
def Mod.candidates (m : Mod) : List Nat :=
  let held : List (Nat × Nat) := (m.fab.extents.filter fun e => (m.extReg e.2).thin).map fun e =>
    (e.1, (m.tier.pages.filter fun p => (match p.2.st with
      | .plain _ => true
      | .packed .. => true
      | _ => false) && decide (e.2.base ≤ p.1 * 4096) && decide (p.1 * 4096 < e.2.base + e.2.size)).length)
  let sorted := held.foldl (fun (a : List (Nat × Nat)) e =>
    (a.filter fun x => decide (e.2 ≤ x.2)) ++ [e] ++ (a.filter fun x => decide (x.2 < e.2))) []
  ((sorted.map fun (e : Nat × Nat) => e.1) ++ [0xFFFF, 0xFFFF, 0xFFFF, 0xFFFF]).take 4

/-- DETAIL of a MOV error (R268). -/
def movDetail (page ext : Nat) : Nat := bits page 0 29 ||| (ext <<< 29)

/-- Use enters or leaves a level (R260, R262); the mover demotes from DEMOTE_ON until use falls to DEMOTE_OFF (R253). -/
def Mod.checkUse (m : Mod) : Mod :=
  let pct := m.usePct
  let old := m.get pgMov MovF.level
  let lv := levelFor pct old
  let on := decide (m.get pgMov MovF.demoteOn * 100 ≤ pct) || (m.tier.demoting && decide (m.get pgMov MovF.demoteOff * 100 < pct))
  let m := { m with tier := { m.tier with demoting := on } }
  let m := m.set pgMov MovF.level lv
  (List.range' (old + 1) (lv - old)).foldl (fun a k =>
    let a := a.raise pgMov (7 + k) (movDetail 0 0)
    let a := a.event (if k = 3 then .failure else .warning) .capacity
      ([k, pct, a.poolSize * 98 / 100 - a.useFrames] ++ a.candidates ++ [a.tier.lostSince])
    { a with tier := { a.tier with lostSince := 0 } }) m

/-! ## Page-map entries -/

/-- The page lies in a fully backed extent: that extent. -/
def Mod.backedBy (m : Mod) (p : Nat) : Option Extent := match m.extAt (p * 4096) with
  | some (_, e) => if m.fullyBacked e then some e else none
  | none => none

/-- An UNBACKED entry. -/
def PageEnt.none : PageEnt := { st := .unbacked, keep := false, moving := false, heat := 0 }

/-- The entry of a page: its own, or PLAIN in its extent's frame record, or UNBACKED (R244, R246). -/
def Mod.page (m : Mod) (p : Nat) : PageEnt := match mapGet m.tier.pages p with
  | some e => e
  | none => match m.backedBy p with
    | some e => { st := .plain ((runsNth e.runs (p - e.base / 4096)).getD 0), keep := false, moving := false, heat := 0 }
    | none => PageEnt.none

/-- Set a page's entry; an UNBACKED one with nothing else to say is not listed. -/
def Mod.setPage (m : Mod) (p : Nat) (e : PageEnt) : Mod :=
  let t := if decide (e = PageEnt.none) && (m.backedBy p).isNone then mapDel m.tier.pages p else mapPut m.tier.pages p e
  { m with tier := { m.tier with pages := t } }

/-- The frame of a PLAIN page. -/
def Mod.frameOf (m : Mod) (p : Nat) : Option Nat := match (m.page p).st with
  | .plain f => some f
  | _ => none

/-- An access raises HEAT by one, up to 7 (R253). -/
def Mod.heatUp (m : Mod) (p : Nat) : Mod :=
  let e := m.page p
  if e.heat < 7 then m.setPage p { e with heat := e.heat + 1 } else m

/-- Entries a slice's page-map cache holds, but for its fenced regions (R248, R440). -/
def Mod.mapCacheMax (m : Mod) (slice : Nat) : Nat := 32768 - 128 * m.fencedIn 180224 256 slice

/-- The map line that holds a page's entry is read or written through its channel (R248, R309). -/
def Mod.mapTraffic (m : Mod) (p : Nat) (write : Bool) : Mod :=
  let q := m.regionUnit 1 (p / 8)
  if write then m.chanWrite q.1 q.2 0 0 else m.chanRead q.1 0 0

/-- A slice looks up a page's entry in its page-map cache (R248): hit or miss counts; the oldest entry makes room, and a
dirty one is written back. -/
def Mod.mapLookup (m : Mod) (slice p : Nat) : Mod :=
  let l := mapGetD m.tier.mapCache slice []
  if l.any fun e => e.1 = p then m.add (pgHsl slice) HslF.mapHits 1
  else
    let m := (m.add (pgHsl slice) HslF.mapMisses 1).mapTraffic p false
    let m := match l with
      | h :: _ => if m.mapCacheMax slice ≤ l.length && h.2 then (m.add (pgHsl slice) HslF.mapWritebacks 1).mapTraffic h.1 true else m
      | [] => m
    let l := l.drop (l.length + 1 - m.mapCacheMax slice)
    { m with tier := { m.tier with mapCache := mapPut m.tier.mapCache slice (l ++ [(p, false)]) } }

/-- The map slice changes an entry: copies at the page's other home slices are withdrawn, its own is dirty (R248). -/
def Mod.mapChanged (m : Mod) (p : Nat) : Mod :=
  let ms := mapSlice p
  let others := (upto 16).map fun i => bits p 0 2 * 16 + i
  let c := others.foldl (fun (a : Map (List (Nat × Bool))) s => match mapGet a s with
    | some l => mapPut a s (l.filter fun e => e.1 != p)
    | none => a) m.tier.mapCache
  let own := mapGetD c ms []
  { m with tier := { m.tier with mapCache := mapPut c ms (own.drop (own.length + 1 - m.mapCacheMax ms) ++ [(p, true)]) } }

/-! ## Traffic of lines -/

/-- Unit and line a line of a PLAIN page lies at (R326). -/
def Mod.placeOf (m : Mod) (l : Nat) : Option (Nat × Nat) := (m.frameOf (pageOfLine l)).map fun f => (f, l % 64)

/-! ## The front cache -/

/-- Key of the front-cache set of a line, DPA[22:6]: the home slice and the set index LINE[10:0] (R215, R250). -/
def fcKey (l : Nat) : Nat := l % 131072

/-- The front-cache set of a line, most recently used first. -/
def Mod.fcSet (m : Mod) (l : Nat) : List FcLine := mapGetD m.tier.fc (fcKey l) []

/-- The line is in the front cache. -/
def Mod.fcGet (m : Mod) (l : Nat) : Option FcLine := (m.fcSet l).find? fun e => e.line = l

/-- Set a front-cache set. -/
def Mod.setFc (m : Mod) (k : Nat) (s : List FcLine) : Mod :=
  { m with tier := { m.tier with fc := if s = [] then mapDel m.tier.fc k else mapPut m.tier.fc k s } }

/-- A dirty line is written back to its channel (R250, R303). -/
def Mod.writeBack (m : Mod) (l : Nat) : Mod := match m.placeOf l with
  | some (u, n) => (m.chanWrite u n (m.domainAt l) 0).add (pgHsl (sliceOf l)) HslF.fcWritebacks 1
  | none => m

/-- With a ninth kept line the least recently used one loses its mark (R237). -/
def unkeep (s : List FcLine) : List FcLine :=
  if (s.filter fun e => e.kept).length ≤ 8 then s
  else match (s.reverse.find? fun e => e.kept) with
    | some v => s.map fun e => if e.line = v.line then { e with kept := false } else e
    | none => s

/-- Ways of the front-cache set of a line: 16, but for those its fenced regions hold (R250, R440; log entry 51). -/
def Mod.fcWays (m : Mod) (l : Nat) : Nat :=
  16 - (m.drz.fenced.filter fun r => decide (r < 131072) && r / 2048 = sliceOf l && r % 128 = sliceLine l % 2048 / 16).length

/-- The line to replace in a set of more than `ways`: the least recently used that is not kept (R237, R250). -/
def fcVictim (ways : Nat) (s : List FcLine) : Option FcLine :=
  if s.length ≤ ways then none else (s.drop (min 1 ways)).reverse.find? fun e => !e.kept

/-- Lines a set gives up until it fits its ways, at most `n`, and what stays. -/
def fcTrim (ways : Nat) : Nat → List FcLine → List FcLine × List FcLine
  | 0, s => ([], s)
  | n + 1, s => match fcVictim ways s with
    | none => ([], s)
    | some v => let r := fcTrim ways n (s.filter fun x => x.line != v.line)
                (v :: r.1, r.2)

/-- A line enters the front cache or is used there (R250): it becomes the most recently used; a dirty line that is replaced
is written back. -/
def Mod.fcUse (m : Mod) (l : Nat) (dirty kept : Bool) : Mod :=
  let s := m.fcSet l
  let old := s.find? fun e => e.line = l
  let e : FcLine := { line := l, dirty := dirty || (old.map FcLine.dirty).getD false, kept := kept || (old.map FcLine.kept).getD false }
  let s := unkeep (e :: s.filter fun x => x.line != l)
  let r := fcTrim (m.fcWays l) s.length s
  r.1.foldl (fun (a : Mod) v => if v.dirty then a.writeBack v.line else a) (m.setFc (fcKey l) r.2)

/-- A line leaves the front cache, written back first when dirty. -/
def Mod.fcDrop (m : Mod) (l : Nat) : Mod := match m.fcGet l with
  | none => m
  | some e =>
    let m := if e.dirty then m.writeBack l else m
    m.setFc (fcKey l) ((m.fcSet l).filter fun x => x.line != l)

/-- A line leaves the front cache with what it held. -/
def Mod.fcForget (m : Mod) (l : Nat) : Mod := m.setFc (fcKey l) ((m.fcSet l).filter fun x => x.line != l)

/-- Every line of a page leaves the front cache, dirty ones written back (R250). -/
def Mod.fcDropPage (m : Mod) (p : Nat) : Mod := (upto 64).foldl (fun a i => a.fcDrop (p * 64 + i)) m

/-- A page's lines are forgotten in the front cache. -/
def Mod.fcForgetPage (m : Mod) (p : Nat) : Mod := (upto 64).foldl (fun a i => a.fcForget (p * 64 + i)) m

/-- A read of a line of a PLAIN page (R249): from the front cache, or from its channel into it. -/
def Mod.fcRead (m : Mod) (l act : Nat) : Mod :=
  let h := pgHsl (sliceOf l)
  if (m.fcGet l).isSome then (m.tally h HslF.fcHits 0x101 1).fcUse l false false
  else
    let m := m.tally h HslF.fcMisses 0x102 1
    let m := match m.placeOf l with
      | some (u, _) => m.chanRead u (m.domainAt l) act
      | none => m
    m.fcUse l false false

/-! ## Poison and LOST pages -/

/-- The line holds poison. -/
def Mod.isPoisoned (m : Mod) (l : Nat) : Bool := (mapGet m.poison l).isSome

/-- A line is written with or without POISON (R299). -/
def Mod.setPoison (m : Mod) (l : Nat) (b : Bool) : Mod :=
  { m with poison := if b then mapPut m.poison l 1 else mapDel m.poison l }

/-- A record of source "internal" enters the poison list (R263, R301): a DPA and a length. -/
def Mod.listPoison (m : Mod) (dpa len : Nat) : Mod :=
  if m.mgmt.poisonList.contains (dpa, len) then m
  else { m with mgmt := { m.mgmt with poisonList := m.mgmt.poisonList ++ [(dpa, len)] } }

/-- A record leaves the poison list. -/
def Mod.unlistPoison (m : Mod) (dpa len : Nat) : Mod :=
  { m with mgmt := { m.mgmt with poisonList := m.mgmt.poisonList.filter fun e => e != (dpa, len) } }

/-- Free a packed block's grains; the packing frame is freed with its last grain (R254). -/
def Mod.freeGrains (m : Mod) (frame first : Nat) : Mod :=
  match mapGet m.tier.packs frame with
  | some (d, l) =>
    let l := l.filter fun e => e.1 != first
    let chn := if l = [] then { m.chn with internalFrames := mapDel m.chn.internalFrames frame } else m.chn
    { m with tier := { m.tier with packs := if l = [] then mapDel m.tier.packs frame else mapPut m.tier.packs frame (d, l) }, chn := chn }
  | none => m

/-- Free what a page holds besides a plain frame: grains, or the tag grain of a peer-tier page (R247). -/
def Mod.freePlace (m : Mod) (st : PageSt) : Mod := match st with
  | .packed f a _ _ => m.freeGrains f a
  | .peer _ slot =>
    let m := m.freeGrains (slot / 16) (slot % 16)
    { m with tier := { m.tier with tags := mapDel m.tier.tags slot } }
  | _ => m

/-- A page's bytes and poison are gone. -/
def Mod.clearPage (m : Mod) (p : Nat) : Mod :=
  { m with mem := Memory.clear m.mem (p * 4096) 4096,
           poison := m.poison.filter fun e => decide (e.1 < p * 64) || decide (p * 64 + 64 ≤ e.1) }

/-- Number of the extent that holds a page, 0 where none does. -/
def Mod.extOfPage (m : Mod) (p : Nat) : Nat := ((m.extAt (p * 4096)).map Prod.fst).getD 0

/-- A volatile page becomes LOST (R263): it frees what it held; a poison-list record; LOST_PAGES. -/
def Mod.makeLost (m : Mod) (p : Nat) : Mod :=
  if (m.page p).st = .lost then m else
  let m := (m.fcForgetPage p).freePlace (m.page p).st
  let m := { m with tier := { m.tier with moves := mapDel m.tier.moves p, lostSince := m.tier.lostSince + 1 } }
  let m := (m.setPage p { st := .lost, keep := false, moving := false, heat := 0 }).mapChanged p
  ((m.clearPage p).listPoison (p * 4096) 4096).tally pgMov MovF.lostPages 0x102 1

/-- A write found no frame (R263). -/
def Mod.pageLost (m : Mod) (p : Nat) : Mod :=
  ((m.makeLost p).raise pgMov 11 (movDetail p (m.extOfPage p))).event .failure .pageLost [p]

/-- A LOST page returns to UNBACKED (R263). -/
def Mod.unlose (m : Mod) (p : Nat) : Mod :=
  if (m.page p).st = .lost then
    ((m.setPage p PageEnt.none).mapChanged p).unlistPoison (p * 4096) 4096
  else m

end Sys2Proof.Machine
end

