-- ==== Sys2Proof/Machine/Directory.lean ====
section
/-!
DEFINITION. Machine/Directory.lean: the directory of shared lines (R222 to R236): entries on die and in memory, their sets,
room for an entry, holders, snoops and their answers, tenures, wakes.
-/
namespace Sys2Proof.Machine

/-- On-die and memory set of a line (R224). -/
def onDieKey (l : Nat) : Nat := sliceOf l * 2048 + sliceLine l % 2048
def inMemKey (l : Nat) : Nat := sliceOf l * 524288 + sliceLine l % 524288

def Mod.onDieSet (m : Mod) (l : Nat) : List DirEnt := mapGetD m.dir.onDie (onDieKey l) []
def Mod.inMemSet (m : Mod) (l : Nat) : List DirEnt := mapGetD m.dir.inMem (inMemKey l) []

def Mod.setOnDie (m : Mod) (l : Nat) (s : List DirEnt) : Mod :=
  { m with dir := { m.dir with onDie := if s = [] then mapDel m.dir.onDie (onDieKey l) else mapPut m.dir.onDie (onDieKey l) s } }
def Mod.setInMem (m : Mod) (l : Nat) (s : List DirEnt) : Mod :=
  { m with dir := { m.dir with inMem := if s = [] then mapDel m.dir.inMem (inMemKey l) else mapPut m.dir.inMem (inMemKey l) s } }

/-- The entry of a line, wherever it lies. -/
def Mod.dirEnt (m : Mod) (l : Nat) : Option DirEnt :=
  match (m.onDieSet l).find? fun e => e.line = l with
  | some e => some e
  | none => (m.inMemSet l).find? fun e => e.line = l

/-- A tenure runs: TENURE is set and its end lies ahead (R232). -/
def DirEnt.inTenure (e : DirEnt) (now : Nat) : Bool := e.tenure && decide (now < e.tend)

/-- Pinned on die: by outstanding snoops or a conflict (R232). -/
def DirEnt.pinnedOn (e : DirEnt) : Bool := e.bisnp || e.conflict

/-- Pinned in the memory directory: a running tenure pins too. -/
def DirEnt.pinned (e : DirEnt) (now : Nat) : Bool := e.pinnedOn || e.inTenure now

/-- Change the entry of a line in place; `none` frees it. -/
def Mod.updEnt (m : Mod) (l : Nat) (f : DirEnt → Option DirEnt) : Mod :=
  let g := fun (s : List DirEnt) => s.filterMap fun e => if e.line = l then f e else some e
  if (m.onDieSet l).any fun e => e.line = l then m.setOnDie l (g (m.onDieSet l))
  else if (m.inMemSet l).any fun e => e.line = l then m.setInMem l (g (m.inMemSet l))
  else m

/-- Contexts an entry covers: for SHARED_COARSE those of its groups with an ACTIVE grant for the line's extent (R225). -/
def Mod.holders (m : Mod) (e : DirEnt) : List Nat := match e.st with
  | .owned c => [c]
  | .ptr cs => cs
  | .coarse gs => match m.extAt (e.line * 64) with
    | some (n, x) => (m.fab.grants.filter fun g => g.ext = n && g.st = .active && g.epoch = x.epoch && gs.contains (g.ctx / 64)).map Grant.ctx
    | none => []

/-- The entry names the context as a holder (R238). -/
def DirEnt.names (e : DirEnt) (c : Nat) : Bool := match e.st with
  | .owned o => o = c
  | .ptr cs => cs.contains c
  | .coarse gs => gs.contains (c / 64)

/-- A state without a context: a SHARED_COARSE entry stays as it is (R225). -/
def DirSt.without (s : DirSt) (c : Nat) : Option DirSt := match s with
  | .owned o => if o = c then none else some s
  | .ptr cs => let r := cs.filter fun x => x != c
               if r = [] then none else some (.ptr r)
  | .coarse _ => some s

/-- A context leaves a line's entry; an emptied entry is freed. An owner that leaves ends its tenure. -/
def Mod.dirDrop (m : Mod) (l c : Nat) : Mod := m.updEnt l fun e =>
  if e.names c then (e.st.without c).map fun s => { e with st := s, tenure := e.tenure && decide (e.st = s) } else some e

/-! ## Snoops -/

/-- The host port's link is up. -/
def Mod.portUp (m : Mod) (p : Nat) : Bool := m.get (pgPrt p) PrtF.hostLinkState = 2 || m.get (pgPrt p) PrtF.hostLinkState = 3

/-- The snoop port of a context whose link is up (R220). -/
def Mod.snoopPortOf (m : Mod) (c : Nat) : Option Nat := match mapGet m.fab.snoopPort c with
  | some p => if m.portUp p then some p else none
  | none => none

/-- A snoop goes out, or counts at once as answered with BIRspI (R219, R220). Answers whether it is outstanding. -/
def Mod.sendSnoop (m : Mod) (l c : Nat) (inv : Bool) (why : SnoopFor) : Mod × Bool :=
  match m.snoopPortOf c with
  | none => (m, false)
  | some p =>
    let m := m.tally (pgHsl (sliceOf l)) HslF.bisnpSent 0x103 1
    let m := m.send (.snoop p c (l * 64) inv)
    ({ m with dir := { m.dir with snoops := m.dir.snoops ++
        [{ line := l, ctx := c, inv := inv, port := p, why := why, sent := m.tick }] } }, true)

/-- The effect of a snoop's answer on the entry (R219, R226): after BISnpInv, or BIRspI, the context holds nothing; after
BISnpData with BIRspS the former owner holds a shared copy. -/
def Mod.snoopEffect (m : Mod) (l c : Nat) (inv shared : Bool) : Mod :=
  if inv || !shared then m.dirDrop l c
  else m.updEnt l fun e => match e.st with
    | .owned o => if o = c then some { e with st := .ptr [c], tenure := false } else some e
    | _ => some e

/-- Send snoops to several contexts: those not outstanding take effect at once as BIRspI. Answers how many are
outstanding. -/
def Mod.sendSnoops (m : Mod) (l : Nat) (cs : List Nat) (inv : Bool) (why : SnoopFor) : Mod × Nat :=
  cs.foldl (fun (a : Mod × Nat) c =>
    let r := a.1.sendSnoop l c inv why
    if r.2 then (r.1, a.2 + 1) else (r.1.snoopEffect l c inv false, a.2)) (m, 0)

/-- No snoop for the line is outstanding any more: BISNP_OUT clears. -/
def Mod.clearBisnp (m : Mod) (l : Nat) : Mod :=
  if m.dir.snoops.any fun s => s.line = l then m else m.updEnt l fun e => some { e with bisnp := false }

/-- Mark the line's entry as having snoops outstanding. -/
def Mod.setBisnp (m : Mod) (l : Nat) : Mod := m.updEnt l fun e => some { e with bisnp := true }

/-! ## Room for an entry (R233, R234) -/

/-- Free a way of a full memory set: the least recently used unpinned way is snooped from every holder; with nobody to wait
for it is free at once. -/
def Mod.evictMem (m : Mod) (l : Nat) : Mod :=
  match ((m.inMemSet l).reverse.find? fun e => !e.pinned m.tick) with
  | none => m
  | some e =>
    let m := (m.setBisnp e.line).add (pgHsl (sliceOf l)) HslF.evictSnoops 1
    let r := m.sendSnoops e.line (m.holders e) true .evict
    if r.2 = 0 then r.1.updEnt e.line fun _ => none else r.1

/-- Make room in a line's memory set; answers whether a way is free now. While a way of the set is being freed, no second one is. -/
def Mod.memRoom (m : Mod) (l : Nat) : Mod × Bool :=
  if (m.inMemSet l).length < 8 then (m, true)
  else if m.dir.snoops.any fun s => s.why = .evict && (m.inMemSet l).any fun e => e.line = s.line then (m, false)
  else
    let m := m.evictMem l
    (m, decide ((m.inMemSet l).length < 8))

/-- Ways of the on-die set of a line: 16, but for those its fenced regions hold (R224, R440; log entry 51), one at least. -/
def Mod.dieWays (m : Mod) (l : Nat) : Nat :=
  max 1 (16 - (m.drz.fenced.filter fun r => decide (131072 ≤ r) && decide (r < 163840) && (r - 131072) / 512 = sliceOf l &&
    r % 32 = sliceLine l % 2048 / 64).length)

/-- Spill the least recently used unpinned entry of an on-die set to its memory set (R233). -/
def Mod.dieSpill (m : Mod) (l : Nat) : Mod × Bool :=
  match ((m.onDieSet l).reverse.find? fun e => !e.pinnedOn) with
  | none => (m, false)
  | some v =>
    let r := m.memRoom v.line
    if r.2 then
      let m := r.1.setOnDie l ((r.1.onDieSet l).filter fun e => e.line != v.line)
      let v := if v.tenure && decide (v.tend ≤ m.tick) then { v with tenure := false } else v
      ((m.setInMem v.line (v :: m.inMemSet v.line)).add (pgHsl (sliceOf l)) HslF.spills 1, true)
    else (r.1, false)

/-- Make room in a line's on-die set (R233). -/
def Mod.dieRoom (m : Mod) (l : Nat) : Mod × Bool :=
  (upto ((m.onDieSet l).length + 1 - m.dieWays l)).foldl (fun (a : Mod × Bool) _ => if a.2 then a.1.dieSpill l else a) (m, true)

/-- Bring a line's entry on die as the most recently used (R233). Answers false where the request must wait for a way. -/
def Mod.dirTouch (m : Mod) (l : Nat) : Mod × Bool :=
  match (m.onDieSet l).find? fun e => e.line = l with
  | some e =>
    let e := if e.tenure && decide (e.tend ≤ m.tick) then { e with tenure := false } else e
    (m.setOnDie l (e :: (m.onDieSet l).filter fun x => x.line != l), true)
  | none => match (m.inMemSet l).find? fun e => e.line = l with
    | none => (m, true)
    | some e =>
      let r := m.dieRoom l
      if r.2 then
        let e := if e.tenure && decide (e.tend ≤ m.tick) then { e with tenure := false } else e
        let m := r.1.setInMem l ((r.1.inMemSet l).filter fun x => x.line != l)
        (m.setOnDie l (e :: m.onDieSet l), true)
      else r

/-- Room for a new entry of a line that has none. -/
def Mod.dirRoom (m : Mod) (l : Nat) : Mod × Bool := if (m.dirEnt l).isSome then (m, true) else m.dieRoom l

/-- Set a line's entry, which has room on die. -/
def Mod.dirSet (m : Mod) (l : Nat) (st : DirSt) (tenure : Bool) (tend : Nat) : Mod :=
  let old := m.dirEnt l
  let e : DirEnt := { line := l, st := st, bisnp := (old.map DirEnt.bisnp).getD false,
                      conflict := (old.map DirEnt.conflict).getD false, tenure := tenure, tend := tend }
  if old.isSome then m.updEnt l fun _ => some e else m.setOnDie l (e :: m.onDieSet l)

/-- A line's entry is freed. -/
def Mod.dirFree (m : Mod) (l : Nat) : Mod := m.updEnt l fun _ => none

/-- A context is granted a line anew (R230, R182): what it sends from now on is no write-back of an older hold. -/
def Mod.freshHold (m : Mod) (l c : Nat) : Mod :=
  let g := fun (x : List (Nat × Nat)) => x.filter fun e => e != (l, c)
  { m with dir := { m.dir with late := g m.dir.late, taken := g m.dir.taken } }

/-- A context becomes a holder of a shared line (R225): a seventh pointer turns the entry SHARED_COARSE. -/
def Mod.addHolder (m : Mod) (l c : Nat) : Mod :=
  match m.dirEnt l with
  | none => m.dirSet l (.ptr [c]) false 0
  | some e => match e.st with
    | .owned _ => m.dirSet l (.ptr [c]) false 0
    | .ptr cs =>
      if cs.contains c then m
      else if cs.length < 6 then m.dirSet l (.ptr (cs ++ [c])) false 0
      else
        let gs := (cs ++ [c]).foldl (fun (a : List Nat) x => if a.contains (x / 64) then a else a ++ [x / 64]) []
        (m.dirSet l (.coarse gs) false 0).add (pgHsl (sliceOf l)) HslF.coarse 1
    | .coarse gs => if gs.contains (c / 64) then m else m.dirSet l (.coarse (gs ++ [c / 64])) false 0

/-- A line becomes owned by a context (R226, R228): its tenure starts unless TENURE is 0. -/
def Mod.setOwner (m : Mod) (l c : Nat) : Mod :=
  let t := m.get (pgHsl 0) HslF.tenure
  m.dirSet l (.owned c) (decide (t ≠ 0)) (m.tick + t)

/-! ## Watched lines -/

/-- The context's watched line is armed: its entry names the context (R238). -/
def Mod.armed (m : Mod) (c : Nat) : Option Nat := match mapGet m.dir.watch c with
  | some l => match m.dirEnt l with
    | some e => if e.names c then some l else none
    | none => none
  | none => none

/-- A wake (R238): BISnpInv for a context's armed watched line, after the tenure if the context owns it; one is
outstanding at most. Answers whether a wake leaves or waits. -/
def Mod.wake (m : Mod) (c : Nat) : Mod × Bool := match m.armed c with
  | none => (m, false)
  | some l =>
    if m.dir.wakePend.contains c || m.dir.snoops.any fun s => s.why = .wake && s.ctx = c then (m, false)
    else
      let t := match m.dirEnt l with
        | some e => e.inTenure m.tick
        | none => false
      if t then ({ m with dir := { m.dir with wakePend := m.dir.wakePend ++ [c] } }, true)
      else
        let m := (m.setBisnp l).add (pgHsl (sliceOf l)) HslF.wakes 1
        let r := m.sendSnoop l c true .wake
        (if r.2 then r.1 else (r.1.snoopEffect l c true false).clearBisnp l, true)

/-- A watched line is cleared (R239, R243). -/
def Mod.unwatch (m : Mod) (c : Nat) : Mod := match mapGet m.dir.watch c with
  | none => m
  | some l =>
    let m := { m with dir := { m.dir with watch := mapDel m.dir.watch c, wakePend := m.dir.wakePend.filter fun x => x != c } }
    (m.raise (pgHsl (sliceOf l)) 10 (c ||| (sliceLine l <<< 12))).event .info .watchCleared [c, l]

/-- Lines that a context owns, of those `f` holds of. -/
def Mod.ownedBy (m : Mod) (c : Nat) (f : Nat → Bool) : List Nat :=
  (m.dir.onDie ++ m.dir.inMem).flatMap fun d => (d.2.filter fun e => f e.line && decide (e.st = .owned c)).map DirEnt.line

/-- A context leaves every entry it appears in (R181), or those of the lines `f` holds of (R235); its tenures there end. The lines it
owned are noted (log entry 88). -/
def Mod.dirDropAll (m : Mod) (c : Nat) (f : Nat → Bool) : Mod :=
  let g := fun (s : List DirEnt) => s.filterMap fun e =>
    if f e.line && e.names c then (e.st.without c).map fun st => { e with st := st, tenure := e.tenure && decide (e.st = st) } else some e
  let h := fun (d : Map (List DirEnt)) => (d.map fun e => (e.1, g e.2)).filter fun e => !e.2.isEmpty
  let tk := ((m.ownedBy c f).map fun l => (l, c)).filter fun e => !m.dir.taken.contains e
  { m with dir := { m.dir with onDie := h m.dir.onDie, inMem := h m.dir.inMem, taken := m.dir.taken ++ tk } }

end Sys2Proof.Machine
end

