-- ==== Sys2Proof/Machine/Lines.lean ====
section
/-!
DEFINITION. Machine/Lines.lean: what reading and writing a line does (R249 to R252, R56 to R60, R85): line contents and
merging, durable acceptance, full stops and epochs, tiers, starting a reconstruction (R107, R108).
-/
namespace Sys2Proof.Machine

/-! ## Contents -/

/-- The 64 bytes of a line. -/
def Mod.line (m : Mod) (l : Nat) : List Byte := Memory.bytes m.mem (l * 64) 64

/-- The mask that names every byte of a line. -/
def fullMask : Nat := 2 ^ 64 - 1

/-- A line merged with the bytes a mask names (R55). -/
def mergeMask (mask : Nat) (old new : List Byte) : List Byte :=
  (upto 64).map fun i => if mask.testBit i then new.getD i 0#8 else old.getD i 0#8

/-- Whether a merged line holds poison: a partial write leaves a poisoned line poisoned (log entry 16). -/
def Mod.mergedPoison (m : Mod) (l mask : Nat) (poison : Bool) : Bool := poison || (m.isPoisoned l && mask != fullMask)

/-- The line takes new contents and enters the front cache dirty. -/
def Mod.storeLine (m : Mod) (l : Nat) (data : List Byte) (poison kept : Bool) : Mod :=
  let m := { m with mem := Memory.putBytes m.mem (l * 64) data }
  (m.setPoison l poison).fcUse l true kept

/-- The line lies in a durable extent. -/
def Mod.isDurable (m : Mod) (l : Nat) : Bool := match m.extAt (l * 64) with
  | some (_, e) => (m.extReg e).durable
  | none => false

/-- The module fences its durable extents (R85). -/
def Mod.fenced (m : Mod) : Bool := !m.fences.isEmpty

/-! ## Windows -/

/-- OPEN or SUSPENDED: the window counts writes and takes full stops (R52). -/
def Window.counts (w : Window) : Bool := w.st = .open_ || w.st = .suspended

/-- The window whose data range holds the line and counts it (R52). -/
def Mod.windowOf (m : Mod) (l : Nat) : Option (Nat × Window) :=
  m.led.wins.find? fun w => w.2.counts && decide (w.2.entry.dataBase ≤ l * 64) && decide (l * 64 < w.2.entry.dataBase + w.2.entry.dataSize)

/-- The window whose stop line the line is (R55). -/
def Mod.stopOf (m : Mod) (l : Nat) : Option (Nat × Window) :=
  m.led.wins.find? fun w => w.2.counts && decide (w.2.entry.stopDpa = l * 64)

/-- A full stop to the line is held (R59): reads of it, and later writes, are ordered behind. -/
def Mod.stopHeld (m : Mod) (l : Nat) : Bool := m.led.stops.any fun s => match mapGet m.led.wins s.win with
  | some w => w.entry.stopDpa = l * 64
  | none => false

def Mod.updWin (m : Mod) (w : Nat) (f : Window → Window) : Mod := { m with led := { m.led with wins := mapUpd m.led.wins w f } }

/-- Unprotected writes of a window counted in an epoch, over all slices (R53, R60). -/
def Mod.unprot (m : Mod) (w e : Nat) : Nat := (m.led.dws.filter fun d => d.win = some (w, e)).length

/-- Full stops held to a window (R53). -/
def Mod.heldStops (m : Mod) (w : Nat) : List FullStop := m.led.stops.filter fun s => s.win = w

/-- The oldest full stop held to a window. -/
def Mod.headStop (m : Mod) (w : Nat) : Option FullStop := m.led.stops.find? fun s => s.win = w

/-- Change the oldest full stop of a window. -/
def updFirst (w : Nat) (f : FullStop → FullStop) : List FullStop → List FullStop
  | [] => []
  | s :: t => if s.win = w then f s :: t else s :: updFirst w f t

/-- Remove the oldest full stop of a window. -/
def dropFirst (w : Nat) : List FullStop → List FullStop
  | [] => []
  | s :: t => if s.win = w then t else s :: dropFirst w t

def Mod.updStop (m : Mod) (w : Nat) (f : FullStop → FullStop) : Mod := { m with led := { m.led with stops := updFirst w f m.led.stops } }

/-- Step 2 of R59 begins for the window's oldest full stop if it is still queued: the open epoch is closed and E inverted
at every slice (R60). -/
def Mod.closeEpoch (m : Mod) (w : Nat) : Mod := match m.headStop w, mapGet m.led.wins w with
  | some s, some win =>
    if s.step = .queued then
      (m.updStop w fun s => { s with step := .closing, epoch := win.epoch }).updWin w fun x => { x with epoch := 1 - x.epoch }
    else m
  | _, _ => m

/-- A full stop is held behind the window's earlier ones (R59, step 1). -/
def Mod.queueStop (m : Mod) (w : Nat) (who : Who) (data : List Byte) (mask : Nat) (poison mute : Bool) (hint : Nat)
    (consumer : Option Nat) : Mod :=
  let s : FullStop := { win := w, who := who, data := data, mask := mask, poison := poison, step := .queued, epoch := 0,
                        owed := [], mute := mute, hint := hint, consumer := consumer, promoted := false }
  ({ m with led := { m.led with stops := m.led.stops ++ [s] } }).closeEpoch w

/-- A durable write is accepted (R56): counted in its window's open epoch, its deltas sent, the line in the front cache; it
awaits protection while a holder owes an acknowledgement (R57). `old` is the line's value before. The lines of an adopted
extent are stored nowhere (R108). -/
def Mod.acceptDurable (m : Mod) (l : Nat) (e : Extent) (old new : List Byte) (poison kept : Bool) : Mod :=
  let sl := sliceOf l
  let win := (m.windowOf l).map fun w => (w.1, w.2.epoch)
  let r := m.formDeltas sl (m.spaceOf e) 1 (e.sourceLine l) e.adopted.isSome (xorBytes old new)
  let m := r.1.count (pgHsl sl) 0x105 1
  let m := if r.2.isEmpty then m else
    { m with led := { m.led with dws := m.led.dws ++ [{ slice := sl, win := win, line := l, owed := r.2 }] } }
  if e.adopted.isSome then m else m.storeLine l new poison kept

/-! ## Tiers -/

/-- What a page does with an access: it goes on, waits, or the access is discarded with poison. -/
inductive Ready where
  | go
  | wait (w : Wait)
  | lost
  deriving DecidableEq, Repr

/-- A demotion is abandoned (R251): the new place is freed, at the holder of a peer's slot by PAGE_FREE; the page stays where it
was. -/
def Mod.abandonMove (m : Mod) (p : Nat) : Mod := match mapGet m.tier.moves p with
  | none => m
  | some t =>
    let m := match t with
      | .plain _ => m
      | .packing _ => m
      | .packed f a _ _ => m.freeGrains f a
      | .peer mb slot => (m.request mb 0x0D (leBytes 8 slot)).1.freePlace (.peer mb slot)
    let m := { m with tier := { m.tier with moves := mapDel m.tier.moves p, puts := m.tier.puts.filter fun x => x.1 != p } }
    m.setPage p { m.page p with moving := false }

/-- Pages of DPA space. -/
def dpaPages : Nat := dpaBytes / 4096

/-- A page-map line is uncorrectable (R265): its 8 entries are recovered; what pages that become LOST held returns to the pool at
the end of the next walk. -/
def Mod.mapUncorrectable (m : Mod) (line : Nat) : Mod :=
  let p0 := line * 8 % dpaPages
  let m := (upto 8).foldl (fun (a : Mod) i =>
    let p := p0 + i
    let a := a.abandonMove p
    if (a.backedBy p).isSome then
      (match mapGet a.tier.pages p with
       | some e => a.setPage p { e with keep := false, heat := 0 }
       | none => a)
    else if (a.extAt (p * 4096)).isNone then a
    else
      let st : PageSt := (a.page p).st
      if st = .lost then a else
      let n := if a.get pgMov HdrF.position = 0 then 1 else 2
      let a := { a with tier := { a.tier with limbo := if st = PageSt.unbacked then a.tier.limbo else a.tier.limbo ++ [(st, n)] } }
      let a := a.setPage p { a.page p with st := PageSt.unbacked }
      (a.makeLost p).raise pgMov 11 (movDetail p (a.extOfPage p))) m
  (m.raise (pgHsl (mapSlice p0)) 24 (p0 <<< 12)).raise pgMov 14 (movDetail p0 (m.extOfPage p0))

/-- A unit of a reserved region whose channel is frozen is placed in a pool frame on another channel (R333). -/
def Mod.moveInternal (m : Mod) (u : Nat) : Mod := match (m.allocRuns 1).bind fun l => runsNth l 0 with
  | some f => ({ m with chn := { m.chn with internalFrames := mapPut m.chn.internalFrames u f } }).checkUse
  | none => m

/-- The unit of the reserved regions that holds a line, wherever it has been moved. -/
def regionHome (code index : Nat) : Nat :=
  poolFrames + (((List.range' 1 7).filter fun c => decide (c < code)).foldl (fun a c => a + regionLines c) 0 + index) / 64

/-- A slice looks up a page's entry; a map line on a frozen channel that no cache holds is recovered (R265, R333). -/
def Mod.mapRead (m : Mod) (slice p : Nat) : Mod :=
  let held := (mapGetD m.tier.mapCache slice []).any fun e => e.1 = p
  if !held && m.frozen (chanOf (m.regionUnit 1 (p / 8)).1) then
    ((m.mapUncorrectable (p / 8)).moveInternal (regionHome 1 (p / 8))).mapLookup slice p
  else m.mapLookup slice p

/-- A promotion starts into a frame (R251): MOVING is set and the entry's copies are withdrawn. -/
def Mod.startPromotion (m : Mod) (p f : Nat) : Mod :=
  let m := (m.setPage p { m.page p with moving := true }).mapChanged p
  { m with tier := { m.tier with moves := mapPut m.tier.moves p (.plain f) } }.checkUse

/-- PAGE_READ goes to the holder of a peer-tier page (R257), once for all that wait. -/
def Mod.startFetch (m : Mod) (p mb slot : Nat) : Mod :=
  if m.tier.fetches.any fun f => f.1 = p then m else
  let r := m.request mb 0x0C (leBytes 8 slot)
  { r.1 with tier := { r.1.tier with fetches := r.1.tier.fetches ++ [(p, r.2, mb)] } }

/-- A promotion is under way. -/
def Mod.promoting (m : Mod) (p : Nat) : Bool := match mapGet m.tier.moves p with
  | some (.plain _) => true
  | _ => false

/-- A wait for a page's move (R251, R269). -/
def Mod.moveWait (m : Mod) (l : Nat) : Mod := m.add (pgHsl (sliceOf l)) HslF.moveWaits 1

/-- The lexicon is READY (R279). -/
def Mod.lexReady (m : Mod) (n : Nat) : Bool := n = 0 || (match mapGet m.lex.presets n with
  | some x => x.st = .ready
  | none => false)

/-- The line is one of a frozen channel that the front cache does not hold (R333). -/
def Mod.frozenLine (m : Mod) (l : Nat) : Bool := match (m.page (pageOfLine l)).st with
  | .plain u => m.frozen (chanOf u) && (m.fcGet l).isNone
  | .packed u _ _ _ => m.frozen (chanOf (mapGetD m.chn.internalFrames u u)) && (m.fcGet l).isNone
  | _ => false

/-- The tier service of a write to a volatile line (R249, R251, R252): demotions are abandoned, pages are backed or
promoted, or become LOST for want of a frame (R263). Hint 2 sets KEEP_PLAIN. -/
def Mod.readyWrite (m : Mod) (l hint : Nat) : Mod × Ready :=
  let p := pageOfLine l
  if m.promoting p then (m.moveWait l, .wait .line) else
  let m := m.abandonMove p
  let e := m.page p
  match e.st with
  | .plain _ => (if hint = 2 && (m.backedBy p).isNone then m.setPage p { e with keep := true } else m, .go)
  | .unbacked => match m.allocFrame with
    | some f => ((((m.setPage p { e with st := .plain f, keep := hint = 2 }).mapChanged p).checkUse), .go)
    | none => (m.pageLost p, .lost)
  | .packed _ _ _ lx =>
    if !m.lexReady lx then ((m.makeLost p).raise pgMov 11 (movDetail p (m.extOfPage p)), .lost) else
    if m.frozenLine l then (m, .go) else
    match m.allocFrame with
    | some f => ((m.setPage p { e with keep := e.keep || hint = 2 }).startPromotion p f |>.moveWait l, .wait .line)
    | none => (m.pageLost p, .lost)
  | .peer mb slot => ((m.setPage p { e with keep := e.keep || hint = 2 }).startFetch p mb slot, .wait .fetch)
  | .lost => (m.tally pgMov MovF.lostWrites 0 0 |>.add pgMov MovF.lostWrites 1, .lost)

/-- What a read of a line gives: bytes with poison, or a reason to wait. -/
inductive ReadRes where
  | data (bs : List Byte) (poison : Bool)
  | wait (w : Wait)
  deriving DecidableEq, Repr

/-- Classes an engine accepts: its CLASS_MASK, and none once a region of it is fenced (R287, R440). -/
def Mod.lexMask (m : Mod) (e : Nat) : Nat := if m.fencedIn 221184 128 e = 0 then m.get (pgLex e) LexF.classMask else 0

/-- The engine a lexicon request goes to (R287): of those whose CLASS_MASK accepts the class, the one with the fewest bytes
waiting, the lowest on a tie. -/
def Mod.lexEngine (m : Mod) (cls : Nat) : Nat :=
  let ok := (upto 32).filter fun e => bit (m.lexMask e) cls && m.works (pgLex e) && m.is (pgLex e) HdrF.enable
  let load := fun e => ((mapGetD m.lex.waiting e []).foldl (fun a (j : LexJob) => a + j.bytes.length) 0)
  ok.foldl (fun best e => if load e < load best then e else best) (ok.headD 0)

/-- A preset lexicon's bytes; lexicon 0 is empty (R279). -/
def Mod.lexBytes (m : Mod) (n : Nat) : List Byte := match mapGet m.lex.presets n with
  | some x => x.bytes.take x.len
  | none => []

/-- DETAIL of a LEX error (R291). -/
def lexDetail (code cls slot lex : Nat) : Nat := code ||| (cls <<< 8) ||| (slot <<< 11) ||| (lex <<< 26)

/-- A block of original bytes has been decompressed for a class on an engine (R290, R450). -/
def Mod.lexCountD (m : Mod) (e cls n : Nat) : Mod :=
  (((m.add (pgLex e) LexF.dBlocks 1).add (pgLex e) LexF.dBytesOut n).count (pgLex e) (0x100 + cls) n).count (pgLex e) 0x110 1

/-- A block of `n` original bytes has been compressed to `out` bytes (R290, R450). -/
def Mod.lexCountC (m : Mod) (e cls n out : Nat) (stored : Bool) : Mod :=
  let p := pgLex e
  let m := ((m.add p LexF.cBlocks 1).add p LexF.cBytesIn n).add p LexF.cBytesOut out
  ((if stored then m.add p LexF.stored 1 else m).count p (0x100 + cls) n).count p 0x110 1

/-- A decompression ended with a code other than OK (R276, R290, R291). -/
def Mod.lexFail (m : Mod) (e code cls slot lex : Nat) : Mod :=
  let m := (m.add (pgLex e) LexF.dErrors 1).count (pgLex e) 0x110 1
  let b := if code = 1 then 8 else if 2 ≤ code && code ≤ 6 then 9 else if code = 7 then 10 else 0
  if b = 0 then m else m.raise (pgLex e) b (lexDetail code cls slot lex)

/-- Use is below DEMOTE_ON (R252). -/
def Mod.belowDemote (m : Mod) : Bool := decide (m.usePct < m.get pgMov MovF.demoteOn * 100)

/-- A read raised a PACKED page's HEAT to PROMOTE_HEAT (R252). -/
def Mod.heatPromote (m : Mod) (p : Nat) : Mod :=
  if decide (m.get pgMov MovF.promoteHeat ≤ (m.page p).heat) && m.belowDemote && m.is pgMov HdrF.enable && (mapGet m.tier.moves p).isNone
  then match m.allocFrame with
    | some f => m.startPromotion p f
    | none => m
  else m

/-- The leaf of a line's unit is used where the line is not in the front cache (R302, R305). -/
def Mod.lineLeaf (m : Mod) (l : Nat) : Mod :=
  if (m.fcGet l).isSome then m else
  let u := match (m.page (pageOfLine l)).st with
    | .plain f => some f
    | .packed f _ _ _ => some f
    | _ => none
  match u with
  | some f => if m.frozen (chanOf f) then m else m.leafUse f (m.domainAt l)
  | none => m

/-- The line lies below a lost counter node and is not yet rewritten (R308). -/
def Mod.lineUnverified (m : Mod) (l : Nat) : Bool := match (m.page (pageOfLine l)).st with
  | .plain f => m.unverifiable f
  | .packed f _ _ _ => m.unverifiable f
  | _ => false

/-- The line was touched while its channel was frozen and is not settled (R333, R334). -/
def Mod.touchedLine (m : Mod) (l : Nat) : Bool := match m.placeOf l with
  | some (u, n) => (m.chan (chanOf u)).touched.contains (chanLine (localUnit u) n)
  | none => false

/-- A touched line is settled or written afresh: its mark clears (R334). -/
def Mod.untouch (m : Mod) (l : Nat) : Mod := match m.placeOf l with
  | some (u, n) => m.updChan (chanOf u) fun k => { k with touched := k.touched.filter fun x => x != chanLine (localUnit u) n }
  | none => m

/-- A volatile touched line is settled on its first use after the thaw: written with POISON, its page's lines on the
poison list (R334). -/
def Mod.settleVolatile (m : Mod) (l : Nat) : Mod :=
  ((m.setPoison l true).untouch l).listPoison (pageOfLine l * 4096) 4096

/-- The tier service of a read of a volatile line, or of a durable line whose channel serves it (R249, R252, R333). -/
def Mod.readTier (m : Mod) (l act : Nat) : Mod × ReadRes :=
  let p := pageOfLine l
  if m.promoting p then (m.moveWait l, .wait .line) else
  match (m.page p).st with
  | .unbacked => (m, .data (zeros 64) false)
  | .lost =>
    let m := (m.add (pgHsl (sliceOf l)) HslF.lostReads 1).raise (pgHsl (sliceOf l)) 25 (p <<< 12)
    (m, .data (zeros 64) true)
  | .plain _ =>
    if m.frozenLine l then (m, .data (zeros 64) true)
    else
      let m := if m.touchedLine l && (m.fcGet l).isNone then m.settleVolatile l else m
      let m := m.fcRead l act
      (m, .data (m.line l) (m.isPoisoned l))
  | .packed _ _ _ lx =>
    if !m.lexReady lx then
      ((m.makeLost p).raise pgMov 11 (movDetail p (m.extOfPage p)), .data (zeros 64) true)
    else if m.frozenLine l then (m, .data (zeros 64) true)
    else
      let h := pgHsl (sliceOf l)
      let m := if (m.fcGet l).isSome then m.tally h HslF.fcHits 0x101 1
               else (m.tally h HslF.fcMisses 0x102 1).lexCountD (m.lexEngine 0) 0 4096
      let m := m.fcUse l false false
      ((m.heatPromote p), .data (m.line l) (m.isPoisoned l))
  | .peer mb slot =>
    if (m.fcGet l).isSome then
      (((m.tally (pgHsl (sliceOf l)) HslF.fcHits 0x101 1).fcUse l false false), .data (m.line l) (m.isPoisoned l))
    else ((m.startFetch p mb slot).tally (pgHsl (sliceOf l)) HslF.fcMisses 0x102 1, .wait .fetch)

/-! ## Reconstruction -/

/-- A line of the module's own stripe space: zero where no extent is assigned (R87). -/
def Mod.unitLine (m : Mod) (u n : Nat) : List Byte :=
  match m.fab.extents.find? fun e => e.2.adopted.isNone && (match e.2.stripe with
      | some g => decide (g * 512 ≤ u) && decide (u < g * 512 + e.2.size / 4096)
      | none => false) with
  | some (_, e) => m.line (e.base / 64 + (u - e.stripe.getD 0 * 512) * 64 + n)
  | none => zeros 64

/-- A stripe as STRIPE_HOLD names it: stripes of a re-stripe's target carry bit 31 (log entry 29). -/
def stripeKey (store s : Nat) : Nat := s + store * 2 ^ 31

/-- Body of STRIPE_HOLD and HOLD_RELEASE (R135). -/
def holdBody (store stripe line : Nat) : List Byte := leBytes 4 (stripeKey store stripe) ++ leBytes 1 line

/-- A geometry by its parity store. -/
def geoBy (g : GMap) (store : Nat) : Geo :=
  if store = 1 then { n := g.n, k := g.tk, m := g.tm, store := 1 } else { n := g.n, k := g.k, m := g.m, store := 0 }

/-- The geometry a reconstruction works in. -/
def Recon.geo (r : Recon) (g : GMap) : Geo := geoBy g r.store

/-- A delta of this module for a line is unacknowledged: its own stripe space's, or that of the member it stands in for. -/
def Mod.lineOwed (m : Mod) (standin : Bool) (line : Nat) : Bool :=
  m.grp.outs.any fun o => o.2.unacked.any fun d => d.line = line && d.standin = standin

/-- This module's deltas for a line of a member's unit are unacknowledged: of its own unit, or of one it stands in for. -/
def Mod.unitOwed (m : Mod) (x u line : Nat) : Bool :=
  (x = m.own && m.lineOwed false (u * 64 + line)) || (m.standsFor = some x && m.lineOwed true (u * 64 + line))

/-- A hold is taken for a requester, once (R107): a further request for it takes the newer tag. -/
def Mod.takeHold (m : Mod) (requester key line : Nat) (answer : Option Nat) : Mod :=
  let l := m.led.holds.filter fun h => !(h.requester = requester && h.stripe = key && h.line = line)
  { m with led := { m.led with holds := l ++ [{ requester := requester, stripe := key, line := line, answer := answer }] } }

/-- A hold ends. -/
def Mod.dropHold (m : Mod) (requester key line : Nat) : Mod :=
  { m with led := { m.led with holds := m.led.holds.filter fun h => !(h.requester = requester && h.stripe = key && h.line = line) } }

/-- STRIPE_HOLD goes to every available data member of a reconstruction's stripe (R107, steps 1 and 2): this module's own line is
held and in hand once its deltas are acknowledged; a wanted line of its own, or of the member it stands in for, waits for them too. -/
def Mod.askData (m : Mod) (g : GMap) (r : Recon) : Mod × Recon :=
  let q := r.geo g
  let wanted := dataUnit q.n q.k r.stripe r.want
  let r := if r.want < q.k && m.unitOwed wanted.1 wanted.2 r.line then { r with out := r.out ++ [(m.own, 0, r.want)] } else r
  let data := (m.availUnits g q r.stripe).filter fun j => decide (j < q.k) && j != r.want && !r.bad.contains j && !(r.got.any fun e => e.1 = j)
  data.foldl (fun (a : Mod × Recon) j =>
    let d := dataUnit q.n q.k r.stripe j
    if d.1 = m.own then
      let m := a.1.takeHold m.own (stripeKey r.store r.stripe) r.line (some 0)
      if a.1.unitOwed d.1 d.2 r.line then (m, { a.2 with out := a.2.out ++ [(m.own, 0, j)] })
      else (m, { a.2 with got := a.2.got ++ [(j, m.unitLine d.2 r.line)] })
    else
      let t := a.1.request d.1 0x07 (holdBody r.store r.stripe r.line)
      (t.1, { a.2 with out := a.2.out ++ [(d.1, t.2, j)], held := a.2.held ++ [d.1] })) (m, { r with asked := true })

/-- A line of this module's parity store. -/
def Mod.parityLine (m : Mod) (store unit line : Nat) : List Byte := Memory.bytes m.grp.parity (parityAddr store unit line) 64

/-- Body of LINE_READ (R135). -/
def lineReadBody (store unit line : Nat) : List Byte := leBytes 4 (stripeKey store unit) ++ leBytes 1 line

/-- The parity lines a reconstruction still needs are read (R107, step 3): this module's own at once, others with LINE_READ. -/
def Mod.askParity (m : Mod) (g : GMap) (r : Recon) : Mod × Recon :=
  let q := r.geo g
  let ps := (m.availUnits g q r.stripe).filter fun j => decide (q.k ≤ j) && j != r.want && !r.bad.contains j && !(r.got.any fun e => e.1 = j)
  (ps.take (q.k - r.got.length)).foldl (fun (a : Mod × Recon) j =>
    let d := parityUnit q.n q.k q.m r.stripe (j - q.k)
    if d.1 = m.own then (a.1, { a.2 with got := a.2.got ++ [(j, a.1.parityLine q.store d.2 r.line)] })
    else
      let t := a.1.request d.1 0x0A (lineReadBody q.store d.2 r.line)
      (t.1, { a.2 with out := a.2.out ++ [(d.1, t.2, j)] })) (m, r)

/-- Start reconstructing a unit's line at a position of a stripe (R107). False where the stripe lacks k available units besides
(R103). -/
def Mod.startRecon (m : Mod) (why : ReconFor) (q : Geo) (s want line : Nat) : Mod × Bool :=
  match m.grp.map with
  | none => (m, false)
  | some g =>
    let avail := (m.availUnits g q s).filter fun i => i != want
    if avail.length < q.k then (m, false)
    else if m.grp.recons.any fun r => r.why = why then (m, true)
    else
      let r0 : Recon := { stripe := s, store := q.store, line := line, why := why, want := want, got := [], out := [], bad := [],
                          asked := false, held := [] }
      let c := m.askData g r0
      let c := if c.2.out = [] then c.1.askParity g c.2 else c
      let m := c.1.count pgGrp 0x101 1
      ({ m with grp := { m.grp with recons := m.grp.recons ++ [c.2] } }, true)

/-- Start reconstructing a line of a durable extent (R108, R333): the lost member's for an adopted extent. -/
def Mod.reconLine (m : Mod) (why : ReconFor) (l : Nat) (e : Extent) : Mod × Bool :=
  match m.grp.map with
  | none => (m, false)
  | some g =>
    let u := e.sourceLine l / 64
    let q := m.geoOf g u
    let sj := stripeOf q.n q.k (m.spaceOf e) u
    m.startRecon why q sj.1 sj.2 (l % 64)

/-- DETAIL of a GRP error (R116). -/
def Mod.grpDetail (m : Mod) (x : Nat) : Nat := x ||| (m.groupEpoch <<< 4)

/-- A line cannot be recovered (R103): it enters the poison list and BEYOND_TOLERANCE is set. -/
def Mod.beyond (m : Mod) (l : Nat) : Mod :=
  ((m.listPoison (l * 64) 64).raise pgGrp 12 (m.grpDetail m.own)).event .failure .beyondTolerance [l * 64]

end Sys2Proof.Machine
end

