-- ==== Sys2Proof/Machine/Steward.lean ====
section
/-!
DEFINITION. Machine/Steward.lean: the steward function (chapter 07): designation, bus-master enable, FLR, MSI-X, power
state, the firmware fetch, and the firmware commands of the mailbox.
-/
namespace Sys2Proof.Machine

open Host

/-- Tags of firmware reads that are free (R204, R206): 16 of them in all. -/
def Mod.freeTags (m : Mod) : List Nat :=
  let used := (match m.stw.fetch with | some f => f.out.map Prod.fst | none => []) ++ m.stw.quar
  (upto 16).filter fun t => !used.contains t

/-- Reads are issued while the image has bytes left and tags are free: at most 512 B each (R204). -/
def Mod.fetchIssue (m : Mod) : List Nat → Mod
  | [] => m
  | tag :: tags =>
    match m.stw.fetch with
    | none => m
    | some f =>
      if f.next < f.len then
        let n := min 512 (f.len - f.next)
        let f' := { f with next := f.next + n, out := f.out ++ [(tag, n)] }
        let m := { m with stw := { m.stw with fetch := some f' } }
        Mod.fetchIssue ((m.count pgStw 0x101 1).send (.fwRead tag (f.addr + f.next) n)) tags
      else m

/-- A fetch ends with a RESULT (R204): reads outstanding are quarantined (R206), STATE is DONE or ERROR, FW_ABORTED or
FW_FAILED is set (R214), and the page signals. -/
def Mod.fetchEnd (m : Mod) (result : Nat) : Mod :=
  match m.stw.fetch with
  | none => m
  | some f =>
    let m := { m with stw := { m.stw with fetch := none, quar := m.stw.quar ++ f.out.map Prod.fst } }
    let m := ((m.set pgStw StwF.state (if result = 0 then 4 else 5)).set pgStw StwF.result result).set pgStw StwF.start 0
    let m := if result = 0 then m.progress pgStw 0 10000 f.len else m.set pgStw HdrF.opState 3
    let m := if result = 0 then m else m.raise pgStw (if result ≤ 3 then 8 else 9) result
    m.when (m.is pgStw HdrF.signalEn) fun m => m.signal (m.get pgStw HdrF.vector)

/-- START is written (R204, R205): refused while a fetch or a Transfer FW runs, bus-master enable is 0 or MSI-X is
disabled; a wrong address, length or slot ends the fetch with INVALID; else the reads start. -/
def Mod.fetchStart (m : Mod) : Mod :=
  if m.stw.fetch.isSome || m.stw.transfer.isSome || !m.is pgStw StwF.bme || !m.is pgStw StwF.msixEn then m.refuse pgStw
  else
    let addr := m.get pgStw StwF.fwAddr * 4096
    let len := m.get pgStw StwF.fwLen
    let slot := m.get pgStw StwF.slot
    let f : Fetch := { addr := addr, len := len, slot := slot, next := 0, staged := 0, out := [] }
    let m := { m with stw := { m.stw with fetch := some f } }
    let m := ((m.set pgStw StwF.start 1).set pgStw StwF.state 1).progress pgStw 1 0 0
    if len < 4096 || 16777216 < len || len % 4 ≠ 0 || (slot ≠ 1 && slot ≠ 2) || slot = m.get pgGlb GlbF.fwSlot then
      m.fetchEnd 7
    else m.fetchIssue m.freeTags

/-- ABORT is written: a running fetch ends with ABORTED_SW (R204, R206). -/
def Mod.fetchAbort (m : Mod) : Mod := (m.fetchEnd 3).set pgStw StwF.abort 0

/-- FW_FETCH_START: R204, R205. -/
def execFwFetchStart (s : State) : Outcome State Fault Refusal := s.onM fun m => m.fetchStart

/-- FW_FETCH_ABORT: R204, R206. -/
def execFwFetchAbort (s : State) : Outcome State Fault Refusal := s.onM fun m => m.fetchAbort

/-- FW_READ_COMPLETION: a completion of a quarantined tag is discarded, counted and sets LATE_CPL (R206); one of an
outstanding tag is staged, or ends the fetch with CPL_ERROR (R204). -/
def execFwReadCompletion (tag : Nat) (ok : Bool) (len : Nat) (s : State) : Outcome State Fault Refusal :=
  s.onM fun m =>
    if m.stw.quar.contains tag then
      let m := { m with stw := { m.stw with quar := m.stw.quar.filter fun t => t != tag } }
      (m.add pgStw StwF.stwLateCpl 1).raise pgStw 10 (tag <<< 8)
    else match m.stw.fetch with
      | none => m
      | some f =>
        if (f.out.map Prod.fst).contains tag then
          let f := { f with out := f.out.filter fun o => o.1 != tag }
          let m := { m with stw := { m.stw with fetch := some f } }
          if ok then
            let f := { f with staged := f.staged + len }
            let m := { m with stw := { m.stw with fetch := some f } }
            let m := m.progress pgStw 1 (min 10000 (f.staged * 10000 / f.len)) f.staged
            let m := m.fetchIssue m.freeTags
            m.when (decide (f.len ≤ f.staged)) fun m => m.set pgStw StwF.state 2
          else m.fetchEnd 5
        else m

/-- FW_CPL_TIMEOUT: an outstanding read's timeout ends the fetch with CPL_TIMEOUT; a quarantined tag is freed (R206). -/
def execFwCplTimeout (tag : Nat) (s : State) : Outcome State Fault Refusal :=
  s.onM fun m =>
    if m.stw.quar.contains tag then
      { m with stw := { m.stw with quar := m.stw.quar.filter fun t => t != tag } }
    else match m.stw.fetch with
      | none => m
      | some f =>
        if (f.out.map Prod.fst).contains tag then
          let f := { f with out := f.out.filter fun o => o.1 != tag }
          ({ m with stw := { m.stw with fetch := some f } }).fetchEnd 4
        else m

/-- An image is written to a boot-flash slot. -/
def Mod.putSlot (m : Mod) (slot : Nat) (x : FwSlot) : Mod :=
  { m with boot := if slot = 1 then { m.boot with slot1 := x } else { m.boot with slot2 := x } }

/-- A boot-flash slot. -/
def Mod.slotOf (m : Mod) (slot : Nat) : FwSlot := if slot = 1 then m.boot.slot1 else m.boot.slot2

/-- FW_FETCH_DONE: the staged image authenticates and is written to the slot, or fails and leaves it unchanged (R204). -/
def execFwFetchDone (good : Bool) (version : Nat) (s : State) : Outcome State Fault Refusal :=
  s.onM fun m =>
    match m.stw.fetch with
    | none => m
    | some f =>
      if f.staged < f.len then m
      else if good then (m.putSlot f.slot { image := true, good := true, version := version }).fetchEnd 0
      else m.fetchEnd 6

/-- BME_CLEAR: bus-master enable is cleared; a running fetch ends with ABORTED_BME (R207). -/
def execBmeClear (s : State) : Outcome State Fault Refusal :=
  s.onM fun m => (m.set pgStw StwF.bme 0).fetchEnd 1

/-- BME_SET: bus-master enable is set; pending messages on unmasked vectors go out (R207). -/
def execBmeSet (s : State) : Outcome State Fault Refusal :=
  s.onM fun m => (m.set pgStw StwF.bme 1).msixRelease

/-- A field of a block page returns to its reset value on FLR (R28, R209): RW fields and counters, the event selectors
with their OVF, but for module configuration and the PMU page's gate and snapshot controls. -/
def flrResets (p : PageId) (f : Fld) : Bool :=
  (f.acc = .rw || f.acc = .cnt || f = HdrF.evt0Ovf || f = HdrF.evt1Ovf || f = HdrF.evt2Ovf || f = HdrF.evt3Ovf) &&
  !cfgField (pageAddr p) f &&
  !(p.ty = .pmu && (f = PmuF.mode || f = PmuF.freezeOnOvf || f = PmuF.startTick || f = PmuF.stopTick || f = PmuF.snapSel))

/-- The register store after the FLR of R209. -/
def Mod.flrRegs (m : Mod) : Mod :=
  { m with regs := m.regs.filter fun e =>
      match fieldAt e.1 with
      | some (p, f) => !flrResets p f
      | none => true }

/-- The steward function's own state returns to reset (R208): configuration space, MSI-X table with every vector masked,
pending bits; a fetch ends with `result`. -/
def Mod.functionReset (m : Mod) (result : Nat) : Mod :=
  let m := m.fetchEnd result
  let m := (((m.set pgStw StwF.bme 0).set pgStw StwF.msixEn 0).set pgStw StwF.funcMask 0).set pgStw StwF.d3hot 0
  { m with stw := { m.stw with bars := [], msix := [], pend := [] } }

/-- An FLR (R208, R209): the function resets, block-page fields take the values of R209, FLR_COUNT advances, and
configuration requests are retried until it completes. -/
def Mod.flr (m : Mod) : Mod :=
  let m := ((m.functionReset 2).flrRegs).add pgStw StwF.flrCount 1
  { m with stw := { m.stw with flr := true } }

/-- FLR: R208 to R210. -/
def execFlr (s : State) : Outcome State Fault Refusal :=
  s.onM fun m => m.when (m.is pgStw StwF.valid) Mod.flr

/-- FLR_DONE: configuration requests are answered again (R208). -/
def execFlrDone (s : State) : Outcome State Fault Refusal :=
  s.onM fun m => { m with stw := { m.stw with flr := false } }

/-- MSIX_ENABLE_CHANGE: MSI-X enable and the function mask change; messages held back go out when they may (R196). -/
def execMsixEnableChange (enable mask : Bool) (s : State) : Outcome State Fault Refusal :=
  s.onM fun m => ((m.set pgStw StwF.msixEn (b2n enable)).set pgStw StwF.funcMask (b2n mask)).msixRelease

/-- A vector's mask bit is written. -/
def Mod.vectorMask (m : Mod) (v : Nat) (masked : Bool) : Mod :=
  let e := mapGetD m.stw.msix v { addr := 0, data := 0, masked := true }
  ({ m with stw := { m.stw with msix := mapPut m.stw.msix v { e with masked := masked } } }).msixRelease

/-- MSIX_VECTOR_UNMASK: a pending message goes out and its pending bit clears (R196). -/
def execMsixVectorUnmask (v : Nat) (s : State) : Outcome State Fault Refusal :=
  s.onUnit (decide (v < 2048)) fun m => m.vectorMask v false

/-- POWER_STATE_CHANGE: D0 or D3hot (R193); messages pending in D3hot go out on return to D0 (R211). -/
def execPowerStateChange (d3hot : Bool) (s : State) : Outcome State Fault Refusal :=
  s.onM fun m => (m.set pgStw StwF.d3hot (b2n d3hot)).msixRelease

/-- The engine leads a host port in direct mode (R190). -/
def Mod.leadsDirect (m : Mod) (port : Nat) : Bool :=
  decide (port < 96) && decide (m.get (pgPrt port) HdrF.roleCode = 1) && decide (m.get (pgPrt port) PrtF.hostMode = 0)

/-- STW_DESIGNATE: R190, R192. The completion comes first; then the function ends on the old port as an FLR would, with
a running fetch ABORTED_SW (R211), the new port takes it, the role epoch advances and STEWARD_MOVED is set. -/
def execStwDesignate (via : Via) (port : Nat) (s : State) : Outcome State Fault Refusal :=
  s.onM fun m => m.onMailbox via fun m =>
    if port = 0xFF then
      let m := (m.reply via .success []).functionReset 3
      ((m.set pgStw StwF.valid 0).newRole pgStw 0).raise pgStw 11 0
    else if m.leadsDirect port then
      let m := (m.reply via .success []).functionReset 3
      (((m.set pgStw StwF.stewardPort port).set pgStw StwF.valid 1).newRole pgStw 1).raise pgStw 11 0
    else m.reply via .invalidInput []

/-- GET_FW_INFO: slots supported, the running slot, the slot Activate FW named, and each slot's version (R201, R204). -/
def execGetFwInfo (via : Via) (s : State) : Outcome State Fault Refusal :=
  s.onM fun m => m.when (m.mailboxRom via) fun m =>
    m.replyVals via .success [2, m.get pgGlb GlbF.fwSlot, m.boot.named.getD 0, b2n m.boot.slot1.image, m.boot.slot1.version,
      b2n m.boot.slot2.image, m.boot.slot2.version]

/-- TRANSFER_FW: an image is pushed through the payload (R201, R204). Actions: 0 whole image, 1 first part, 2 next part,
3 last part, 4 abort. A slot out of range or the running one is refused; a complete image that authenticates is
written to its slot, one that does not leaves it unchanged. -/
def execTransferFw (via : Via) (action slot off len : Nat) (good : Bool) (version : Nat) (s : State) :
    Outcome State Fault Refusal :=
  s.onM fun m => m.when (m.mailboxRom via) fun m =>
    let finish (m : Mod) : Mod :=
      let m := { m with stw := { m.stw with transfer := none } }
      if good then (m.putSlot slot { image := true, good := true, version := version }).reply via .success []
      else m.reply via .failure []
    if m.stw.fetch.isSome then m.reply via .busy []
    else if action = 4 then ({ m with stw := { m.stw with transfer := none } }).reply via .success []
    else if (slot ≠ 1 && slot ≠ 2) || (slot = m.get pgGlb GlbF.fwSlot && !m.glb.halted) then m.reply via .invalidInput []
    else match action, m.stw.transfer with
      | 0, none => finish m
      | 1, none => ({ m with stw := { m.stw with transfer := some (slot, off + len) } }).reply via .success []
      | 2, some (k, _) =>
        if k = slot then ({ m with stw := { m.stw with transfer := some (slot, off + len) } }).reply via .success []
        else m.reply via .invalidInput []
      | 3, some (k, _) => if k = slot then finish m else m.reply via .invalidInput []
      | 0, some _ => m.reply via .busy []
      | 1, some _ => m.reply via .busy []
      | _, _ => m.reply via .invalidInput []

/-- ACTIVATE_FW: names a slot for the next module reset; online activation is refused with Invalid Input (R205). -/
def execActivateFw (via : Via) (online : Bool) (slot : Nat) (s : State) : Outcome State Fault Refusal :=
  s.onM fun m => m.when (m.mailboxRom via) fun m =>
    if online || (slot ≠ 1 && slot ≠ 2) || !(m.slotOf slot).image then m.reply via .invalidInput []
    else ({ m with boot := { m.boot with named := some slot } }).reply via .success []

end Sys2Proof.Machine
end

