-- ==== Sys2Proof/Machine/Requests.lean ====
section
/-!
DEFINITION. Machine/Requests.lean: the way of a request through the module: reception (R165, R169, R180), its grant
(R174 to R176), its ledger entry (R58, R355, R373), its line's order (R216), the directory (R226), its data, its answer.
-/
namespace Sys2Proof.Machine

/-! ## Messages on host links -/

/-- A message of a host is received: one flit, a 16 B header and its data (R12, R187, R450; log entry 18). -/
def Mod.hostRx (m : Mod) (port data : Nat) : Mod :=
  let p := pgPrt port
  let m := (m.add p PrtF.hostFlitsRx 1).count p 0x101 (16 + data)
  if data = 0 then m else m.count p 0x103 data

/-- A message goes to a host. -/
def Mod.hostTx (m : Mod) (port data : Nat) (o : Out) : Mod :=
  let p := pgPrt port
  let m := (m.add p PrtF.hostFlitsTx 1).count p 0x100 (16 + data)
  (if data = 0 then m else m.count p 0x102 data).send o

/-- A host port takes new requests: the die runs, no save has stopped its credit (R400), the port is in the host role and
its link is up and not draining (R183). -/
def Mod.hostOpen (m : Mod) (port : Nat) : Bool :=
  m.runs && !m.saving && m.hostRole port && m.get (pgPrt port) PrtF.hostLinkState = 2

/-- The host that a request came from, and the request's response is still wanted. -/
def Req.wants (r : Req) : Option HostSrc := match r.who with
  | .host src _ => if r.mute then none else some src
  | _ => none

/-- The context a request comes from: none for the module's own. -/
def Req.ctx (r : Req) : Option Nat := match r.who with
  | .host _ c => some c
  | _ => none

/-- A response that a link loss or a context reset discards is counted at its port (R181). -/
def Mod.discardRsp (m : Mod) (r : Req) : Mod := match r.who with
  | .host src _ => m.add (pgPrt src.port) PrtF.hostRspDiscarded 1
  | _ => m

/-- The request writes. -/
def Req.writes (r : Req) : Bool := match r.op with
  | .wr .. => true
  | .wb .. => true
  | _ => false

/-- The request reads. -/
def Req.reads (r : Req) : Bool := match r.op with
  | .rdShared | .rdOwn | .rdCur => true
  | _ => false

/-! ## Sub-operations of verbs (R355) -/

/-- Change a verb of a pair. -/
def Mod.updVerb (m : Mod) (pair ser : Nat) (f : Verb → Verb) : Mod :=
  { m with rng := mapUpd m.rng pair fun p => { p with verbs := p.verbs.map fun v => if v.ser = ser then f v else v } }

/-- A verb of a pair by its serial number. -/
def Mod.verb (m : Mod) (pair ser : Nat) : Option Verb := (mapGet m.rng pair).bind fun p => p.verbs.find? fun v => v.ser = ser

/-- A verb has completed: its status and results, and its place among the pair's completions (R354). -/
def Mod.verbOutcome (m : Mod) (pair ser st r0 r1 : Nat) : Mod :=
  { m with rng := mapUpd m.rng pair fun p =>
      if p.verbs.any fun v => v.ser = ser && v.outcome.isNone then
        { p with done := p.done + 1,
                 verbs := p.verbs.map fun v => if v.ser = ser then { v with outcome := some (st, r0, r1), order := p.done } else v }
      else p }

/-- A line read for a verb. -/
def Mod.verbGot (m : Mod) (pair ser line : Nat) (data : List Byte) (poison : Bool) : Mod :=
  m.updVerb pair ser fun v => { v with got := mapPut v.got line (data, poison) }

/-- A line written for a verb. -/
def Mod.verbWrote (m : Mod) (pair ser line : Nat) : Mod := m.updVerb pair ser fun v => { v with wrote := v.wrote ++ [line] }

/-- A sub-operation of a verb is turned away at its slice (R346). -/
def Mod.verbBad (m : Mod) (pair ser line : Nat) : Mod := m.updVerb pair ser fun v => { v with bad := v.bad ++ [line] }

/-- The request is the write of a FULL_STOP verb to its stop line (R350). -/
def Mod.stopVerb (m : Mod) (r : Req) : Bool := match r.who with
  | .verb p i => (match m.verb p i with
    | some v => r.writes && v.step = .write && leAt v.entry 0 1 = 9
    | none => false)
  | _ => false

/-- Activity the channel traffic of a request is charged to (R367). -/
def Req.act (r : Req) : Nat := match r.who with
  | .verb .. => 7
  | _ => 0

/-- A read is answered with data (R218). -/
def Mod.answerRead (m : Mod) (r : Req) (grant : MetaVal) (data : List Byte) (poison : Bool) : Mod :=
  match r.who, r.wants with
  | .verb p i, _ => m.verbGot p i r.line data poison
  | _, some src => m.hostTx src.port 64 (.memData src grant data poison)
  | _, none => m.discardRsp r

/-- A write is completed. -/
def Mod.answerWrite (m : Mod) (r : Req) : Mod :=
  match r.who, r.wants with
  | .verb p i, _ => m.verbWrote p i r.line
  | _, some src => m.hostTx src.port 0 (.memDone src)
  | _, none => m.discardRsp r

/-! ## Access violations (R175, R176) -/

/-- DETAIL of a host-role PRT error (R188). -/
def prtDetail (ctx ext epoch : Nat) : Nat := ctx ||| (ext <<< 12) ||| (epoch <<< 28)

/-- A further request of a recorded kind: the record's REPEAT, its last value, rises and saturates. -/
def Mod.repeat_ (m : Mod) (handle : Nat) : Mod :=
  let up := fun (r : EvRec) => if r.handle = handle && r.sev = .warning then
      { r with args := r.args.dropLast ++ [min (2 ^ 32 - 1) (r.args.getLastD 0 + 1)] } else r
  { m with mgmt := { m.mgmt with logs := { m.mgmt.logs with recs := m.mgmt.logs.recs.map up } } }

/-- An access-violation record (R176): one per context, extent and epoch; for reasons 3 and 6 one per context and reason;
further ones are counted in it until its log is read. Arguments are the record's fields in order. -/
def Mod.violRecord (m : Mod) (ctx reason opcode ext epoch gepoch port addr : Nat) : Mod :=
  let same := fun (v : Viol) => v.ctx = ctx && (if reason = 3 || reason = 6 || reason = 4 then v.reason = reason && v.ext = ext && v.epoch = epoch
    else (v.reason = 1 || v.reason = 2) && v.ext = ext && v.epoch = epoch)
  let live := fun (v : Viol) => m.mgmt.logs.recs.any fun r => r.handle = v.handle && r.sev = .warning
  match m.fab.seen.find? fun v => same v && live v with
  | some v => m.repeat_ v.handle
  | none =>
    let h := m.mgmt.logs.next
    let m := m.event .warning .accessViolation [ctx, reason, opcode, ext, epoch, gepoch, port, addr, 0]
    let v : Viol := { ctx := ctx, reason := reason, ext := ext, epoch := epoch, handle := h }
    if m.mgmt.logs.next = h then m
    else { m with fab := { m.fab with seen := (m.fab.seen.filter fun x => !same x) ++ [v] } }

/-- A violation of a verb is recorded with its owner as host (R346): at the port that carried the owner's last request, and none of a
port's own counts and bits moves; the record's port is open where the owner has none (log entry 4). -/
def Mod.verbViol (m : Mod) (pair reason opcode ext epoch gepoch addr : Nat) : Mod :=
  let c := m.at_ (0x800000 + 64 * pair) RingEF.ownerCtx
  m.violRecord c reason opcode ext epoch gepoch ((m.snoopPortOf c).getD (Config.freeOf 346 [c, addr])) addr

/-- OPCODE of an access-violation record (R176). -/
def Mod.violOpcode (m : Mod) (r : Req) : Nat := match r.op with
  | .wb .. => 4
  | .wr .. => if (m.stopOf r.line).isSome then 3 else 2
  | _ => 1

/-- A request that its grant does not carry (R175): its port's bit, count and record; a read is completed with poison, a
write completed and discarded. -/
def Mod.reject (m : Mod) (r : Req) (src : HostSrc) (ctx reason ext epoch gepoch addr : Nat) : Mod :=
  let p := pgPrt src.port
  let m := if reason = 1 then m.raise p 13 (prtDetail ctx ext epoch)
           else if reason = 2 || reason = 6 then m.raise p 14 (prtDetail ctx ext epoch)
           else if reason = 3 then (m.add p PrtF.hostDecodeMiss 1).raise p 15 (prtDetail ctx 0 0)
           else m
  let m := if reason = 1 || reason = 2 || reason = 6 then
      m.add p (if r.reads then PrtF.hostStaleReads else PrtF.hostStaleWrites) 1 else m
  let m := m.violRecord ctx reason (m.violOpcode r) ext epoch gepoch src.port addr
  if r.reads then m.answerRead r .i (zeros 64) true else m.answerWrite r

/-- What the check of R174 finds: the extent and epoch, or the reason of R176 with the record's fields. -/
inductive Checked where
  | ok (ext epoch : Nat)
  | bad (reason ext epoch gepoch : Nat)
  deriving DecidableEq, Repr

/-- The check of R174 for a context and a DPA. -/
def Mod.checkGrant (m : Mod) (ctx dpa : Nat) : Checked :=
  match m.extAt dpa with
  | none => .bad 6 0 0 0
  | some (n, e) => match m.grant ctx n with
    | none => .bad 2 n e.epoch 0
    | some g => match g.st with
      | .reserved => .bad 2 n e.epoch 0
      | .withdrawn => .bad 1 n e.epoch g.epoch
      | .active => if g.epoch = e.epoch then .ok n e.epoch else .bad 1 n e.epoch g.epoch

/-- The same with what a context that is not enabled (R166) or a port without its IDE (R180) makes of it: NOT_GRANTED. -/
def Mod.checkReq (m : Mod) (src : HostSrc) (ctx dpa : Nat) : Checked :=
  if !m.fab.ctxOn.contains ctx || (m.is (pgPrt src.port) PrtF.hostIdeRequired && !(m.hp src.port).ideMem) then
    match m.extAt dpa with
    | none => .bad 6 0 0 0
    | some (n, e) => .bad 2 n e.epoch 0
  else m.checkGrant ctx dpa

/-- A request of a context that is not enabled sets UNKNOWN_HOST (R166). -/
def Mod.unknownHost (m : Mod) (src : HostSrc) (ctx : Nat) : Mod :=
  if m.fab.ctxOn.contains ctx then m else m.raise (pgPrt src.port) 16 (prtDetail ctx 0 0)

/-! ## The book of requests -/

/-- A request waits, keeping its place or taking the last one. -/
def Mod.park (m : Mod) (r : Req) (w : Wait) : Mod :=
  let r := { r with wait := w }
  let l := m.led.reqs
  { m with led := { m.led with reqs := if l.any fun q => q.id = r.id then l.map fun q => if q.id = r.id then r else q else l ++ [r] } }

/-- A request is done with. -/
def Mod.finish (m : Mod) (r : Req) : Mod := { m with led := { m.led with reqs := m.led.reqs.filter fun q => q.id != r.id } }

/-- A new request with its number. -/
def Mod.newReq (m : Mod) (who : Who) (line : Nat) (op : ReqOp) (hint : Nat) (consumer : Option Nat) : Mod × Req :=
  let r : Req := { id := m.led.next, who := who, line := line, op := op, hint := hint, consumer := consumer, ext := none,
                   wait := .ingress, mute := false }
  ({ m with led := { m.led with next := m.led.next + 1 } }, r)

/-! ## Holds (R107) -/

/-- The stripes a line's data unit lies in: in the geometry in force, and in the target's during a re-stripe with bit 31 set. -/
def Mod.stripesOf (m : Mod) (e : Extent) (l : Nat) : List Nat := match m.grp.map with
  | none => []
  | some g =>
    let u := e.sourceLine l / 64
    let i := m.spaceOf e
    (stripeOf g.n g.k i u).1 :: (if g.restripe then [stripeKey 1 (stripeOf g.n g.tk i u).1] else [])

/-- A hold stops writes to the line. -/
def Mod.lineHeld (m : Mod) (l : Nat) : Bool := match m.extAt (l * 64) with
  | some (_, e) => (m.extReg e).durable && (let ss := m.stripesOf e l
      m.led.holds.any fun h => ss.contains h.stripe && (h.line = 255 || h.line = l % 64))
  | none => false

/-! ## The directory's part of a transaction (R226) -/

/-- A stage goes on, or the request waits. -/
inductive Stage_ where
  | go
  | wait (w : Wait)
  deriving DecidableEq, Repr

/-- The line lies in an HDM-DB extent (R215). -/
def Mod.coherent (m : Mod) (l : Nat) : Bool := match m.extAt (l * 64) with
  | some (_, e) => (m.extReg e).hdmDb
  | none => false

/-- The line maps to a lost set of its slice: a memory set below 524,288 (R234), or an on-die set above (R224, R435). -/
def inSet (set l : Nat) : Bool := if set < 524288 then sliceLine l % 524288 = set else sliceLine l % 2048 = set - 524288

/-- The line's directory set is lost and recovers (R236, R435). -/
def Mod.setLost (m : Mod) (l : Nat) : Bool := m.dir.lost.any fun s => s.slice = sliceOf l && inSet s.set l

/-- Contexts to snoop before the request goes on, and whether by BISnpInv (R226). -/
def Mod.toSnoop (m : Mod) (r : Req) (e : DirEnt) : List Nat × Bool :=
  match e.st, r.op with
  | _, .wb .. => ([], false)
  | .owned o, .rdShared => if r.ctx = some o then ([], false) else ([o], false)
  | .owned o, .rdCur => if r.ctx = some o then ([], false) else ([o], false)
  | .owned o, _ => if r.ctx = some o then ([], false) else ([o], true)
  | _, .rdShared => ([], false)
  | _, .rdCur => ([], false)
  | _, _ => ((m.holders e).filter fun c => r.ctx != some c, true)

/-- A BISnpInv round has been answered (R225): a SHARED_COARSE entry is emptied but for the requester. -/
def Mod.afterRound (m : Mod) (r : Req) : Mod := m.updEnt r.line fun e => match e.st with
  | .coarse gs => match r.op, r.ctx with
    | .rdOwn, some c => if gs.contains (c / 64) then some { e with st := .ptr [c] } else none
    | .wr .., some c => if gs.contains (c / 64) then some { e with st := .ptr [c] } else none
    | .rdShared, _ => some e
    | .rdCur, _ => some e
    | _, _ => none
  | _ => some e

/-- The directory's part before the data: entries come on die, tenures are waited for, holders are snooped. -/
def Mod.dirStage (m : Mod) (r : Req) : Mod × Stage_ :=
  if !m.coherent r.line then (m, .go) else
  match r.op with
  | .wb .. => (m, .go)
  | _ =>
    let h := pgHsl (sliceOf r.line)
    let t := m.dirTouch r.line
    if !t.2 then (t.1.add h HslF.pinWaits 1, .wait .line) else
    let m := t.1
    match m.dirEnt r.line with
    | none =>
      if r.op = .rdShared || r.op = .rdOwn then
        let q := m.dirRoom r.line
        if q.2 then (q.1, .go) else (q.1.add h HslF.pinWaits 1, .wait .line)
      else (m, .go)
    | some e =>
      let s := m.toSnoop r e
      if s.1 = [] then (m, .go)
      else if e.inTenure m.tick then (m.add h HslF.tenureWaits 1, .wait .tenure)
      else
        let q := (m.setBisnp r.line).sendSnoops r.line s.1 s.2 (.req r.id)
        if 0 < q.2 then (q.1, .wait .snoop) else ((q.1.clearBisnp r.line).afterRound r, .go)

/-- The line's entry once the transaction has its data, and the meta value granted (R218, R226). -/
def Mod.dirDone (m : Mod) (r : Req) : Mod × MetaVal :=
  if !m.coherent r.line then (m, .i) else
  let own : Bool := match (m.dirEnt r.line).map DirEnt.st, r.ctx with
    | some (.owned o), some c => decide (o = c)
    | _, _ => false
  match r.op, r.ctx with
  | .rdShared, some c => if own then (m, .a) else ((m.freshHold r.line c).addHolder r.line c, .s)
  | .rdOwn, some c => if own then (m, .a) else ((m.freshHold r.line c).setOwner r.line c, .a)
  | .rdCur, _ => (m, if own then .a else .i)
  | .wr .., _ => (m.dirFree r.line, .i)
  | .clear, _ => (m.dirFree r.line, .i)
  | _, _ => (m, .i)

/-! ## Lost directory sets (R236) -/

/-- Lines of HDM-DB extents that map to a directory set of a slice. -/
def Mod.linesOfSet (m : Mod) (slice set : Nat) : List Nat :=
  (m.fab.extents.filter fun e => (m.extReg e.2).hdmDb).foldl (fun a e =>
    a ++ ((upto (e.2.size / 64)).map fun i => e.2.base / 64 + i).filter fun l => sliceOf l = slice && inSet set l) []

/-- The walk of a lost set begins: BISnpInv for each of its lines to the host set of the line's extent. -/
def Mod.walkSet (m : Mod) (slice set : Nat) : Mod :=
  let ls := m.linesOfSet slice set
  let m := m.progress (pgHsl slice) 1 0 0
  let m := ls.foldl (fun (a : Mod) l => match a.extAt (l * 64) with
    | some (_, e) => (a.sendSnoops l e.hosts true .walk).1
    | none => a) m
  { m with dir := { m.dir with lost := m.dir.lost.map fun x => if x.slice = slice && x.set = set then { x with total := ls.length } else x } }

/-- The directory set of a line is lost (R236), its memory set or its on-die set (R435): its entries are discarded, DIR_SET_LOST is
set, and its walk begins unless another set of the slice is being walked. -/
def Mod.loseSet (m : Mod) (l : Nat) (onDie : Bool) : Mod :=
  let sl := sliceOf l
  let set := if onDie then 524288 + sliceLine l % 2048 else sliceLine l % 524288
  if m.dir.lost.any fun s => s.slice = sl && s.set = set then m else
  let m := if onDie then m.setOnDie l [] else m.setInMem l []
  let busy := m.dir.lost.any fun x => x.slice = sl
  let x : LostSet := { slice := sl, set := set, walked := 0, total := 0 }
  let m : Mod := { m with dir := { m.dir with lost := m.dir.lost ++ [x] } }
  let m := m.raise (pgHsl sl) 9 (sliceLine l <<< 12)
  if busy then m else m.walkSet sl set

/-- A memory-directory set is lost (R236). -/
def Mod.dirSetLost (m : Mod) (l : Nat) : Mod := m.loseSet l false

/-- Region-2 line of a memory-directory set: two lines a set, sets in slice order (R234). -/
def dirRegionLine (l : Nat) : Nat := inMemKey l * 2

/-- A line whose entry is not on die looks in its memory set; one on a frozen channel is lost and its line placed elsewhere (R236, R333). -/
def Mod.dirFetch (m : Mod) (l : Nat) : Mod :=
  if (m.onDieSet l).any fun e => e.line = l then m
  else if m.frozen (chanOf (m.regionUnit 2 (dirRegionLine l)).1) then (m.dirSetLost l).moveInternal (regionHome 2 (dirRegionLine l))
  else m

/-! ## The data -/

/-- The extent is adopted and its stand-in is being cleared (R106, step 1). -/
def Mod.clearingExt (m : Mod) (e : Extent) : Bool := match e.adopted, m.grp.clearing with
  | some x, some c => x = c.2
  | _, _ => false

/-- The unit of an adopted line lies below the boundary of its member's rebuild: the stand-in forwards it (R110). -/
def Mod.forwards (m : Mod) (e : Extent) (l : Nat) : Option Nat := match e.adopted, m.grp.map with
  | some x, some g =>
    let u := e.sourceLine l / 64
    if g.stOf x = mbRebuilding && !(m.dataGone g x u) then some x
    else if g.stOf x = mbActive then some x else none
  | _, _ => none

/-- A forwarded read asks the replacement for the line under a hold (log entry 19): R110 names no message for it. -/
def Mod.forwardRead (m : Mod) (why : ReconFor) (x l : Nat) (e : Extent) : Mod := match m.grp.map with
  | none => m
  | some g =>
    let u := e.sourceLine l / 64
    let q := m.geoOf g u
    let sj := stripeOf q.n q.k x u
    let t := m.request x 0x07 (holdBody q.store sj.1 (l % 64))
    let r : Recon := { stripe := sj.1, store := q.store, line := l % 64, why := why, want := sj.2, got := [],
                       out := [(x, t.2, sj.2)], bad := [], asked := false, held := [x] }
    let m := t.1.count pgGrp 0x101 1
    { m with grp := { m.grp with recons := m.grp.recons ++ [r] } }

/-- The current value of a durable line is not at hand: its channel is frozen or left it touched, or a restore left it
absent (R333, R334, R411). -/
def Mod.awayLine (m : Mod) (l : Nat) : Bool :=
  (m.fcGet l).isNone && (m.frozenLine l || m.touchedLine l || m.grp.absent.contains l)

/-- Both copies of the line's domain's key are lost: its lines read poison and writes are dropped (R309). -/
def Mod.keyLost (m : Mod) (l : Nat) : Bool := match m.extAt (l * 64) with
  | some (_, e) => (match m.slot (m.extReg e).domain with
    | some k => k.lost
    | none => false)
  | none => false

/-- What a read of a line gives (R249, R85, R103, R108, R315, R333). -/
def Mod.readData (m : Mod) (r : Req) : Mod × ReadRes :=
  let l := r.line
  if m.glb.tampered || m.keyLost l then (m, .data (zeros 64) true) else
  match m.extAt (l * 64) with
  | none => m.readTier l r.act
  | some (_, e) =>
    if !(m.extReg e).durable then m.readTier l r.act
    else if m.fenced then (m, .data (zeros 64) true)
    else if m.clearingExt e then (m, .data (zeros 64) true)
    else match m.forwards e l with
    | some x => (m.forwardRead (.req r.id) x l e, .wait .recon)
    | none =>
      if e.adopted.isSome || m.awayLine l then
        let q := m.reconLine (.req r.id) l e
        if q.2 then (q.1, .wait .recon) else (q.1.beyond l, .data (zeros 64) true)
      else m.readTier l r.act

/-- A write keeps its line in the front cache (R237, R238). -/
def Req.keeps (r : Req) : Bool := r.hint = 1 || decide (16 ≤ r.hint)

/-- What became of a write. -/
inductive WriteRes where
  | done
  | dropped
  /-- Dropped under a fence or by a stand-in that is being cleared (R85, R106): a verb ends STALE. -/
  | stale
  | held
  | wait (w : Wait)
  deriving DecidableEq, Repr

/-- A write of a durable line with its old value at hand is accepted (R56). -/
def Mod.writeOver (m : Mod) (r : Req) (e : Extent) (data : List Byte) (mask : Nat) (poison : Bool) (old : List Byte) : Mod :=
  let p := m.mergedPoison r.line mask poison
  (m.acceptDurable r.line e old (mergeMask mask old data) p r.keeps).untouch r.line

/-- A write to a line of a durable extent (R52, R56, R85, R106 to R110, R333). -/
def Mod.writeDurable (m : Mod) (r : Req) (e : Extent) (data : List Byte) (mask : Nat) (poison : Bool) : Mod × WriteRes :=
  let l := r.line
  if m.fenced then
    (match r.who, r.ext with
     | .host src c, some (x, ep) => m.violRecord c 4 (m.violOpcode r) x ep ep src.port (l * 64)
     | .verb p _, some (x, ep) => m.verbViol p 4 (m.violOpcode r) x ep ep (l * 64)
     | _, _ => m, .stale)
  else if m.clearingExt e then
    (match r.who with
     | .host src _ => m.add (pgPrt src.port) PrtF.hostStaleWrites 1
     | _ => m, .stale)
  else match m.forwards e l with
  | some x => (m.send (.forwarded x (e.sourceLine l / 64) (l % 64) data mask), .done)
  | none =>
    if m.lineHeld l then (m, .wait .line) else
    match m.stopOf l with
    | some (w, _) => (m.queueStop w r.who data mask poison r.mute r.hint r.consumer, .held)
    | none =>
      if e.adopted.isSome || m.awayLine l then
        let q := m.reconLine (.req r.id) l e
        if q.2 then (q.1, .wait .recon) else (q.1.beyond l, .dropped)
      else
        let m := if mask = fullMask then m else m.fcRead l r.act
        (m.writeOver r e data mask poison (m.line l), .done)

/-- A write to a line of volatile memory (R249, R263, R333, R334). -/
def Mod.writeVolatile (m : Mod) (r : Req) (data : List Byte) (mask : Nat) (poison : Bool) : Mod × WriteRes :=
  let l := r.line
  let t := m.readyWrite l r.hint
  match t.2 with
  | .wait w => (t.1, .wait w)
  | .lost => (t.1, .dropped)
  | .go =>
    let m := t.1
    let away := (m.fcGet l).isNone
    let m := if m.touchedLine l && away then m.settleVolatile l else m
    let gone := m.frozenLine l && away && mask != fullMask
    let m := if mask = fullMask || gone then m else m.fcRead l r.act
    let p := m.mergedPoison l mask poison || gone
    (m.storeLine l (mergeMask mask (m.line l) data) p r.keeps, .done)

/-- A ring pair's doorbell line has been written (R343): the merged line's two values wait for the ring engine. -/
def Mod.ringBells (m : Mod) (l : Nat) : Mod :=
  let bs := m.line l
  let v := (leAt bs 0 4, leAt bs 4 4)
  { m with rng := m.rng.map fun e =>
      if m.at_ (0x800000 + 64 * e.1) RingEF.doorbell = l && m.at_ (0x800000 + 64 * e.1) RingEF.state = 1
      then (e.1, { e.2 with bells := e.2.bells ++ [v] }) else e }

/-- What follows an accepted write: doorbell values, and the wake of a consumer the hint names (R238, R343). -/
def Mod.afterWrite (m : Mod) (r : Req) : Mod :=
  let m := m.ringBells r.line
  match r.consumer with
  | some c => if m.fab.ctxOn.contains c then (m.wake c).1 else m
  | none => m

/-- A write of a request (R249, R56). -/
def Mod.writeData (m : Mod) (r : Req) (data : List Byte) (mask : Nat) (poison : Bool) : Mod × WriteRes :=
  if m.glb.tampered || m.keyLost r.line then (m, .dropped)
  else if m.stopVerb r && (m.stopOf r.line).isNone then
    ((match r.who with
      | .verb p i => m.verbOutcome p i 0x15 0 0
      | _ => m), .dropped)
  else
  let t := match m.extAt (r.line * 64) with
    | some (_, e) => if (m.extReg e).durable then m.writeDurable r e data mask poison else m.writeVolatile r data mask poison
    | none => m.writeVolatile r data mask poison
  match t.2 with
  | .done => (t.1.afterWrite r, .done)
  | _ => t

/-! ## Serving -/

/-- The end of a write: its entry is freed, its completion issued; a full stop keeps its completion for R59. -/
def Mod.endWrite (m : Mod) (r : Req) (w : WriteRes) : Mod :=
  match w with
  | .wait k => m.park r k
  | .held => ((m.dirDone r).1).finish r
  | .stale => match r.who with
    | .verb p i => (((m.dirDone r).1).finish r).verbBad p i r.line
    | _ => (((m.dirDone r).1).finish r).answerWrite r
  | _ => (((m.dirDone r).1).finish r).answerWrite r

/-- The end of a read: the entry follows R226 and the data leave. -/
def Mod.endRead (m : Mod) (r : Req) (bs : List Byte) (poison : Bool) : Mod :=
  let d := m.dirDone r
  (d.1.finish r).answerRead r d.2 bs poison

/-- An earlier write-back, full stop or transaction keeps the line (R59, R216, R217): write-backs come first; reads wait for a
held full stop, and later full stops queue behind it. -/
def Mod.lineTaken (m : Mod) (r : Req) : Bool :=
  let before := m.led.reqs.takeWhile fun q => q.id != r.id
  let others := (if before.length = m.led.reqs.length then m.led.reqs else before).filter fun q => q.line = r.line && q.wait != .ingress
  let running := m.led.reqs.any fun q => q.line = r.line && q.id != r.id && q.wait != .ingress && q.wait != .line
  match r.op with
  | .wb .. => others.any fun q => match q.op with
    | .wb .. => true
    | _ => false
  | .wr .. => if m.stopHeld r.line then (m.stopOf r.line).isNone || others.any fun q => q.writes else running || !others.isEmpty
  | _ => running || !others.isEmpty || m.stopHeld r.line

/-- A request is served as far as it goes: the directory, then its data, then its answer. -/
def Mod.serve (m : Mod) (r : Req) : Mod :=
  let wb := match r.op with
    | .wb .. => true
    | _ => false
  let m := if m.coherent r.line && !wb then m.dirFetch r.line else m
  if m.lineTaken r || (m.setLost r.line && !wb) then m.park r .line else
  let d := m.dirStage r
  match d.2 with
  | .wait w => d.1.park r w
  | .go =>
    let m := d.1.lineLeaf r.line
    if m.lineUnverified r.line then m.park r .line else
    match r.op with
    | .wr data mask poison => let t := m.writeData r data mask poison
                              t.1.endWrite r t.2
    | .wb data mask poison => let t := m.writeData r data mask poison
                              t.1.endWrite r t.2
    | .clear => ((m.dirDone r).1).finish r
    | _ => let t := m.readData r
           match t.2 with
           | .data bs p => t.1.endRead r bs p
           | .wait w => t.1.park r w

/-- A request goes on after what it waited for, from the place it stands in. -/
def Mod.resume (m : Mod) (id : Nat) : Mod := match m.led.reqs.find? fun q => q.id = id with
  | some r => m.serve r
  | none => m

/-- A reconstructed line reaches the request that waits for it (R108, R333); none where it could not be recovered (R103). -/
def Mod.reconDone (m : Mod) (id : Nat) (bs : Option (List Byte)) : Mod :=
  match m.led.reqs.find? fun q => q.id = id with
  | none => m
  | some r => match m.extAt (r.line * 64), bs with
    | some (_, e), some old =>
      let back := (m.touchedLine r.line || m.grp.absent.contains r.line) && e.adopted.isNone
      let m := { m with grp := { m.grp with absent := m.grp.absent.filter fun x => x != r.line } }
      (match r.op with
       | .wr data mask poison => ((m.writeOver r e data mask poison old).afterWrite r).endWrite r .done
       | .wb data mask poison => ((m.writeOver r e data mask poison old).afterWrite r).endWrite r .done
       | _ =>
         let m := if back then (m.storeLine r.line old false false).untouch r.line else m
         m.endRead r old false)
    | _, _ =>
      let m := m.beyond r.line
      if r.reads then m.endRead r (zeros 64) true else m.endWrite r .dropped

/-! ## Ledgers (R58, R355, R373) -/

/-- A write to a durable line. -/
def Mod.durableReq (m : Mod) (r : Req) : Bool := r.writes && m.isDurable r.line

/-- Entries that durable writes hold at a slice (R58). -/
def Mod.durableUsed (m : Mod) (sl : Nat) : Nat :=
  ((m.admitted sl).filter fun r => m.durableReq r).length + (m.led.dws.filter fun d => d.slice = sl).length +
  (m.led.stops.filter fun s => m.stopSlice s = sl).length

/-- A verb's sub-operation. -/
def Req.isVerb (r : Req) : Bool := match r.who with
  | .verb .. => true
  | _ => false

/-- An entry is free for the request at its slice. -/
def Mod.entryFree (m : Mod) (r : Req) : Bool :=
  let sl := sliceOf r.line
  decide (m.entriesUsed sl < 1024) &&
  (if m.durableReq r then decide (m.durableUsed sl < 768) && !m.spillFull
   else !r.isVerb || decide (((m.admitted sl).filter fun q => q.isVerb && !m.durableReq q).length < m.get pgRng RngF.verbLedgerCap))

/-- The master a request is charged to (R371). -/
def Mod.masterOf (m : Mod) (r : Req) : Nat := match r.who with
  | .host _ c => c
  | .verb p _ => m.at_ (0x800000 + 64 * p) RingEF.ownerCtx
  | .self => masterCore

/-- A request is admitted (R174): a host's is checked against its grant; its page's entry is looked up and its heat rises
(R248, R253); then it is served. A durable write under a moved epoch is dropped here (R72). -/
def Mod.takeIn (m : Mod) (r : Req) : Mod :=
  let sl := sliceOf r.line
  let m := (m.count (pgHsl sl) 0x100 1).chargeMaster (m.masterOf r) sl
  let go := fun (m : Mod) (r : Req) =>
    let p := pageOfLine r.line
    let m := m.mapRead sl p
    let m := if r.who = .self || (m.extAt (r.line * 64)).isNone then m else m.heatUp p
    m.serve r
  match r.who with
  | .host src c => match m.checkReq src c (r.line * 64) with
    | .ok x ep => go m { r with ext := some (x, ep) }
    | .bad reason x ep gep => ((m.finish r).unknownHost src c).reject r src c reason x ep gep (r.line * 64)
  | .verb p i => match m.checkGrant (m.at_ (0x800000 + 64 * p) RingEF.ownerCtx) (r.line * 64) with
    | .ok x ep => go m { r with ext := some (x, ep) }
    | .bad reason x ep gep => ((m.finish r).verbViol p reason (m.violOpcode r) x ep gep (r.line * 64)).verbBad p i r.line
  | _ => go m r

/-- A request reaches its slice: admitted at once when an entry is free and no earlier request of its master waits there,
else it waits at the ingress (R58, R373). -/
def Mod.arrive (m : Mod) (r : Req) : Mod :=
  let sl := sliceOf r.line
  let n := m.masterOf r
  if m.entryFree r && !(m.led.reqs.any fun q => q.wait = .ingress && sliceOf q.line = sl && m.masterOf q = n) then m.takeIn r
  else m.park r .ingress

/-! ## Snoop answers (R217, R219, R230) -/

/-- The last snoop of a purpose has been answered. -/
def Mod.snoopsDone (m : Mod) (s : Snoop) : Mod :=
  if m.dir.snoops.any fun q => q.line = s.line && q.why = s.why then m
  else match s.why with
    | .req id => match m.led.reqs.find? fun q => q.id = id with
      | some r => (m.afterRound r).serve { r with wait := .line }
      | none => m
    | .evict => m.dirFree s.line
    | _ => m

/-- A snoop is answered: its effect on the entry, and what waits for it goes on. -/
def Mod.answerSnoop (m : Mod) (s : Snoop) (shared : Bool) : Mod :=
  let m := { m with dir := { m.dir with snoops := m.dir.snoops.filter fun q => q != s } }
  ((m.snoopEffect s.line s.ctx s.inv shared).clearBisnp s.line).snoopsDone s

/-! ## Link loss and context reset (R181, R182) -/

/-- Requests and full stops of which `f` holds answer nobody any more. -/
def Mod.mute (m : Mod) (f : Who → Bool) : Mod :=
  { m with led := { m.led with
      reqs := m.led.reqs.map fun r => if f r.who then { r with mute := true } else r,
      stops := m.led.stops.map fun s => if f s.who then { s with mute := true } else s } }

/-- The third point of R181 for a context: its snoops count as answered invalid, its tenures end, it leaves the entries, and it has
no snoop port until its next request (R220). -/
def Mod.ctxGone (m : Mod) (c : Nat) : Mod :=
  let own := m.ownedBy c fun _ => true
  let m := (m.dir.snoops.filter fun s => s.ctx = c).foldl (fun a s => a.answerSnoop s false) m
  let tk := (own.map fun l => (l, c)).filter fun e => !m.dir.taken.contains e
  let m := { m with dir := { m.dir with taken := m.dir.taken ++ tk } }
  let m := m.dirDropAll c fun _ => true
  { m with fab := { m.fab with snoopPort := mapDel m.fab.snoopPort c } }

/-- Contexts whose snoop port a port is: those whose most recent request it carried. -/
def Mod.ctxsOn (m : Mod) (port : Nat) : List Nat := (m.fab.snoopPort.filter fun e => e.2 = port).map fun e => e.1

/-- A host port's link loss (R181): LINK_DOWN, responses in flight are discarded, and each context it carried ends its
HDM-DB transactions. The port's link IDE ends with the link; on the steward port it is also an FLR (R461). -/
def Mod.linkLoss (m : Mod) (port : Nat) : Mod :=
  let p := pgPrt port
  if !m.portUp port then m else
  let m := [PrtF.hostLinkState, PrtF.hostSpeed, PrtF.hostWidth, PrtF.hostFlitMode, PrtF.hostIdeActive, PrtF.hostDrain].foldl (fun a f => a.set p f 0) m
  let m := m.setHp port { m.hp port with drain := none, ideMem := false, ideIo := false }
  let m := (m.add p PrtF.hostLinkDowns 1).raise p 8 0
  let m := m.mute fun w => match w with
    | .host src _ => src.port = port
    | _ => false
  let m := (m.ctxsOn port).foldl (fun (a : Mod) c => a.ctxGone c) m
  m.when (m.isSteward port) Mod.flr

/-- An integrity check fails (R180): IDE_FAIL, the insecure state, and the link goes down. -/
def Mod.ideFail (m : Mod) (port : Nat) : Mod :=
  ((m.raise (pgPrt port) 12 0).setHp port { m.hp port with insecure := true }).linkLoss port

/-! ## Reception -/

/-- A CXL.mem message of a host is received: refused without credit, discarded when its IDE check fails (R180), attributed to
its context (R165), whose snoop port this port becomes (R220). -/
def Mod.onHost (m : Mod) (src : HostSrc) (data : Nat) (f : Mod → Nat → Mod) : Mod :=
  if !m.hostOpen src.port then m
  else if !src.ideOk then m.ideFail src.port
  else match m.ctxOf src with
    | none => m
    | some c => f ({ m.hostRx src.port data with fab := { m.fab with snoopPort := mapPut m.fab.snoopPort c src.port } }) c

/-- A request of a host is decoded (R169) and reaches its slice; an address that nothing covers is a decode miss. `hints` says
that the request is a write, which takes its hint (R179). -/
def Mod.hostReq (m : Mod) (src : HostSrc) (c hpa : Nat) (op : ReqOp) : Mod :=
  match m.target src c hpa with
  | .miss =>
    let q := m.newReq (.host src c) (lineOf hpa) op 0 none
    (q.1.unknownHost src c).reject q.2 src c 3 0 0 0 hpa
  | .at dpa hint consumer =>
    let q := m.newReq (.host src c) (lineOf dpa) op hint consumer
    if q.2.reads then q.1.arrive { q.2 with hint := 0, consumer := none } else q.1.arrive q.2

end Sys2Proof.Machine
end

