-- ==== Sys2Proof/Machine/Windows.lean ====
section
/-!
DEFINITION. Machine/Windows.lean: journal windows and the full stop (chapter 03): the window commands (R49 to R53), the two
epochs and the five steps of a full stop (R59, R60), Global Persistent Flush (R68).
-/
namespace Sys2Proof.Machine

open Host

/-! ## The window table -/

/-- STATE codes of a window (R52). -/
def winCode : WinSt → Nat
  | .open_ => 1 | .suspended => 2 | .deleting => 3

/-- A WINDOW_ID this module can hold: its own, or an adopted one while it stands in (R49, R106). -/
def Mod.winIdOk (m : Mod) (w : Nat) : Bool := decide (w < 16384) || (decide (w < 32768) && m.standsFor.isSome)

/-- The first check of R50: alignment and size limits. -/
def Mod.winShapeOk (m : Mod) (e : WinEntry) : Bool :=
  e.dataBase % 4096 = 0 && e.dataSize % 4096 = 0 && decide (4096 ≤ e.dataSize) && decide (e.dataSize ≤ gib) &&
  e.stopDpa % 64 = 0 && m.winIdOk e.id

/-- The extent that holds a window whole: durable, and adopted exactly for an adopted window's number (R50, R106). -/
def Mod.winExtent (m : Mod) (e : WinEntry) : Option (Nat × Extent) := match m.extAt e.dataBase with
  | some (n, x) =>
    if (m.extReg x).durable && decide (e.dataBase + e.dataSize ≤ x.base + x.size) && decide (x.base ≤ e.stopDpa) &&
       decide (e.stopDpa < x.base + x.size) && (x.adopted.isSome = decide (16384 ≤ e.id)) then some (n, x) else none
  | none => none

/-- A stop line lies inside a data range. -/
def winHolds (e : WinEntry) (dpa : Nat) : Bool := decide (e.dataBase ≤ dpa) && decide (dpa < e.dataBase + e.dataSize)

/-- The entry meets no other window's data range or stop line (R50, step 3). -/
def Mod.winClear (m : Mod) (e : WinEntry) : Bool :=
  !winHolds e e.stopDpa && m.led.wins.all fun o =>
    let x := o.2.entry
    !overlaps e.dataBase e.dataSize x.dataBase x.dataSize && !winHolds x e.stopDpa && x.stopDpa != e.stopDpa && !winHolds e x.stopDpa

/-- A window entry's 32 bytes (R49). -/
def winBytes (e : WinEntry) : List Byte :=
  leBytes 8 e.dataBase ++ leBytes 8 e.dataSize ++ leBytes 8 e.stopDpa ++ leBytes 2 e.id ++ zeros 6

/-- Members that a window entry is mirrored to and that must answer (R105): those that take part, this module apart; a
STALE or LOST one answers nothing (log entry 21). -/
def Mod.mirrorTo (m : Mod) : List Nat := match m.grp.map with
  | some g => (upto g.n).filter fun x => x != m.own && takesDeltas (g.stOf x)
  | none => []

/-- OWNER and the number a window is mirrored under: an adopted window belongs to the lost member (R105, R106). -/
def Mod.mirrorName (m : Mod) (w : Nat) : Nat × Nat := if w < 16384 then (m.own, w) else (m.standsFor.getD 16, w - 16384)

/-- WINDOW_MIRROR goes to every member with a state code; the requests sent, as (member, tag). -/
def Mod.mirrorWindow (m : Mod) (e : WinEntry) (st : Nat) : Mod × List (Nat × Nat) :=
  let nm := m.mirrorName e.id
  (m.mirrorTo).foldl (fun (a : Mod × List (Nat × Nat)) x =>
    let r := a.1.request x 0x0B (winBytes { e with id := nm.2 } ++ leBytes 1 st ++ leBytes 1 nm.1)
    (r.1, a.2 ++ [(x, r.2)])) (m, [])

/-- A window command that waits for its mirrors, or completes at once where there are none. -/
def Mod.mirrorOrReply (m : Mod) (via : Via) (w : Nat) (del : Bool) (left : List (Nat × Nat)) : Mod :=
  if left = [] then (if del then m.bgDone via else m).reply via .success []
  else
    let x : MirrorWait := { via := via, win := w, del := del, left := left }
    { m with led := { m.led with mirrorWaits := m.led.mirrorWaits ++ [x] } }

/-- JW_SET: the three checks of R50 in order, then the window is defined and mirrored (R51, R52, R105). -/
def execJwSet (via : Via) (e : WinEntry) (s : State) : Outcome State Fault Refusal :=
  s.onM fun m => m.onMailbox via fun m =>
    if !m.winShapeOk e then m.reply via .invalidInput []
    else if (mapGet m.led.wins e.id).isSome then m.reply via .busy []
    else match m.winExtent e with
    | none => m.reply via .invalidInput []
    | some (_, x) =>
      if !m.winClear e then m.reply via .invalidInput []
      else
        let st := if x.suspended then WinSt.suspended else .open_
        let w : Window := { entry := e, st := st, epoch := 0, degraded := false, lastSeq := 0, stopsDone := 0 }
        let m := { m with led := { m.led with wins := mapPut m.led.wins e.id w } }
        let r := m.mirrorWindow e (winCode st)
        r.1.mirrorOrReply via e.id false r.2

/-- JW_DELETE: a window enters DELETING; a FREE one completes at once, one already DELETING is Busy (R51). -/
def execJwDelete (via : Via) (w : Nat) (s : State) : Outcome State Fault Refusal :=
  s.onM fun m => m.onMailbox via fun m =>
    if 32768 ≤ w then m.reply via .invalidInput []
    else match mapGet m.led.wins w with
    | none => m.reply via .success []
    | some x =>
      if x.st = .deleting || m.bgBusy via then m.reply via .busy []
      else
        let m := (m.updWin w fun x => { x with st := .deleting }).bgStartOn via 0xC401 w
        ((m.mirrorWindow x.entry 3).1).reply via .background []

/-- JW_DELETE_DONE: with no full stop to the window held it becomes FREE, which is mirrored before JW_DELETE completes
(R51, R105). -/
def execJwDeleteDone (w : Nat) (s : State) : Outcome State Fault Refusal :=
  s.onM fun m => match mapGet m.led.wins w with
    | none => m
    | some x =>
      if x.st != .deleting || !(m.heldStops w).isEmpty || m.saving then m
      else
        let via := (m.bgOn 0xC401 w).getD .steward
        let m := { m with led := { m.led with wins := mapDel m.led.wins w } }
        let r := m.mirrorWindow x.entry 0
        r.1.mirrorOrReply via w true r.2

/-- JW_GET: the entry; all zero but WINDOW_ID for a FREE window (R51). -/
def execJwGet (via : Via) (w : Nat) (s : State) : Outcome State Fault Refusal :=
  s.onM fun m => m.onMailbox via fun m =>
    if 32768 ≤ w then m.reply via .invalidInput []
    else match mapGet m.led.wins w with
    | some x => m.reply via .success (winBytes x.entry)
    | none => m.reply via .success (winBytes { dataBase := 0, dataSize := 0, stopDpa := 0, id := w })

/-- The status of a window (R53): all zero but WINDOW_ID for a FREE one. -/
def Mod.winStatus (m : Mod) (w : Nat) : List Byte := match mapGet m.led.wins w with
  | none => leBytes 2 w ++ zeros 30
  | some x =>
    leBytes 2 w ++ leBytes 1 (winCode x.st) ++ leBytes 1 (x.epoch + 2 * b2n x.degraded) ++ leBytes 2 (m.heldStops w).length ++
    zeros 2 ++ leBytes 4 (m.unprot w 0) ++ leBytes 4 (m.unprot w 1) ++ leBytes 8 x.lastSeq ++ leBytes 4 x.stopsDone ++ zeros 4

/-- JW_STATUS: R53. -/
def execJwStatus (via : Via) (w : Nat) (s : State) : Outcome State Fault Refusal :=
  s.onM fun m => m.onMailbox via fun m =>
    if 32768 ≤ w then m.reply via .invalidInput [] else m.reply via .success (m.winStatus w)

/-! ## The full stop -/

/-- Step 3 of R59 for the window's oldest full stop: its delta against the line's value leaves as a STAGE (R98). The merged
line is what step 5 writes (R55). -/
def Mod.stageStop (m : Mod) (w : Nat) (old : List Byte) : Mod := match m.headStop w, mapGet m.led.wins w with
  | some s, some x => match m.extAt x.entry.stopDpa with
    | none => m
    | some (_, e) =>
      let l := lineOf x.entry.stopDpa
      let new := mergeMask s.mask old s.data
      let r := m.formDeltas (sliceOf l) (m.spaceOf e) 2 (e.sourceLine l) e.adopted.isSome (xorBytes old new)
      let p := s.poison || (m.isPoisoned l && s.mask != fullMask)
      (r.1.count (pgHsl (sliceOf l)) 0x105 1).updStop w fun s =>
        { s with step := .staged, owed := r.2, data := new, mask := fullMask, poison := p }
  | _, _ => m

/-- The completion of a full stop: to its host, or to its verb with HOST_SEQ (R350); a discarded one is counted. -/
def Mod.answerStop (m : Mod) (s : FullStop) (seq : Nat) : Mod := match s.who with
  | .host src _ => if s.mute then m.add (pgPrt src.port) PrtF.hostRspDiscarded 1 else m.hostTx src.port 0 (.memDone src)
  | .verb p i => if s.mute then m else m.verbOutcome p i 0 seq 0
  | .self => m

/-- A held full stop whose line cannot be reconstructed is completed and discarded, and never applied (R108). -/
def Mod.discardStop (m : Mod) (w : Nat) : Mod := match m.headStop w with
  | none => m
  | some s => (({ m with led := { m.led with stops := dropFirst w m.led.stops } }).answerStop s 0).closeEpoch w

/-- EPOCH_DRAINED: the closed epoch's count is zero at every slice, and step 3 of R59 runs; the current value of a line that
is not at hand is reconstructed first. -/
def execEpochDrained (w : Nat) (s : State) : Outcome State Fault Refusal :=
  s.onM fun m => match m.headStop w, mapGet m.led.wins w with
    | some st, some x =>
      if st.step != .closing || m.unprot w st.epoch != 0 || m.fenced || m.saving || m.aux.reconciling || !m.runs then m
      else match m.extAt x.entry.stopDpa with
      | none => m
      | some (_, e) =>
        let l := lineOf x.entry.stopDpa
        if e.adopted.isSome || m.awayLine l then
          let q := m.reconLine (.stop w) l e
          if q.2 then q.1 else (q.1.beyond l).discardStop w
        else m.stageStop w (m.line l)
    | _, _ => m

/-- A stripe that holds a line of the window's data range or its stop line is short of protection (R80). -/
def Mod.winShort (m : Mod) (x : Window) : Bool := match m.grp.map, m.extAt x.entry.stopDpa with
  | some g, some (_, e) =>
    if g.members.all fun y => y.st = mbActive then false else
    let i := m.spaceOf e
    let at_ := fun l => let u := e.sourceLine l / 64
                        let q := m.geoOf g u
                        m.stripeDegraded g q (stripeOf q.n q.k i u).1
    at_ (lineOf x.entry.stopDpa) || (upto (x.entry.dataSize / 4096)).any fun p => at_ (lineOf x.entry.dataBase + p * 64)
  | _, _ => false

/-- Step 5 of R59: the stop line is written, LAST_SEQ and STOPS_DONE are updated, COMMIT leaves, DEGRADED is set under R80, the
completion is issued, and the next full stop's epoch closes. -/
def Mod.applyStop (m : Mod) (w : Nat) : Mod := match m.headStop w, mapGet m.led.wins w with
  | some s, some x => match m.extAt x.entry.stopDpa with
    | none => m
    | some (_, e) =>
      let l := lineOf x.entry.stopDpa
      let m := (m.formDeltas (sliceOf l) (m.spaceOf e) 3 (e.sourceLine l) e.adopted.isSome []).1
      let kept := s.hint = 1 || decide (16 ≤ s.hint)
      let m := if e.adopted.isSome then m else (m.storeLine l s.data s.poison kept).untouch l
      let seq := leAt s.data 0 8
      let short := m.winShort x
      let m := m.updWin w fun x => { x with lastSeq := seq, stopsDone := (x.stopsDone + 1) % 2 ^ 32, degraded := x.degraded || short }
      let m := { m with led := { m.led with stops := dropFirst w m.led.stops } }
      let m := match s.who with
        | .verb .. => if s.mute then m else m.tally pgRng RngF.bytesWritten 0x102 64
        | _ => m
      let m := (m.count (pgHsl (sliceOf l)) 0x106 1).answerStop s seq
      let m := match s.consumer with
        | some c => if m.fab.ctxOn.contains c then (m.wake c).1 else m
        | none => m
      m.closeEpoch w
  | _, _ => m

/-- A window's held full stops may be applied: OPEN, or DELETING in an extent that is not suspended (R52, R71, R73). -/
def Mod.winApplies (m : Mod) (x : Window) : Bool := match x.st with
  | .open_ => true
  | .suspended => false
  | .deleting => match m.extAt x.entry.stopDpa with
    | some (_, e) => !e.suspended
    | none => true

/-- FULL_STOP_APPLY: the stage is protected (step 4 of R59) and step 5 runs; none completes while the module is fenced or
saves (R68, R71, R85), before a restored module is reconciled (R64), or while a hold stops writes to the stop line (R107). -/
def execFullStopApply (w : Nat) (s : State) : Outcome State Fault Refusal :=
  s.onM fun m => match m.headStop w, mapGet m.led.wins w with
    | some st, some x =>
      if st.step = .staged && st.owed = [] && m.winApplies x && !m.lineHeld (lineOf x.entry.stopDpa) && !m.fenced && !m.saving &&
        !m.aux.reconciling && m.runs then m.applyStop w else m
    | _, _ => m

/-! ## Global Persistent Flush -/

/-- GPF_PHASE1: acknowledged at once, for the module caches no host data (R68). -/
def execGpfPhase1 (port : Nat) (s : State) : Outcome State Fault Refusal :=
  s.onUnit (decide (port < 96)) fun m =>
    if m.runs && m.hostRole port && m.portUp port then m.send (.gpf port 1) else m

/-- GPF_PHASE2: a save with trigger 4 starts; its completion is reported when the image is sealed (R68, R397). -/
def execGpfPhase2 (port : Nat) (s : State) : Outcome State Fault Refusal :=
  s.onUnit (decide (port < 96)) fun m =>
    if m.runs && m.hostRole port && m.portUp port then m.startSave 4 .resume [port] else m

end Sys2Proof.Machine
end

