-- ==== Sys2Proof/Machine/Hosts.lean ====
section
/-!
DEFINITION. Machine/Hosts.lean: the messages of hosts on shared lines (chapter 08): reads, writes, write-backs, evictions,
snoop responses and conflicts, and what falls due at a line: admission, the next transaction, tenures, timeouts, watched
lines, probes.
-/
namespace Sys2Proof.Machine

open Host

/-- The port engine exists (R7). -/
def portOk (n : Nat) : Bool := decide (n < 96)

/-- A data operand as a line of 64 bytes. -/
def asLine (data : List Byte) : List Byte := (upto 64).map fun i => data.getD i 0#8

/-- A MemRd by class (R218). -/
def Mod.hostRead (m : Mod) (src : HostSrc) (hpa : Nat) (want : MetaVal) : Mod :=
  m.onHost src 0 fun m c => m.hostReq src c hpa (match want with
    | .s => .rdShared
    | .a => .rdOwn
    | .i => .rdCur)

/-- MEMRDDATA: a read that keeps no copy (R218). -/
def execMemrddata (src : HostSrc) (hpa : Nat) (s : State) : Outcome State Fault Refusal :=
  s.onUnit (portOk src.port) fun m => m.hostRead src hpa .i

/-- The context owns the line. -/
def Mod.owns (m : Mod) (c l : Nat) : Bool := match (m.dirEnt l).map DirEnt.st with
  | some (.owned o) => decide (o = c)
  | _ => false

/-- A write-back from the owner (R217, R226, R227): it never waits behind requests; ownership ends at once, with a shared
copy left for meta value S, and the data are merged before anything else at the line. A meta value A leaves the owner
its line (log entry 22). -/
def Mod.writeBackFrom (m : Mod) (src : HostSrc) (c l : Nat) (keep : MetaVal) (data : List Byte) (poison : Bool) (hint : Nat)
    (consumer : Option Nat) : Mod :=
  let q := m.newReq (.host src c) l (.wb data fullMask poison) hint consumer
  let m := (q.1.count (pgHsl (sliceOf l)) 0x100 1).chargeMaster c (sliceOf l)
  match m.checkReq src c (l * 64) with
  | .bad reason x ep gep => (m.unknownHost src c).reject q.2 src c reason x ep gep (l * 64)
  | .ok x ep =>
    let m := match keep with
      | .i => m.dirFree l
      | .s => m.updEnt l fun e => some { e with st := .ptr [c], tenure := false }
      | .a => m
    let m := (m.mapRead (sliceOf l) (pageOfLine l)).heatUp (pageOfLine l)
    let r := { q.2 with ext := some (x, ep) }
    -- it stands before every request at the line
    let m := { m with led := { m.led with reqs := { r with wait := .line } :: m.led.reqs } }
    m.serve r

/-- A late write-back after a snoop timeout, or one that answers the walk of a lost set, is merged as a WR without snoops
(R230, R236): it stands at the line like a
write-back and leaves the entry as it is. -/
def Mod.lateWriteBack (m : Mod) (src : HostSrc) (c l : Nat) (data : List Byte) (poison : Bool) (hint : Nat) (consumer : Option Nat) : Mod :=
  let m := { m with dir := { m.dir with late := m.dir.late.filter fun e => e != (l, c) } }
  let q := m.newReq (.host src c) l (.wb data fullMask poison) hint consumer
  q.1.arrive q.2

/-- A write-back of a line that a link loss, a HOST_CTX_RESET or the leaving of its host set took from the context (R182, R235): it is
discarded under R175, as a STALE write-back where the grant itself still stands (log entry 88). -/
def Mod.takenWriteBack (m : Mod) (src : HostSrc) (c l : Nat) : Mod :=
  let m := { m with dir := { m.dir with taken := m.dir.taken.filter fun e => e != (l, c) } }
  let q := m.newReq (.host src c) l (.wb [] 0 false) 0 none
  let m := (q.1.count (pgHsl (sliceOf l)) 0x100 1).chargeMaster c (sliceOf l)
  match m.checkReq src c (l * 64) with
  | .bad reason x ep gep => (m.unknownHost src c).reject q.2 src c reason x ep gep (l * 64)
  | .ok x ep => m.reject q.2 src c 1 x ep ep (l * 64)

/-- A write of a host, full or partial: from the owner a write-back, else a WR (R218). -/
def Mod.hostWrite (m : Mod) (src : HostSrc) (hpa : Nat) (keep : MetaVal) (data : List Byte) (mask : Nat) (poison partial_ : Bool) : Mod :=
  m.onHost src 64 fun m c => match m.target src c hpa with
    | .miss => m.hostReq src c hpa (.wr (asLine data) mask poison)
    | .at dpa hint consumer =>
      let l := lineOf dpa
      if m.coherent l && !partial_ && m.owns c l then m.writeBackFrom src c l keep (asLine data) poison hint consumer
      else if m.coherent l && !partial_ && keep != .a && m.dir.taken.contains (l, c) then m.takenWriteBack src c l
      else if m.coherent l && !partial_ && (m.dir.late.contains (l, c) ||
          (m.setLost l && m.dir.snoops.any fun s => s.line = l && s.ctx = c)) then m.lateWriteBack src c l (asLine data) poison hint consumer
      else m.hostReq src c hpa (.wr (asLine data) mask poison)

/-- MEMWR: R56, R218. -/
def execMemwr (src : HostSrc) (hpa : Nat) (keep : MetaVal) (data : List Byte) (poison : Bool) (s : State) :
    Outcome State Fault Refusal :=
  s.onUnit (portOk src.port) fun m => m.hostWrite src hpa keep data fullMask poison false

/-- MEMWRPTL: the bytes that `be` enables are merged with the line (R55, R218). -/
def execMemwrptl (src : HostSrc) (hpa : Nat) (data : List Byte) (be : Nat) (poison : Bool) (s : State) :
    Outcome State Fault Refusal :=
  s.onUnit (portOk src.port) fun m => m.hostWrite src hpa .i data (be % 2 ^ 64) poison true

/-- MEMCLNEVCT: the context leaves the line's entry (R217, R226); the notice is completed. -/
def execMemclnevct (src : HostSrc) (hpa : Nat) (s : State) : Outcome State Fault Refusal :=
  s.onUnit (portOk src.port) fun m => m.onHost src 0 fun m c =>
    let rej := fun (m : Mod) (reason x ep gep a : Nat) =>
      let q := m.newReq (.host src c) (lineOf a) (.wb [] 0 false) 0 none
      (q.1.unknownHost src c).reject q.2 src c reason x ep gep a
    match m.target src c hpa with
    | .miss => rej m 3 0 0 0 hpa
    | .at dpa _ _ => match m.checkReq src c dpa with
      | .bad reason x ep gep => rej m reason x ep gep dpa
      | .ok _ _ =>
        let l := lineOf dpa
        let m := (m.count (pgHsl (sliceOf l)) 0x100 1).chargeMaster c (sliceOf l)
        ((if m.coherent l then m.dirDrop l c else m).hostTx src.port 0 (.memDone src))

/-- BIRSP: the response to a snoop (R217, R219): BIRspS with `shared`, else BIRspI. One that answers no outstanding snoop is
discarded (R230); from a context without a grant it counts under R175. -/
def execBirsp (port id dpa : Nat) (shared : Bool) (s : State) : Outcome State Fault Refusal :=
  s.onUnit (portOk port) fun m =>
    if !m.runs || !m.hostRole port || !m.portUp port then m else
    let src : HostSrc := { port := port, id := id, tag := 0, ideOk := true }
    match m.ctxOf src with
    | none => m
    | some c =>
      let m := m.hostRx port 0
      let l := lineOf dpa
      match m.dir.snoops.find? fun x => x.line = l && x.ctx = c && x.port = port with
      | some x => m.answerSnoop x shared
      | none => match m.checkGrant c dpa with
        | .ok _ _ => m
        | .bad reason x ep gep =>
          let p := pgPrt port
          let m := (m.add p PrtF.hostStaleWrites 1).raise p (if reason = 1 then 13 else 14) (prtDetail c x ep)
          m.violRecord c reason 4 x ep gep port dpa

/-- BICONFLICT: CONFLICT is set until BIConflictAck is sent (R231): at once where the context's request waits at the line
behind the transaction that sent the snoop, else behind its response. -/
def execBiconflict (port id dpa : Nat) (s : State) : Outcome State Fault Refusal :=
  s.onUnit (portOk port) fun m =>
    if !m.runs || !m.hostRole port || !m.portUp port then m else
    match m.ctxOf { port := port, id := id, tag := 0, ideOk := true } with
    | none => m
    | some c =>
      let l := lineOf dpa
      let m := (m.hostRx port 0).add (pgHsl (sliceOf l)) HslF.conflicts 1
      let waits := m.led.reqs.any fun r => r.line = l && r.ctx = some c
      m.hostTx port 0 (.conflictAck port c dpa (!waits))

/-- INGRESS_ADMIT: at a slice, the first waiting request of each master contends; the lowest level of R373 goes first, within
level 3 by weight, and the arbiter rule settles the rest (R364); the winner is admitted and checked (R174). -/
def execIngressAdmit (slice pick : Nat) (s : State) : Outcome State Fault Refusal :=
  s.onUnit (decide (slice < 64)) fun m =>
    if m.saving || !m.runs then m else
    let waiting := m.led.reqs.filter fun r => r.wait = .ingress && sliceOf r.line = slice
    let firsts := waiting.foldl (fun (a : List Req) r => if a.any fun q => m.masterOf q = m.masterOf r then a else a ++ [r]) []
    let able := firsts.filter fun r => m.entryFree r
    let lv := able.foldl (fun a r => min a (m.levelAt (m.masterOf r) slice)) 3
    let at_ := able.filter fun r => m.levelAt (m.masterOf r) slice = lv
    let weight := fun (r : Req) => m.floorFld (m.masterOf r) FloorEF.weight
    let heavy := at_.filter fun r => weight r != 0
    let cand := if lv = 3 && heavy != [] then heavy else at_
    let due := fun (r : Req) => (m.master (m.masterOf r)).deficit
    let fair := if lv = 3 && heavy != [] then
        cand.filter fun r => cand.all fun q => decide (due r * weight q ≤ due q * weight r)
      else cand
    let parties := fair.map fun r => m.masterOf r
    let w := contestWinner m.led.debts slice pick parties
    match fair.find? fun r => m.masterOf r = w with
    | none => m
    | some r =>
      let m := { m with led := { m.led with debts := if parties.length < 2 then m.led.debts else contestDebts m.led.debts slice w parties } }
      m.takeIn r

/-- LINE_TRANSACTION_START: the next request that waits at the line starts (R216), as far as what it waits for has ended. -/
def execLineTransactionStart (dpa : Nat) (s : State) : Outcome State Fault Refusal :=
  s.onM fun m =>
    let l := lineOf dpa
    if m.saving || !m.runs then m else
    let running := m.led.reqs.any fun r => r.line = l && (r.wait = .snoop || r.wait = .fetch || r.wait = .recon)
    if running then m else
    match m.led.reqs.find? fun r => r.line = l && (r.wait = .line || r.wait = .tenure) with
    | some r => m.serve r
    | none => m

/-- TENURE_END: at its tick the owner's tenure ends (R228, R232); what waits for it goes on: a wake of the owner's watched line, and
the first request at the line. -/
def execTenureEnd (dpa : Nat) (s : State) : Outcome State Fault Refusal :=
  s.onM fun m =>
    let l := lineOf dpa
    match m.dirEnt l with
    | none => m
    | some e =>
      if !e.tenure || !m.runs then m else
      let m := (m.until_ e.tend).updEnt l fun e => some { e with tenure := false }
      let m := (m.holders e).foldl (fun (a : Mod) c =>
        if a.dir.wakePend.contains c && mapGet a.dir.watch c = some l then
          ({ a with dir := { a.dir with wakePend := a.dir.wakePend.filter fun x => x != c } }.wake c).1
        else a) m
      match m.led.reqs.find? fun r => r.line = l && r.wait = .tenure with
      | some r => m.serve r
      | none => m

/-- BISNP_TIMEOUT: R230. -/
def execBisnpTimeout (dpa ctx : Nat) (s : State) : Outcome State Fault Refusal :=
  s.onM fun m =>
    let l := lineOf dpa
    match m.dir.snoops.find? fun x => x.line = l && x.ctx = ctx with
    | none => m
    | some x =>
      if !m.runs then m else
      let h := pgHsl (sliceOf l)
      let m := m.until_ (x.sent + m.get (pgHsl 0) HslF.bisnpTimeoutMs * ms)
      let m := (m.add h HslF.bisnpTimeouts 1).raise h 8 (ctx ||| (sliceLine l <<< 12))
      let m := m.event .warning .bisnpTimeout [ctx, dpa]
      let m := (m.dirDrop l ctx).answerSnoop x false
      if m.dir.late.contains (l, ctx) then m else { m with dir := { m.dir with late := m.dir.late ++ [(l, ctx)] } }

/-! ## Lost directory sets (R236) -/

/-- DIR_SET_RECOVERY_DONE: every snoop of the walk has been answered: the set is empty and valid, and the next lost set of the
slice is walked (R236). Requests that waited start in arrival order. -/
def execDirSetRecoveryDone (slice : Nat) (s : State) : Outcome State Fault Refusal :=
  s.onUnit (decide (slice < 64)) fun m => match m.dir.lost.find? fun x => x.slice = slice with
    | none => m
    | some x =>
      if !m.runs || m.dir.snoops.any fun q => q.why = .walk && sliceOf q.line = slice then m else
      let m := { m with dir := { m.dir with lost := m.dir.lost.filter fun y => y != x } }
      let m := m.progress (pgHsl slice) 0 10000 x.total
      match m.dir.lost.find? fun y => y.slice = slice with
      | some y => m.walkSet slice y.set
      | none => m

/-! ## Watched lines and probes -/

/-- WATCH_SET: R238, R240. -/
def execWatchSet (via : Via) (ctx : Nat) (valid : Bool) (dpa : Nat) (s : State) : Outcome State Fault Refusal :=
  s.onM fun m => m.onMailbox via fun m =>
    let drop : Mod → Mod := fun m => { m with dir := { m.dir with watch := mapDel m.dir.watch ctx, wakePend := m.dir.wakePend.filter fun x => x != ctx } }
    if 4096 ≤ ctx then m.reply via .invalidInput []
    else if !valid then (drop m).reply via .success []
    else match m.extAt dpa with
    | some (n, e) =>
      if dpa % 64 = 0 && (m.extReg e).hdmDb && m.granted ctx n then
        let m : Mod := drop m
        let m : Mod := { m with dir := { m.dir with watch := mapPut m.dir.watch ctx (lineOf dpa) } }
        m.reply via .success []
      else m.reply via .invalidInput []
    | none => m.reply via .invalidInput []

/-- WATCH_GET: R240. -/
def execWatchGet (via : Via) (ctx : Nat) (s : State) : Outcome State Fault Refusal :=
  s.onM fun m => m.onMailbox via fun m =>
    if 4096 ≤ ctx then m.reply via .invalidInput []
    else match mapGet m.dir.watch ctx with
    | some l => m.reply via .success (leBytes 1 (1 + 2 * b2n (m.armed ctx).isSome) ++ zeros 7 ++ leBytes 8 (l * 64))
    | none => m.reply via .success (zeros 16)

/-- A directory entry's 128 bits (R223). -/
def DirEnt.word (e : DirEnt) : Nat :=
  let hold := match e.st with
    | .owned c => c + (if e.tenure then bits e.tend 16 48 <<< 12 else 0)
    | .ptr cs => cs.foldr (fun c a => c + (a <<< 12)) 0
    | .coarse gs => gs.foldl (fun a g => a ||| (1 <<< g)) 0
  let code := match e.st with
    | .owned _ => 1
    | .ptr _ => 2
    | .coarse _ => 3
  let count := match e.st with
    | .ptr cs => cs.length
    | _ => 0
  sliceLine e.line + (code <<< 29) + (b2n e.bisnp <<< 31) + (b2n e.conflict <<< 32) + (b2n e.tenure <<< 33) +
    ((if e.tenure then bits e.tend 0 16 else 0) <<< 34) + (count <<< 50) + (hold <<< 56)

/-- A probe of a slice's directory for the line PROBE_LINE names (R242). -/
def Mod.dirProbe (m : Mod) (slice : Nat) : Mod :=
  let h := pgHsl slice
  let n := m.get h HslF.probeLine
  let hit := fun (d : Map (List DirEnt)) => d.findSome? fun s => s.2.find? fun e => sliceOf e.line = slice && sliceLine e.line = n
  let m := m.set h HslF.probe 0
  let out := fun (m : Mod) (e : DirEnt) (w : Nat) =>
    (((m.set h HslF.found 1).set h HslF.where_ w).set h HslF.probeLo (e.word % 2 ^ 64)).set h HslF.probeHi (e.word / 2 ^ 64)
  match hit m.dir.onDie, hit m.dir.inMem with
  | some e, _ => out m e 0
  | none, some e => out m e 1
  | none, none => (((m.set h HslF.found 0).set h HslF.where_ 0).set h HslF.probeLo 0).set h HslF.probeHi 0

/-- DIR_PROBE: R242. -/
def execDirProbe (slice : Nat) (s : State) : Outcome State Fault Refusal :=
  s.onUnit (decide (slice < 64)) fun m => m.dirProbe slice

end Sys2Proof.Machine
end

