-- ==== Sys2Proof/Machine/Pairs.lean ====
section
/-!
DEFINITION. Machine/Pairs.lean: the state of ring pairs (R340 to R342, R357 to R361): their table entries, changes of state,
ERROR, RESET.
-/
namespace Sys2Proof.Machine

/-- BAR0 offset of a pair's ring-table entry (R340). -/
def ringAt (n : Nat) : Nat := 0x800000 + 64 * n

/-- A field of a pair's entry. -/
def Mod.rf (m : Mod) (n : Nat) (f : Fld) : Nat := m.at_ (ringAt n) f
def Mod.setRf (m : Mod) (n : Nat) (f : Fld) (v : Nat) : Mod := m.setAt (ringAt n) f v

/-- A pair with nothing taken. -/
def Pair.fresh : Pair :=
  { verbs := [], bells := [], tail := 0, head := 0, phase := 1, taken := 0, done := 0, unnotified := 0, since := 0, waiting := false }

def Mod.pair (m : Mod) (n : Nat) : Pair := mapGetD m.rng n Pair.fresh
def Mod.setPair (m : Mod) (n : Nat) (p : Pair) : Mod := { m with rng := mapPut m.rng n p }
def Mod.updPair (m : Mod) (n : Nat) (f : Pair → Pair) : Mod := m.setPair n (f (m.pair n))

/-- DETAIL of an RNG error (R361): pair, status or reason code, SQ index. -/
def rngDetail (n code idx : Nat) : Nat := n ||| (code <<< 13) ||| (idx <<< 21)

/-- A pair changes state (R342): RING_EPOCH advances, and entering DISABLED clears ENABLE and RESET. -/
def Mod.setRing (m : Mod) (n st : Nat) : Mod :=
  let m := (m.setRf n RingEF.state st).setRf n RingEF.ringEpoch (m.rf n RingEF.ringEpoch + 1)
  if st = 0 then (m.setRf n RingEF.enable 0).setRf n RingEF.reset 0 else m

/-- Every stream a pair holds is closed (R284, R342). -/
def Mod.closeStreams (m : Mod) (n : Nat) : Mod :=
  { m with lex := { m.lex with streams := m.lex.streams.filter fun e => e.2.pair != n } }

/-- Work of a pair leaves the lexicon engines. -/
def Mod.dropJobs (m : Mod) (n : Nat) : Mod :=
  let mine := fun (j : LexJob) => j.cls = 4 && j.owner / 2 ^ 32 = n
  { m with lex := { m.lex with waiting := m.lex.waiting.map fun e => (e.1, e.2.filter fun j => !mine j),
                               running := m.lex.running.filter fun e => !mine e.2 } }

/-- A pair's verbs in flight are abandoned (R342): what they wrote stays, and no completion posts; a full stop already held
carries on unanswered (log entry 23). -/
def Mod.abandonVerbs (m : Mod) (n : Nat) : Mod :=
  let mine := fun (w : Who) => match w with
    | .verb p _ => p = n
    | _ => false
  let m := m.mute fun w => mine w
  let m := { m with led := { m.led with reqs := m.led.reqs.filter fun r => !(mine r.who) } }
  ((m.updPair n fun p => { p with verbs := [], bells := [], waiting := false }).dropJobs n)

/-- A pair enters ERROR (R342, R359): verbs in flight are abandoned, RING_ERROR is set. -/
def Mod.ringError (m : Mod) (n cause : Nat) : Mod :=
  let st := m.rf n RingEF.state
  if st = 0 || st = 2 then m else
  let m := ((m.abandonVerbs n).setRing n 2).setRf n RingEF.errorCause cause
  m.raise pgRng 8 (rngDetail n cause (m.rf n RingEF.sqHead))

/-- RESET of a pair (R342): its verbs are abandoned, its streams closed, and it is DISABLED. -/
def Mod.ringReset (m : Mod) (n : Nat) : Mod :=
  let m := (m.abandonVerbs n).closeStreams n
  let m := if m.rf n RingEF.state = 0 then (m.setRf n RingEF.enable 0).setRf n RingEF.reset 0 else m.setRing n 0
  { m with rng := mapDel m.rng n }

/-- Pairs that are not DISABLED. -/
def Mod.livePairs (m : Mod) : List Nat := (m.rng.map Prod.fst).filter fun n => m.rf n RingEF.state != 0

/-- A pair's ring memory as ranges of DPA: submission ring, completion ring, doorbell line (R341). -/
def Mod.ringMem (m : Mod) (n : Nat) : List (Nat × Nat) :=
  [(m.rf n RingEF.sqBase * 4096, 2 ^ m.rf n RingEF.sqLog2 * 64), (m.rf n RingEF.cqBase * 4096, 2 ^ m.rf n RingEF.cqLog2 * 64),
   (m.rf n RingEF.doorbell * 64, 64)]

/-- The extent epoch of ring memory moves (R358): the pair enters ERROR with cause RING_STALE. -/
def Mod.ringsStale (m : Mod) (base size : Nat) : Mod :=
  m.livePairs.foldl (fun a n => if (a.ringMem n).any fun r => overlaps r.1 r.2 base size then a.ringError n 2 else a) m

/-- The owner of pairs is disabled (R358). -/
def Mod.ringsOwnerOff (m : Mod) (c : Nat) : Mod :=
  m.livePairs.foldl (fun a n => if a.rf n RingEF.ownerCtx = c then a.ringError n 4 else a) m

/-- HOST_CTX_RESET resets every pair the context owns (R357). -/
def Mod.ringsReset (m : Mod) (c : Nat) : Mod :=
  m.livePairs.foldl (fun a n => if a.rf n RingEF.ownerCtx = c then a.ringReset n else a) m

end Sys2Proof.Machine
end

