-- ==== Sys2Proof/Machine/Fabric.lean ====
section
/-!
DEFINITION. Machine/Fabric.lean: host ports and capacity (chapter 06): links and drains (R162 to R164, R181 to R183),
dynamic capacity (R170 to R177), contexts, decoders, alias windows, link IDE.
-/
namespace Sys2Proof.Machine

open Host

/-! ## Links -/

/-- The context is reached through a logical device (R165). -/
def Mod.isDirect (m : Mod) (c : Nat) : Bool := m.lds.any fun e => e.2.1 = c && e.2.2

/-- The port is in direct mode and one of its logical devices holds a grant on an HDM-DB extent (R164). -/
def Mod.needs256 (m : Mod) (port : Nat) : Bool :=
  m.gfdMode port || m.lds.any fun e => e.1 / 16 = port && e.2.2 && m.fab.grants.any fun g =>
    g.ctx = e.2.1 && g.st != .withdrawn && (match m.ext g.ext with
      | some x => (m.extReg x).hdmDb
      | none => false)

/-- The port is held: LINK_STATE 4. -/
def Mod.holdPort (m : Mod) (port : Nat) : Mod := (m.linkLoss port).set (pgPrt port) PrtF.hostLinkState 4

/-- HOST_LINK_UP: training ends at a rate, width and flit mode (R162 to R164); a port in GFD mode without its PBR ID stays held
(R187). A port that is held trains only after RETRAIN or APPLY. -/
def execHostLinkUp (port speed width : Nat) (f256 latOpt : Bool) (s : State) : Outcome State Fault Refusal :=
  s.onUnit (portOk port) fun m =>
    let p := pgPrt port
    let st := m.get p PrtF.hostLinkState
    let retrain := m.is p PrtF.hostRetrain
    if !m.runs || m.saving || !m.hostRole port || !m.restored || !m.clocked port || m.quadChanging port || m.is p PrtF.hostLinkDisable || st = 3 || st = 4 || (st = 2 && !retrain) ||
       speed = 0 || m.get p PrtF.hostMaxSpeed < speed then m
    else if m.gfdMode port && !m.is p PrtF.hostPbrValid then m.holdPort port
    else
      let m := m.set p PrtF.hostRetrain 0
      let wide := f256 || speed = 5
      if width != 4 && width != 8 && width != 16 then (m.holdPort port).raise p 10 0
      else if !wide && m.needs256 port then (m.holdPort port).raise p 9 0
      else
        let flit := if !wide then 1 else if speed = 5 && latOpt && m.is p PrtF.hostLatOptEn then 3 else 2
        let m := (((m.set p PrtF.hostLinkState 2).set p PrtF.hostSpeed speed).set p PrtF.hostWidth width).set p PrtF.hostFlitMode flit
        if speed < m.get p PrtF.hostMaxSpeed then m.raise p 11 0 else m

/-- HOST_LINK_LOSS: the data link layer leaves the up state (R181); the port trains again unless it is disabled. -/
def execHostLinkLoss (port : Nat) (s : State) : Outcome State Fault Refusal :=
  s.onUnit (portOk port) fun m =>
    if !m.runs || !m.hostRole port || !m.portUp port then m else
    let m := m.linkLoss port
    if m.is (pgPrt port) PrtF.hostLinkDisable then m else m.set (pgPrt port) PrtF.hostLinkState 1

/-- RETRAIN is written in the host role (R187): it forces a retrain, and takes a held port back to training (R164). -/
def Mod.hostRetrain (m : Mod) (port : Nat) : Mod :=
  let p := pgPrt port
  if !m.hostRole port || m.is p PrtF.hostLinkDisable || m.get p PrtF.hostLinkState = 3 then m
  else
    let m := m.set p PrtF.hostRetrain 1
    let m := m.countQuad port 0x100
    if m.get p PrtF.hostLinkState = 2 then m else m.set p PrtF.hostLinkState 1

/-- HOST_RETRAIN: R187. -/
def execHostRetrain (port : Nat) (s : State) : Outcome State Fault Refusal :=
  s.onUnit (portOk port) fun m => m.hostRetrain port

/-- A drain starts (R183): the port stops granting credit. On a link that is down it has nothing to do. -/
def Mod.drainStart (m : Mod) (port : Nat) (why : DrainWhy) : Mod :=
  let p := pgPrt port
  if !m.hostRole port then m
  else if m.get p PrtF.hostLinkState = 2 then
    ((m.set p PrtF.hostLinkState 3).set p PrtF.hostDrain 1).setHp port { m.hp port with drain := some (why, m.tick) }
  else m

/-- DRAIN: R183, R187. -/
def execDrain (port : Nat) (s : State) : Outcome State Fault Refusal :=
  s.onUnit (portOk port) fun m => m.drainStart port .write

/-- Something a draining port accepted is not yet answered: a request, a held full stop, a snoop (R183, step 2). -/
def Mod.drainOwes (m : Mod) (port : Nat) : Bool :=
  let mine := fun (w : Who) => match w with
    | .host src _ => src.port = port
    | _ => false
  (m.led.reqs.any fun r => mine r.who && !r.mute) || (m.led.stops.any fun s => mine s.who && !s.mute) || m.dir.snoops.any fun s => s.port = port

/-- DRAIN_COMPLETE: the link is taken down with nothing left to discard (R183). -/
def execDrainComplete (port : Nat) (s : State) : Outcome State Fault Refusal :=
  s.onUnit (portOk port) fun m =>
    if (m.hp port).drain.isSome && !m.drainOwes port then m.linkLoss port else m

/-- DRAIN_TIMEOUT: 1 ms after it began the drain takes the link down anyway and sets DRAIN_FORCED (R183). -/
def execDrainTimeout (port : Nat) (s : State) : Outcome State Fault Refusal :=
  s.onUnit (portOk port) fun m => match (m.hp port).drain with
    | some (_, t) => ((m.until_ (t + ms)).linkLoss port).raise (pgPrt port) 17 0
    | none => m

/-- A host port trains, unless it is disabled (R187), held (R164) or its quad changes role (R154). -/
def Mod.hostTrains (m : Mod) (port : Nat) : Mod :=
  if m.is (pgPrt port) PrtF.hostLinkDisable || m.get (pgPrt port) PrtF.hostLinkState = 4 || m.quadChanging port then m else m.set (pgPrt port) PrtF.hostLinkState 1

/-- LINK_DISABLE is written (R187): 1 drains the link and holds it down, 0 lets it train again. -/
def Mod.linkDisable (m : Mod) (port : Nat) (on : Bool) : Mod :=
  let st := m.get (pgPrt port) PrtF.hostLinkState
  let m := m.set (pgPrt port) PrtF.hostLinkDisable (b2n on)
  if on then
    (if m.portUp port then m.drainStart port .disable
     else if st = 1 then m.set (pgPrt port) PrtF.hostLinkState 0 else m)
  else if st = 0 && m.hostRole port && m.restored && m.clocked port then m.hostTrains port else m

/-- LINK_DISABLE: R187. -/
def execLinkDisable (port : Nat) (on : Bool) (s : State) : Outcome State Fault Refusal :=
  s.onUnit (portOk port) fun m => m.linkDisable port on

/-- IDE_KM: keys are programmed over the DOE mailbox, and IDE is active on the link for CXL.mem or CXL.io (R180); a bad request
programs nothing. -/
def execIdeKm (port : Nat) (mem good : Bool) (s : State) : Outcome State Fault Refusal :=
  s.onUnit (portOk port) fun m =>
    if !good || !m.runs || !m.hostRole port || !m.portUp port then m else
    let h := m.hp port
    if mem then (m.setHp port { h with ideMem := true, insecure := false }).set (pgPrt port) PrtF.hostIdeActive 1
    else m.setHp port { h with ideIo := true }

/-! ## Regions and contexts -/

/-- The region holds an extent. -/
def Mod.regionUsed (m : Mod) (r : Nat) : Bool := m.fab.extents.any fun e => e.2.region = r

/-- SET_DC_REGION_CONFIG: one of 8 regions in blocks of 2 MiB within DPA space, apart from the others (R170); Busy while it
holds an extent. Length 0 removes it. -/
def execSetDcRegionConfig (via : Via) (region base len : Nat) (s : State) : Outcome State Fault Refusal :=
  s.onM fun m => m.onMailbox via fun m =>
    if 8 ≤ region || base % granuleBytes != 0 || len % granuleBytes != 0 || dpaBytes < base + len ||
       (m.fab.regions.any fun e => e.1 != region && overlaps base len e.2.base e.2.len) then m.reply via .invalidInput []
    else if m.regionUsed region then m.reply via .busy []
    else ({ m with fab := { m.fab with regions := mapPut m.fab.regions region { m.region region with base := base, len := len } } }).reply via .success []

/-- REGION_ATTR_SET: R170, R185. -/
def execRegionAttrSet (via : Via) (region : Nat) (durable hdmDb thin : Bool) (domain : Nat) (s : State) : Outcome State Fault Refusal :=
  s.onM fun m => m.onMailbox via fun m =>
    if 8 ≤ region || domain = 0 || 4095 < domain || (durable && thin) || (durable && m.isDomain domain && m.modeOf domain != 2) then
      m.reply via .invalidInput []
    else if m.regionUsed region then m.reply via .busy []
    else
      let r := { m.region region with durable := durable, hdmDb := hdmDb, thin := thin, domain := domain }
      ({ m with fab := { m.fab with regions := mapPut m.fab.regions region r } }).reply via .success []

/-- REGION_ATTR_GET: R170, R185. -/
def execRegionAttrGet (via : Via) (region : Nat) (s : State) : Outcome State Fault Refusal :=
  s.onM fun m => m.onMailbox via fun m =>
    if 8 ≤ region then m.reply via .invalidInput []
    else
      let r := m.region region
      m.reply via .success (leBytes 1 (b2n r.durable + 2 * b2n r.hdmDb + 4 * b2n r.thin) ++ leBytes 2 r.domain)

/-- GET_DCD_INFO: regions, capacity and block size (R170, R184). -/
def execGetDcdInfo (via : Via) (s : State) : Outcome State Fault Refusal :=
  s.onM fun m => m.onMailbox via fun m => m.replyVals via .success [8, dpaBytes, granuleBytes]

/-- Regions as values: number, base, length, attributes. -/
def Mod.regionVals (m : Mod) : List Nat :=
  m.fab.regions.foldl (fun a e => a ++ [e.1, e.2.base, e.2.len, b2n e.2.durable + 2 * b2n e.2.hdmDb + 4 * b2n e.2.thin]) []

/-- GET_HOST_DC_REGION_CONFIG: R184. -/
def execGetHostDcRegionConfig (via : Via) (s : State) : Outcome State Fault Refusal :=
  s.onM fun m => m.onMailbox via fun m => m.replyVals via .success m.regionVals

/-- An extent as values: number, base, size, region, epoch. -/
def extVals (n : Nat) (e : Extent) : List Nat := [n, e.base, e.size, e.region, e.epoch]

/-- GET_DC_REGION_EXTENT_LISTS: R184. -/
def execGetDcRegionExtentLists (via : Via) (s : State) : Outcome State Fault Refusal :=
  s.onM fun m => m.onMailbox via fun m => m.replyVals via .success (m.fab.extents.foldl (fun a e => a ++ extVals e.1 e.2) [])

/-- Extents a logical device's context has accepted. -/
def Mod.ldExtents (m : Mod) (port ld : Nat) : List Nat :=
  let c := (m.ldOf port ld).1
  m.fab.extents.foldl (fun a e => match m.grant c e.1 with
    | some g => if g.st = .active then a ++ extVals e.1 e.2 else a
    | none => a) []

/-- A logical device's own mailbox answers (R167). -/
def Mod.ldMailbox (m : Mod) (port ld : Nat) : Bool :=
  m.runs && !m.saving && m.hostRole port && !m.gfdMode port && m.portUp port && decide (ld < 16) && (m.ldOf port ld).2

/-- GET_DC_EXTENT_LIST: R201. -/
def execGetDcExtentList (port ld : Nat) (s : State) : Outcome State Fault Refusal :=
  s.onUnit (portOk port) fun m => m.when (m.ldMailbox port ld) fun m => m.send (.ldReply port ld .success (m.ldExtents port ld))

/-- EXT_INFO: R185. -/
def execExtInfo (via : Via) (ext : Nat) (s : State) : Outcome State Fault Refusal :=
  s.onM fun m => m.onMailbox via fun m => match m.ext ext with
    | some e => m.replyVals via .success [e.base, e.size, e.region, e.epoch, e.hosts.length, e.stripe.getD 0]
    | none => m.reply via .invalidInput []

/-- HOST_CTX_SET: disabling withdraws no grant and puts the pairs the context owns in ERROR (R166, R185, R358); the floor sum is
checked at the next spell boundary (R377). -/
def execHostCtxSet (via : Via) (ctx : Nat) (en : Bool) (s : State) : Outcome State Fault Refusal :=
  s.onM fun m => m.onMailbox via fun m =>
    if 4096 ≤ ctx then m.reply via .invalidInput []
    else
      let on := m.fab.ctxOn.filter fun c => c != ctx
      let m := { m with fab := { m.fab with ctxOn := if en then on ++ [ctx] else on }, spl := { m.spl with check := true } }
      (if en then m else m.ringsOwnerOff ctx).reply via .success []

/-- HOST_CTX_RESET: queued responses of the context are discarded, its HDM-DB transactions and tenures end on every port, its
watched line is cleared and its pairs are reset (R182, R239, R357). A background command, it completes once they are done, which is
before anything else happens. -/
def execHostCtxReset (via : Via) (ctx : Nat) (s : State) : Outcome State Fault Refusal :=
  s.onM fun m => m.onMailbox via fun m =>
    if 4096 ≤ ctx then m.reply via .invalidInput []
    else if m.bgBusy via then m.reply via .busy []
    else
      let m := (m.reply via .background []).mute fun w => match w with
        | .host _ c => c = ctx
        | _ => false
      (((m.ctxGone ctx).unwatch ctx).ringsReset ctx).reply via .success []

/-! ## Decoders and windows -/

/-- Interleave ways and granularity of R168. -/
def waysOk (w : Nat) : Bool := [1, 2, 4, 8, 16].contains w
def granOk (g : Nat) : Bool := [256, 512, 1024, 2048, 4096, 8192, 16384].contains g

/-- HOST_DEC_SET: R168, R185. SIZE 0 clears the decoder. -/
def execHostDecSet (via : Via) (ctx dec base size ways gran pos dpa : Nat) (s : State) : Outcome State Fault Refusal :=
  s.onM fun m => m.onMailbox via fun m =>
    let others := (upto 8).filterMap fun i => if i = dec then none else mapGet m.fab.gfd (ctx * 8 + i)
    if 4096 ≤ ctx || 8 ≤ dec then m.reply via .invalidInput []
    else if size = 0 then ({ m with fab := { m.fab with gfd := mapDel m.fab.gfd (ctx * 8 + dec) } }).reply via .success []
    else if base % 268435456 != 0 || size % 268435456 != 0 || !waysOk ways || !granOk gran || ways ≤ pos || dpa % granuleBytes != 0 ||
            dpaBytes < dpa + size / ways || (others.any fun d => overlaps base size d.base d.size) then m.reply via .invalidInput []
    else
      let d : Decoder := { base := base, size := size, ways := ways, gran := gran, pos := some pos, dpa := dpa }
      ({ m with fab := { m.fab with gfd := mapPut m.fab.gfd (ctx * 8 + dec) d } }).reply via .success []

/-- A span of R178: a power of two from 2 MiB to 64 GiB. -/
def spanOk (n : Nat) : Bool := (upto 16).any fun i => n = granuleBytes * 2 ^ i

/-- ALIAS_SET: R178, R185. S 0 clears the window. -/
def execAliasSet (via : Via) (ctx win base span dpa : Nat) (consumers : List Nat) (s : State) : Outcome State Fault Refusal :=
  s.onM fun m => m.onMailbox via fun m =>
    if 4096 ≤ ctx || 4 ≤ win then m.reply via .invalidInput []
    else if span = 0 then ({ m with fab := { m.fab with alias_ := mapDel m.fab.alias_ (ctx * 4 + win) } }).reply via .success []
    else if !spanOk span || base % (32 * span) != 0 || dpa % granuleBytes != 0 then m.reply via .invalidInput []
    else
      let w : AliasWin := { base := base, span := span, dpa := dpa, consumers := (upto 16).map fun i => consumers.getD i 0xFFFF % 65536 }
      ({ m with fab := { m.fab with alias_ := mapPut m.fab.alias_ (ctx * 4 + win) w } }).reply via .success []

/-- HDM_DECODER_COMMIT: a logical device's decoder is checked and put in force (R168); the standard's commit rules besides R168's
fields are log entry 24: decoders commit in order and in rising host addresses. Size 0 takes it out of force. -/
def execHdmDecoderCommit (port ld i base size ways gran skip : Nat) (s : State) : Outcome State Fault Refusal :=
  s.onUnit (portOk port) fun m =>
    if !m.ldMailbox port ld || 4 ≤ i then m else
    let key := (port * 16 + ld) * 4
    if size = 0 then { m with fab := { m.fab with hdm := mapDel m.fab.hdm (key + i) } } else
    let before := (upto i).map fun j => mapGet m.fab.hdm (key + j)
    let ends := before.filterMap fun d => d.map fun d => d.base + d.size
    let dpas := before.filterMap fun d => d.map fun d => d.dpa + d.size / d.ways
    let dpa := dpas.foldl max 0 + skip
    if base % 268435456 != 0 || size % (268435456 * ways) != 0 || !waysOk ways || !granOk gran || (before.any fun d => d.isNone) ||
       (ends.any fun x => decide (base < x)) || dpaBytes < dpa + size / ways then m
    else
      let d : Decoder := { base := base, size := size, ways := ways, gran := gran, pos := none, dpa := dpa }
      { m with fab := { m.fab with hdm := mapPut m.fab.hdm (key + i) d } }

end Sys2Proof.Machine
end

