-- ==== Sys2Proof/Machine/Extents.lean ====
section
/-!
DEFINITION. Machine/Extents.lean: dynamic capacity handed out and taken back (R171 to R177): adds, responses, releases, moves,
adoption; grants and their recycling (R173); suspension of durable extents (R70).
-/
namespace Sys2Proof.Machine

open Host

/-! ## Sizes and room -/

/-- Total size of the module's own durable extents in bytes (R47). -/
def Mod.durableSize (m : Mod) : Nat :=
  m.fab.extents.foldl (fun a e => if (m.extReg e.2).durable && e.2.adopted.isNone then a + e.2.size else a) 0

/-- Total size of thin extents in bytes (R246). -/
def Mod.thinSize (m : Mod) : Nat := m.fab.extents.foldl (fun a e => if (m.extReg e.2).thin then a + e.2.size else a) 0

/-- Units of the stripe space (R87). -/
def Mod.stripeSpace (m : Mod) : Nat := match m.grp.map with
  | some g => g.units
  | none => 16777216

/-- Granules of the stripe space taken, as (first, count). -/
def Mod.stripeRuns (m : Mod) : List (Nat × Nat) :=
  m.fab.extents.filterMap fun e => if e.2.adopted.isSome then none else e.2.stripe.map fun g => (g, e.2.size / granuleBytes)

/-- The lowest-numbered run of `n` free granules (R87). -/
def Mod.stripeRun (m : Mod) (n : Nat) : Option Nat :=
  let taken := m.stripeRuns.foldl (fun a r => spanInsert a r) []
  let cand := 0 :: taken.map fun r => r.1 + r.2
  let ok := cand.filter fun c => decide (c + n ≤ m.stripeSpace / 512) && taken.all fun r => !overlaps c n r.1 r.2
  ok.foldl (fun a c => match a with
    | none => some c
    | some b => some (min b c)) none

/-- The lowest free range of DPA for an extent in a region (log entry 14). -/
def Mod.freeDpa (m : Mod) (r : Region) (size : Nat) : Option Nat :=
  let taken := m.fab.extents.map fun e => (e.2.base, e.2.size)
  let cand := r.base :: (taken.map fun t => t.1 + t.2)
  let ok := cand.filter fun c => decide (r.base ≤ c) && decide (c + size ≤ r.base + r.len) && taken.all fun t => !overlaps c size t.1 t.2
  ok.foldl (fun a c => match a with
    | none => some c
    | some b => some (min b c)) none

/-- The lowest free extent number (R171). -/
def Mod.freeExt (m : Mod) : Option Nat := (upto 65536).find? fun n => (m.ext n).isNone

/-! ## Grants (R173) -/

/-- Position of the first grant of which `f` holds is removed: the list is oldest first. -/
def dropOldest (f : Grant → Bool) : List Grant → Option (List Grant)
  | [] => none
  | g :: t => if f g then some t else (dropOldest f t).map fun l => g :: l

/-- A context gets a grant for an extent, an older one of the pair giving way; WITHDRAWN ones are recycled at the limits; none
where the add must be refused. -/
def Mod.addGrant (m : Mod) (c n epoch : Nat) (st : GrantSt) : Option Mod :=
  let l := m.fab.grants.filter fun g => !(g.ctx = c && g.ext = n)
  let room := if 1024 ≤ (l.filter fun g => g.ctx = c).length then dropOldest (fun g => g.ctx = c && g.st = .withdrawn) l
              else if 262144 ≤ l.length then dropOldest (fun g => g.st = .withdrawn) l
              else some l
  room.map fun l => { m with fab := { m.fab with grants := l ++ [{ ctx := c, ext := n, epoch := epoch, st := st }] } }

/-- Contexts join an extent's host set (R173): a GFD context's grant is ACTIVE at once, a direct-mode one's is reserved until its
host answers, which the Add Capacity record asks for. -/
def Mod.joinHosts (m : Mod) (n epoch : Nat) : List Nat → Option Mod
  | [] => some m
  | c :: t =>
    let d := m.isDirect c
    match m.addGrant c n epoch (if d then .reserved else .active) with
    | none => none
    | some m => Mod.joinHosts (if d then m.event .info .dcAdd [c, n] else m) n epoch t

/-- The extent epoch advances (R172): the grants of contexts that remain are stamped with it, and pairs whose ring memory lies in
the extent enter ERROR (R358). -/
def Mod.bumpEpoch (m : Mod) (n : Nat) : Mod := match m.ext n with
  | none => m
  | some e =>
    let ep := (e.epoch + 1) % 65536
    let stamp := fun (g : Grant) => if g.ext = n && g.st != .withdrawn && e.hosts.contains g.ctx then { g with epoch := ep } else g
    let m := (m.updExt n fun e => { e with epoch := ep })
    let m := { m with fab := { m.fab with grants := m.fab.grants.map stamp } }
    m.ringsStale e.base e.size

/-- Contexts leave an extent's host set (R172, R173): ACTIVE grants are WITHDRAWN, reserved ones freed; the epoch advances; in the
same step they leave the directory entries of the extent's lines (R235) and their watched lines there are cleared (R239). -/
def Mod.leaveHosts (m : Mod) (n : Nat) (cs : List Nat) : Mod := match m.ext n with
  | none => m
  | some e =>
    let gone := fun (g : Grant) => g.ext = n && cs.contains g.ctx
    let gs := m.fab.grants.filterMap fun g => if gone g then (if g.st = .reserved then none else some { g with st := .withdrawn }) else some g
    let m := { m with fab := { m.fab with grants := gs } }
    let m := (m.updExt n fun e => { e with hosts := e.hosts.filter fun c => !cs.contains c }).bumpEpoch n
    let inE := fun (l : Nat) => decide (e.base ≤ l * 64) && decide (l * 64 < e.base + e.size)
    cs.foldl (fun a c =>
      let a := a.dirDropAll c inE
      match mapGet a.dir.watch c with
      | some l => if inE l then a.unwatch c else a
      | none => a) m

/-! ## Adds -/

/-- An add is refused whatever its size (R171, R164, R221). `life` is the lifecycle state (R442). -/
def Mod.addBad (m : Mod) (life : Nat) (r : Region) (hosts : List Nat) : Bool :=
  life = 0 || life = 3 || (r.durable && life = 1) || r.len = 0 || (hosts.any fun c => decide (4096 ≤ c)) || !hosts.Nodup ||
  (decide (2 ≤ hosts.length) && !r.hdmDb) || !m.isDomain r.domain || (r.durable && m.modeOf r.domain != 2) ||
  (r.hdmDb && m.lds.any fun e => e.2.2 && hosts.contains e.2.1 &&
    (m.get (pgPrt (e.1 / 16)) PrtF.hostFlitMode = 1 || !(m.hp (e.1 / 16)).bi.contains (e.1 % 16)))

/-- The module has no room for an extent of this size (R47, R171, R246). -/
def Mod.addFull (m : Mod) (r : Region) (size : Nat) : Bool :=
  (r.durable && decide (m.get pgAge AgeF.allowNow * gib < m.durableSize + size)) ||
  (r.thin && decide (m.get pgMov MovF.thinLimit * gib < m.thinSize + size)) ||
  (!r.thin && !m.fits (size / 4096) (if r.durable then 10000 else 9800))

/-- A new extent is refused (R171, R246, R47, R164, R221): Invalid Input (log entry 113). -/
def Mod.addRefused (m : Mod) (life : Nat) (r : Region) (size : Nat) (hosts : List Nat) : Bool :=
  m.addBad life r hosts || size = 0 || size % granuleBytes != 0 || m.addFull r size

/-- Zeros are written to every line of a durable extent through the durable write path (R87), the highest line first (log entry 14). -/
def Mod.zeroExtent (m : Mod) (e : Extent) : Mod :=
  (upto (e.size / 64)).reverse.foldl (fun a i =>
    let l := e.base / 64 + i
    a.acceptDurable l e (a.line l) (zeros 64) false false) m

/-- An extent comes into being (R171, R246): its frames are taken and zero-filled; a durable one has its stripe run zeroed. -/
def Mod.newExtent (m : Mod) (n region base size : Nat) (runs : List Run) (stripe : Option Nat) (adopted : Option Nat) (epoch : Nat) : Mod :=
  let e : Extent := { base := base, size := size, region := region, epoch := epoch, hosts := [], order := m.fab.order, adopted := adopted,
                      stripe := stripe, runs := runs, suspended := false, closing := false, zeroing := false }
  let m := { m with fab := { m.fab with extents := mapPut m.fab.extents n e, order := m.fab.order + 1 } }
  if (m.region region).durable && adopted.isNone then m.zeroExtent e else m

/-- A new extent is added with its hosts, or the add is refused whole (R171, R173, R246). -/
def Mod.addExtent (m : Mod) (via : Via) (life region size : Nat) (base : Option Nat) (stripe : Option Nat) (hosts : List Nat) : Mod :=
  let r := m.region region
  if m.addRefused life r size hosts then m.reply via .invalidInput []
  else
    let b := match base with
      | some b => if b % granuleBytes = 0 && r.base ≤ b && b + size ≤ r.base + r.len &&
          !(m.fab.extents.any fun e => overlaps b size e.2.base e.2.size) then some b else none
      | none => m.freeDpa r size
    match b, m.freeExt with
    | some b, some n =>
      let runs := if r.thin then some [] else m.allocRuns (size / 4096)
      let at_ := match stripe with
        | some g => if g + size / granuleBytes ≤ m.stripeSpace / 512 && m.stripeRuns.all fun x => !overlaps g (size / granuleBytes) x.1 x.2
                    then some g else none
        | none => m.stripeRun (size / granuleBytes)
      match runs, (if r.durable then at_.map some else some none) with
      | some runs, some st =>
        let m' := m.newExtent n region b size runs st none 1
        match (m'.updExt n fun e => { e with hosts := hosts }).joinHosts n 1 hosts with
        | some m' => m'.checkUse.replyVals via .success [n]
        | none => m.reply via .invalidInput []
      | some _, none => m.reply via .busy []
      | none, _ => m.reply via .invalidInput []
    | _, _ => m.reply via .invalidInput []

/-- Further hosts join an existing extent (R172): the epoch advances and every grant of the set carries it. -/
def Mod.extendExtent (m : Mod) (via : Via) (life n : Nat) (hosts : List Nat) : Mod := match m.ext n with
  | none => m.reply via .invalidInput []
  | some e =>
    let all := e.hosts ++ hosts
    if hosts = [] || e.closing || e.zeroing || 4096 < all.length then m.reply via .invalidInput []
    else if m.addBad life { m.extReg e with durable := false } all then m.reply via .invalidInput []
    else
      let m' := m.bumpEpoch n
      let ep := ((m'.ext n).map Extent.epoch).getD 0
      (match (m'.updExt n fun e => { e with hosts := all }).joinHosts n ep hosts with
       | some m' => m'.replyVals via .success [n]
       | none => m.reply via .invalidInput [])

/-- INITIATE_DC_ADD: a new extent, or further hosts for one that exists (R171 to R173, R184). -/
def execInitiateDcAdd (via : Via) (ext : Option Nat) (region size : Nat) (base : Option Nat) (hosts : List Nat) (s : State) :
    Outcome State Fault Refusal :=
  s.onM fun m => m.onMailbox via fun m => match ext with
    | some n => m.extendExtent via s.fuse.lifecycle n hosts
    | none =>
      if 8 ≤ region || hosts = [] || 4096 < hosts.length then m.reply via .invalidInput []
      else m.addExtent via s.fuse.lifecycle region size base none hosts

/-! ## Taking back -/

/-- Page numbers of a range of DPA. -/
def inPages (base size p : Nat) : Bool := decide (base ≤ p * 4096) && decide (p * 4096 < base + size)
def inLines (base size l : Nat) : Bool := decide (base ≤ l * 64) && decide (l * 64 < base + size)

/-- An extent is freed (R87, R244, R263, R266): moves of its pages end; frames, grains, peer pages and tags are freed; LOST pages
leave the poison list; entries, watched lines and bytes are gone; its grants stay WITHDRAWN. -/
def Mod.freeExtent (m : Mod) (n : Nat) : Mod := match m.ext n with
  | none => m
  | some e =>
    let ps := (m.tier.pages.map Prod.fst).filter fun p => inPages e.base e.size p
    let m := ps.foldl (fun (a : Mod) p =>
      let a := match mapGet a.tier.moves p with
        | some (.plain _) => { a with tier := { a.tier with moves := mapDel a.tier.moves p } }
        | some _ => a.abandonMove p
        | none => a
      let a := match (a.page p).st with
        | .peer mb slot => (a.request mb 0x0D (leBytes 8 slot)).1
        | _ => a
      let a := (a.freePlace (a.page p).st).mapChanged p
      a.unlistPoison (p * 4096) 4096) m
    let fc := (m.tier.fc.map fun s => (s.1, s.2.filter fun x => !inLines e.base e.size x.line)).filter fun s => s.2 != []
    let m := { m with
      mem := Memory.clear m.mem e.base e.size,
      poison := m.poison.filter fun x => !inLines e.base e.size x.1,
      tier := { m.tier with pages := m.tier.pages.filter fun x => !inPages e.base e.size x.1, fc := fc,
                            fetches := m.tier.fetches.filter fun x => !inPages e.base e.size x.1 } }
    let m := { m with mgmt := { m.mgmt with poisonList := m.mgmt.poisonList.filter fun x => !(decide (e.base ≤ x.1) && decide (x.1 < e.base + e.size)) } }
    let m := (m.dir.watch.filter fun w => inLines e.base e.size w.2).foldl (fun (a : Mod) w => a.unwatch w.1) m
    let h := fun (d : Map (List DirEnt)) => (d.map fun s => (s.1, s.2.filter fun x => !inLines e.base e.size x.line)).filter fun s => s.2 != []
    let k := fun (x : List (Nat × Nat)) => x.filter fun y => !inLines e.base e.size y.1
    let m := { m with dir := { m.dir with onDie := h m.dir.onDie, inMem := h m.dir.inMem, late := k m.dir.late, taken := k m.dir.taken } }
    let gs := m.fab.grants.filterMap fun g => if g.ext = n then (if g.st = .reserved then none else some { g with st := .withdrawn }) else some g
    (({ m with fab := { m.fab with extents := mapDel m.fab.extents n, grants := gs } }).frontsDrop n).checkUse

/-- A journal window lies in the extent (R47). -/
def Mod.hasWindow (m : Mod) (e : Extent) : Bool :=
  m.led.wins.any fun w => decide (e.base ≤ w.2.entry.dataBase) && decide (w.2.entry.dataBase < e.base + e.size)

/-- Requests checked under an older epoch of the extent, and full stops held in it (R177). -/
def Mod.oldEpochWork (m : Mod) (n : Nat) (e : Extent) : Bool :=
  (m.led.reqs.any fun r => match r.ext with
    | some (x, ep) => x = n && ep != e.epoch && r.wait != .ingress
    | none => false) ||
  m.led.stops.any fun s => match mapGet m.led.wins s.win with
    | some w => decide (e.base ≤ w.entry.stopDpa) && decide (w.entry.stopDpa < e.base + e.size)
    | none => false

/-- A change of an extent's host set takes its place behind those already running or waiting (R177). -/
def Mod.addChange (m : Mod) (c : Change) : Mod := { m with fab := { m.fab with changes := m.fab.changes ++ [c] } }

/-- The completion of a release or move. -/
def Mod.endChange (m : Mod) (c : Change) : Mod :=
  let m := { m with fab := { m.fab with changes := m.fab.changes.filter fun x => x != c } }
  match c.via with
  | some v => (m.bgDone v).reply v .success []
  | none => m

/-- A waiting change of an extent begins (R177, R186): forced removal and a move advance the epoch at once; a release asks each
named host. -/
def Mod.beginChange (m : Mod) (n : Nat) : Mod :=
  if m.fab.changes.any fun c => c.ext = n && c.started then m else
  match m.fab.changes.find? fun c => c.ext = n with
  | none => m
  | some c =>
    let mark := fun (m : Mod) => { m with fab := { m.fab with changes := m.fab.changes.map fun x => if x = c then { x with started := true } else x } }
    match m.ext n, c.kind with
    | none, _ => m.endChange c
    | some e, .move hosts =>
      let out := e.hosts.filter fun x => !hosts.contains x
      let new := hosts.filter fun x => !e.hosts.contains x
      let ep := (e.epoch + 1) % 65536
      let m' := mark (m.leaveHosts n out)
      (match (m'.updExt n fun e => { e with hosts := hosts }).joinHosts n ep new with
       | some m' => m'
       | none => (m'.updExt n fun e => { e with hosts := e.hosts }))
    | some _, .release left =>
      mark (left.foldl (fun a h => if a.isDirect h then a.event .info .dcRelease [h, n] else a) m)

/-- A release or move that every slice has taken completes (R177): zeros of a durable release are written only now; the extent is
freed once they are protected (R87). -/
def Mod.takenAll (m : Mod) (n : Nat) : Mod :=
  match m.ext n, m.fab.changes.find? fun c => c.ext = n && c.started with
  | some e, some c =>
    let left := match c.kind with
      | .release l => l
      | .move _ => []
    if left != [] || m.oldEpochWork n e || m.saving then m
    else if e.hosts != [] || (match c.kind with
      | .move _ => true
      | _ => false) then (m.endChange c).beginChange n
    else if (m.extReg e).durable && e.adopted.isNone then
      let m := if e.zeroing then m else (m.updExt n fun x => { x with zeroing := true, closing := true }).zeroExtent e
      if m.led.dws.any fun d => inLines e.base e.size d.line then m else ((m.freeExtent n).endChange c).beginChange n
    else ((m.freeExtent n).endChange c).beginChange n
  | _, _ => m

/-- EPOCH_TAKEN_ALL_SLICES: R177. -/
def execEpochTakenAllSlices (ext : Nat) (s : State) : Outcome State Fault Refusal := s.onM fun m => m.when m.runs fun m => m.takenAll ext

/-- Releases whose zeros have become protected complete (R87). -/
def Mod.settleReleases (m : Mod) : Mod :=
  (m.fab.extents.filter fun e => e.2.zeroing).foldl (fun a e => a.takenAll e.1) m

/-- A host accepts its reserved extent, or declines it and leaves the host set; an extent left without hosts is freed (R173). -/
def Mod.addResponse (m : Mod) (port ld ext : Nat) (accept : Bool) : Mod :=
  let c := (m.ldOf port ld).1
  match m.grant c ext, m.ext ext with
  | some g, some e =>
    if g.st != .reserved then m.send (.ldReply port ld .invalidExtentList []) else
    if accept then
      let gs := m.fab.grants.map fun x => if x = g then { x with st := .active, epoch := e.epoch } else x
      ({ m with fab := { m.fab with grants := gs } }).send (.ldReply port ld .success [])
    else
      let m := m.leaveHosts ext [c]
      let m := if ((m.ext ext).map Extent.hosts) = some [] && !(m.fab.changes.any fun x => x.ext = ext) then
          (m.addChange { ext := ext, kind := .release [], via := none, started := true }).takenAll ext
        else m
      m.send (.ldReply port ld .success [])
  | _, _ => m.send (.ldReply port ld .invalidExtentList [])

/-- ADD_DC_RESPONSE: R173, on the logical device's own mailbox. -/
def execAddDcResponse (port ld ext : Nat) (accept : Bool) (s : State) : Outcome State Fault Refusal :=
  s.onUnit (portOk port) fun m => m.when (m.ldMailbox port ld) fun m => m.addResponse port ld ext accept

/-- A release of these hosts would free a durable extent in which a window lies (R47). -/
def Mod.releaseBlocked (m : Mod) (e : Extent) (hosts : List Nat) : Bool :=
  (m.extReg e).durable && m.hasWindow e && e.hosts.all fun h => hosts.contains h

/-- INITIATE_DC_RELEASE: R177. It runs in the background until every slice has taken the new epoch; a second command on the extent
waits its turn (R186). Log entry 112. -/
def execInitiateDcRelease (via : Via) (ext : Nat) (hosts : List Nat) (forced : Bool) (s : State) : Outcome State Fault Refusal :=
  s.onM fun m => m.onMailbox via fun m => match m.ext ext with
    | none => m.reply via .invalidInput []
    | some e =>
      if !(hosts.all fun h => e.hosts.contains h) || !hosts.Nodup then m.reply via .invalidInput []
      else if m.bgBusy via || m.releaseBlocked e hosts then m.reply via .busy []
      else
        let kind : ChangeKind := if forced then .move (e.hosts.filter fun h => !hosts.contains h) else .release hosts
        let kind : ChangeKind := if forced && hosts.length = e.hosts.length then .release [] else kind
        let m := (m.bgStartOn via 0x5605 ext).reply via .background []
        let idle := !(m.fab.changes.any fun c => c.ext = ext)
        let m := if forced then m.event .info .dcForcedRelease (ext :: hosts) else m
        let m := if forced && hosts.length = e.hosts.length && idle then m.leaveHosts ext hosts else m
        let m := m.addChange { ext := ext, kind := kind, via := some via, started := false }
        m.beginChange ext

/-- A host leaves an extent by its own release (R177): the epoch advances as it is accepted. -/
def Mod.hostReleases (m : Mod) (c ext : Nat) : Mod × Rc := match m.ext ext with
  | none => (m, .invalidExtentList)
  | some e =>
    if !e.hosts.contains c then (m, .invalidExtentList)
    else if m.releaseBlocked e (e.hosts.filter fun h => h = c) then (m, .busy)
    else
      let m := m.leaveHosts ext [c]
      let strike := fun (x : Change) => if x.ext = ext && x.started then
          (match x.kind with
           | .release l => { x with kind := .release (l.filter fun h => h != c) }
           | .move _ => x) else x
      let m := { m with fab := { m.fab with changes := m.fab.changes.map strike } }
      let m := if ((m.ext ext).map Extent.hosts) = some [] && !(m.fab.changes.any fun x => x.ext = ext) then
          m.addChange { ext := ext, kind := .release [], via := none, started := true }
        else m
      (m, .success)

/-- RELEASE_DC: by a logical device's host, or by the fabric manager for a GFD context (R177). -/
def execReleaseDc (who : Releaser) (ext : Nat) (s : State) : Outcome State Fault Refusal :=
  match who with
  | .ld port ld => s.onUnit (portOk port) fun m => m.when (m.ldMailbox port ld) fun m =>
      let r := m.hostReleases (m.ldOf port ld).1 ext
      r.1.send (.ldReply port ld r.2 [])
  | .gfd via ctx => s.onM fun m => m.onMailbox via fun m =>
      let r := m.hostReleases ctx ext
      r.1.reply via r.2 []

/-- TUNNEL_MANAGEMENT_COMMAND: a command is carried to a logical device's mailbox (R184); the tunnel completes with it. -/
def execTunnelManagementCommand (via : Via) (port ld : Nat) (c : Tunnelled) (s : State) : Outcome State Fault Refusal :=
  s.onUnit (portOk port) fun m => m.onMailbox via fun m =>
    if 16 ≤ ld || !(m.ldOf port ld).2 then m.reply via .invalidInput [] else
    let ctx := (m.ldOf port ld).1
    match c with
    | .extentList => m.replyVals via .success (m.ldExtents port ld)
    | .release ext => let r := m.hostReleases ctx ext
                      r.1.reply via r.2 []
    | .addResponse ext accept => (m.when (m.ldMailbox port ld) fun m => m.addResponse port ld ext accept).reply via .success []
    | .other => m.reply via .unsupported []

/-- EXT_MOVE: the host set is replaced in one step, in the background (R177, R185). -/
def execExtMove (via : Via) (ext : Nat) (hosts : List Nat) (s : State) : Outcome State Fault Refusal :=
  s.onM fun m => m.onMailbox via fun m => match m.ext ext with
    | none => m.reply via .invalidInput []
    | some e =>
      let r := m.extReg e
      if hosts = [] || !hosts.Nodup || (hosts.any fun h => decide (4096 ≤ h)) || (2 ≤ hosts.length && !r.hdmDb) then m.reply via .invalidInput []
      else if m.bgBusy via then m.reply via .busy []
      else if ((m.joinHosts ext 0 (hosts.filter fun h => !e.hosts.contains h)).isNone) then m.reply via .invalidInput []
      else
        let m := (m.bgStartOn via 0xC437 ext).reply via .background []
        let m := m.addChange { ext := ext, kind := .move hosts, via := some via, started := false }
        m.beginChange ext

/-- A stand-in reads LAST_SEQ of the adopted windows whose stop line the new extent holds (R105): each stop line is reconstructed. -/
def Mod.readStops (m : Mod) (n : Nat) : Mod := match m.ext n with
  | none => m
  | some e => (m.led.wins.filter fun w => decide (16384 ≤ w.1) && inLines e.base e.size (lineOf w.2.entry.stopDpa)).foldl
      (fun a w => (a.reconLine (.line (lineOf w.2.entry.stopDpa)) (lineOf w.2.entry.stopDpa) e).1) m

/-- EXT_ADOPT: R177, R185. At a stand-in the extent holds no frames (R108); under lost index 0xFF at a module in no group it is an
ordinary durable add at the place and STRIPE_BASE named, with an empty host set. -/
def execExtAdopt (via : Via) (lost region base size stripe : Nat) (s : State) : Outcome State Fault Refusal :=
  s.onM fun m => m.onMailbox via fun m =>
    let r := m.region region
    if 8 ≤ region || !r.durable then m.reply via .invalidInput []
    else if lost = 0xFF then
      if m.grp.map.isSome then m.reply via .invalidInput []
      else m.addExtent via s.fuse.lifecycle region size (some base) (some stripe) []
    else if m.standsFor != some lost then m.reply via .invalidInput []
    else if size = 0 || size % granuleBytes != 0 || base % granuleBytes != 0 || base < r.base || r.base + r.len < base + size ||
            (m.fab.extents.any fun e => overlaps base size e.2.base e.2.size) || m.stripeSpace / 512 < stripe + size / granuleBytes ||
            !m.isDomain r.domain then m.reply via .invalidInput []
    else match m.freeExt with
    | some n => ((m.newExtent n region base size [] (some stripe) (some lost) 1).readStops n).replyVals via .success [n]
    | none => m.reply via .invalidInput []

/-! ## Suspension (R70) -/

/-- Windows of an extent change between OPEN and SUSPENDED. -/
def Mod.winsIn (m : Mod) (e : Extent) (from_ dst : WinSt) : Mod :=
  let f := fun (w : Window) => if w.st = from_ && decide (e.base ≤ w.entry.dataBase) && decide (w.entry.dataBase < e.base + e.size)
                               then { w with st := dst } else w
  { m with led := { m.led with wins := m.led.wins.map fun w => (w.1, f w.2) } }

/-- Own durable extents, most recently added first, with their numbers. -/
def Mod.durables (m : Mod) : List (Nat × Extent) :=
  let l := m.fab.extents.filter fun e => (m.extReg e.2).durable && e.2.adopted.isNone
  l.foldl (fun (a : List (Nat × Extent)) e =>
    (a.filter fun x => decide (e.2.order < x.2.order)) ++ [e] ++ a.filter fun x => decide (x.2.order < e.2.order)) []

/-- Total size of durable extents that are not suspended. -/
def Mod.openDurable (m : Mod) : Nat := m.durables.foldl (fun a e => if e.2.suspended then a else a + e.2.size) 0

/-- The durable extents follow the allowance in force (R70): the most recently added are suspended until the rest fit; suspensions
are lifted in the reverse order. Each raises a record naming the extent and the allowance in force. -/
def Mod.followAllowance (m : Mod) : Mod :=
  let a := m.get pgAge AgeF.allowNow
  let m := m.durables.foldl (fun (b : Mod) e =>
    if a * gib < b.openDurable && !e.2.suspended then
      ((b.updExt e.1 fun x => { x with suspended := true }).winsIn e.2 .open_ .suspended).event .warning .extentSuspended [e.1, a]
    else b) m
  (m.durables.reverse.foldl (fun (c : Mod × Bool) e =>
    if c.2 && e.2.suspended then
      if c.1.openDurable + e.2.size ≤ a * gib then
        (((c.1.updExt e.1 fun x => { x with suspended := false }).winsIn e.2 .suspended .open_).event .info .extentSuspended [e.1, a], true)
      else (c.1, false)
    else c) (m, true)).1

end Sys2Proof.Machine
end

