-- ==== Sys2Proof/Machine/Fronts.lean ====
section
/-!
DEFINITION. Machine/Fronts.lean: how a front advances and ends (R311 to R315), and the ciphertext of lines and pages under the
keys in force (R296 to R301).
-/
namespace Sys2Proof.Machine

/-! ## Where lines lie -/

/-- Unit and line at which a line of an internal region lies; the parity store's lines lie in its own frames (R89, R245). -/
def Mod.internalPlace (m : Mod) (code index : Nat) : Option (Nat × Nat) :=
  if code = 0 then (runsNth m.aux.parityRuns (index / 64)).map fun f => (mapGetD m.chn.internalFrames f f, index % 64)
  else if index < regionLines code then some (m.regionUnit code index)
  else none

/-- Unit and line of a line as a channel holds it. -/
def Mod.linePlace (m : Mod) (l : LineId) : Option (Nat × Nat) := match l with
  | .pool f n => some (f, n)
  | .region c i => m.internalPlace c i

/-! ## Ciphertext and tags -/

/-- Tag word of a line (R299) for a MAC, its poison bit, key generation and KIND. -/
def tagWord (mac : Nat) (poison : Bool) (g kind : Nat) : Nat := mac + (b2n poison <<< 28) + (g <<< 29) + (kind <<< 30)

/-- A line's ciphertext and tag word as the peer tier carries it (R256, R298): mode off forms no MAC, mode MAC one with zero
counters. -/
def Mod.sealLine (m : Mod) (l : Nat) : List Byte × Nat :=
  let d := m.domainAt l
  let k := m.keyFor d l
  let c := xts false k.1 l (m.line l)
  let st := b2n (m.isPoisoned l) + 2 * k.2
  let mac := if m.modeOf d = 0 then 0 else lineMac k.1 l st 0 0 0 c
  (c, tagWord mac (m.isPoisoned l) k.2 0)

/-- A fetched line (R257, R301): its bytes and whether it holds poison; none where its MAC fails. -/
def Mod.openLine (m : Mod) (l : Nat) (c : List Byte) (tag : Nat) : Option (List Byte × Bool) :=
  let d := m.domainAt l
  let k := m.keyFor d l
  let p := bit tag 28
  let st := b2n p + 2 * k.2
  let mac := if m.modeOf d = 0 then 0 else lineMac k.1 l st 0 0 0 c
  if m.modeOf d != 0 && tag != tagWord mac p k.2 0 then none else some (xts true k.1 l c, p)

/-- A MAC failure is counted and reported at a channel's cipher engine (R301, R321). -/
def Mod.macFailed (m : Mod) (ch d ln : Nat) : Mod :=
  let m := (m.tally (pgCip ch) CipF.macFail 0x102 1).raise (pgCip ch) 8 (cipDetail d ln)
  m.event .warning .macFail [ch, d, ln]

/-- A line of a running front's walk fails its MAC as the front reads it (R315, R319). -/
def Mod.frontMacFail (m : Mod) (d ln : Nat) : Mod := match m.frontOf d with
  | some (e, _) => m.raise (pgFrn e) 9 (cipDetail d ln)
  | none => m

/-- A line of a volatile page whose MAC fails is rewritten with POISON set, and listed (R301). -/
def Mod.macPoison (m : Mod) (l : Nat) : Mod := ((m.setPoison l true).listPoison (l * 64) 64).add pgKey KeyF.linesPoisoned 1

/-! ## Fronts -/

/-- F has passed every line stored in a unit: its leaf is reset and its lines re-MACed (R312). -/
def Mod.frontUnit (m : Mod) (eng d u : Nat) : Mod :=
  let m := m.add (pgFrn eng) FrnF.unitsReset 1
  if m.modeOf d = 2 then Mod.nodeCacheIn nodeFuel (m.resetNode u 0) u true else m

/-- Pages whose packed blocks lie in a frame. -/
def Mod.pagesIn (m : Mod) (frame : Nat) : List Nat :=
  (m.tier.pages.filter fun e => match e.2.st with
    | .packed f _ _ _ => f = frame
    | _ => false).map Prod.fst

/-- A packing frame is reset once every grain it holds has been re-encrypted (R312); `f` is the front as it passes. -/
def Mod.frontFrame (m : Mod) (eng : Nat) (f : Front) (frame : Nat) : Mod :=
  if (m.pagesIn frame).all fun p => f.passedLine (p * 64 + 63) then m.frontUnit eng f.domain frame else m

/-- The front that stands at a page, by its engine. -/
def Mod.frontAt (m : Mod) (p : Nat) : Option (Nat × Front) :=
  m.key.fronts.find? fun e => e.2.domain != 0 && (e.2.next.map pageOfLine) = some p

end Sys2Proof.Machine
end

