-- ==== Sys2Proof/Machine/Tiers.lean ====
section
/-!
DEFINITION. Machine/Tiers.lean: capacity and tiers (chapter 09): moves and their commit, the cooling walk, packing, the peer
tier at owner and holder, LOST pages, page-map errors, and the poison list's commands.
-/
namespace Sys2Proof.Machine

open Host

/-! ## Places -/

/-- Channel traffic of a move (R298, R367): lines read or written at a unit, charged to an activity. -/
def Mod.moveTraffic (m : Mod) (u n act : Nat) (write : Bool) : Mod :=
  let c := chanOf u
  let m := if write then m.tally (pgMch c) MchF.linesWritten 0x111 n else m.tally (pgMch c) MchF.linesRead 0x110 n
  m.charge c act (lineTicks * n)

/-- The first position of a frame with `n` consecutive free grains, the grains in use given as (first, count). -/
def grainGap (l : List (Nat × Nat)) (n : Nat) : Option Nat :=
  (upto 16).find? fun a => decide (a + n ≤ 16) && l.all fun e => !overlaps a n e.1 e.2

/-- Grains for a block of a domain (R254): first-fit in packing frames of the domain, else a new frame within 98.00 % (R261).
Answers the frame and first grain. -/
def Mod.allocGrains (m : Mod) (d n : Nat) : Option (Mod × Nat × Nat) :=
  let take := fun (f a : Nat) (l : List (Nat × Nat)) =>
    ({ m with tier := { m.tier with packs := mapPut m.tier.packs f (d, l ++ [(a, n)]) } }, f, a)
  match m.tier.packs.findSome? fun e => if e.2.1 = d && !m.chanShut (chanOf e.1) then (grainGap e.2.2 n).map fun a => (e.1, a, e.2.2) else none with
  | some (f, a, l) => some (take f a l)
  | none => m.allocFrame.map fun f => let r := take f 0 []
                                      (r.1.checkUse, r.2)

/-- Dirty lines of a page are written back and stay clean in the front cache (R251, step 2). -/
def Mod.fcClean (m : Mod) (p : Nat) : Mod := (upto 64).foldl (fun (a : Mod) i =>
  let l := p * 64 + i
  match a.fcGet l with
  | some e => if e.dirty then (a.writeBack l).setFc (fcKey l) ((a.fcSet l).map fun x => if x.line = l then { x with dirty := false } else x) else a
  | none => a) m

/-- A move of a page starts (R251, steps 1 and 2). -/
def Mod.startMove (m : Mod) (p : Nat) (dst : MoveTo) : Mod :=
  let m := (m.setPage p { m.page p with moving := true }).mapChanged p
  ({ m with tier := { m.tier with moves := mapPut m.tier.moves p dst } }).fcClean p

/-- A move's new entry is committed (R251, steps 3 and 4): the old place is freed, MOVING clears; demotion clears KEEP_PLAIN
(R253). `counter` is the register that counts it, `event` its event. -/
def Mod.commitMove (m : Mod) (p : Nat) (st : PageSt) (counter : Fld) (event : Nat) : Mod :=
  let e := m.page p
  let demoted := match st with
    | .plain _ => false
    | _ => true
  let m := if demoted then m.fcForgetPage p else m
  let m := m.freePlace e.st
  let m := { m with tier := { m.tier with moves := mapDel m.tier.moves p, walked := m.tier.walked.filter fun x => x != p,
                                          puts := m.tier.puts.filter fun x => x.1 != p } }
  let m := (m.setPage p { e with st := st, moving := false, keep := e.keep && !demoted }).mapChanged p
  let m := m.chargeLines masterMover (mapSlice p) 64
  (m.tally pgMov counter event 1).checkUse

/-- A page's 4,096 bytes. -/
def Mod.pageBytesOf (m : Mod) (p : Nat) : List Byte := Memory.bytes m.mem (p * 4096) 4096

/-- A page is committed PEER once its PAGE_PUT is acknowledged (R256, step 4): its bytes leave the module. -/
def Mod.commitPeer (m : Mod) (p : Nat) : Mod := match mapGet m.tier.moves p with
  | some (.peer mb slot) =>
    let m := m.commitMove p (.peer mb slot) MovF.demotedPeer 0x101
    m.clearPage p
  | _ => m

/-- PAGE_MOVE_COMMIT: the page has been read and written; its entry is committed (R251). A page placed at a peer is committed
once its PAGE_PUT is acknowledged (R256); a page packed by a lexicon that has become FAULTY is LOST (R282). -/
def execPageMoveCommit (page : Nat) (s : State) : Outcome State Fault Refusal :=
  s.onM fun m => if !m.runs || m.saving then m else match mapGet m.tier.moves page with
    | some (.plain f) =>
      (match (m.page page).st with
       | .packed fr _ n lx =>
         if !m.lexReady lx then
           let m := { m with tier := { m.tier with moves := mapDel m.tier.moves page } }
           (m.makeLost page).raise pgMov 11 (movDetail page (m.extOfPage page))
         else
           let m := ((m.moveTraffic fr (4 * n) 4 false).lexCountD (m.lexEngine 0) 0 4096).moveTraffic f 64 4 true
           m.commitMove page (.plain f) MovF.promoted 0x100
       | _ => m.commitMove page (.plain f) MovF.promoted 0x100)
    | some (.packed f a n lx) => (m.moveTraffic f (4 * n) 4 true).commitMove page (.packed f a n lx) MovF.demotedPack 0x101
    | some (.peer ..) => if m.tier.puts.any fun x => x.1 = page then m else m.commitPeer page
    | _ => m

/-! ## Packing and placing -/

/-- Lexicon that a page of a domain is packed with (R278, R279). -/
def Mod.packLexicon (m : Mod) (d : Nat) : Nat := let n := mapGetD m.lex.domains d 0
                                                 if m.lexReady n then n else 0

/-- A job joins an engine's queue (R287). -/
def Mod.lexQueue (m : Mod) (e : Nat) (j : LexJob) : Mod :=
  { m with lex := { m.lex with waiting := mapPut m.lex.waiting e (mapGetD m.lex.waiting e [] ++ [j]) } }

/-- Packing of a page starts (R254): its bytes go to a lexicon engine as a PACK job. -/
def Mod.startPack (m : Mod) (p : Nat) : Mod :=
  let lx := m.packLexicon (m.domainAt (p * 64))
  let m := m.startMove p (.packing lx)
  let m := match m.frameOf p with
    | some f => m.moveTraffic f 64 4 false
    | none => m
  m.lexQueue (m.lexEngine 5) { cls := 5, compress := true, owner := p, slot := none, lexicon := lx, bytes := m.pageBytesOf p, arrived := m.tick }

/-- Pages placed at a member (R256). -/
def Mod.placedAt (m : Mod) (x : Nat) : Nat :=
  (m.tier.pages.filter fun e => match e.2.st with
    | .peer mb _ => mb = x
    | _ => false).length +
  (m.tier.moves.filter fun e => match e.2 with
    | .peer mb _ => mb = x
    | _ => false).length

/-- The member a page is placed at (R256, step 1). -/
def Mod.peerChoice (m : Mod) : Option Nat := match m.grp.map with
  | none => none
  | some g =>
    let ok := (upto g.n).filter fun x => x != m.own && g.stOf x = mbActive && decide (m.placedAt x < m.share)
    ok.foldl (fun (a : Option Nat) x => match a with
      | none => some x
      | some b => if m.placedAt x < m.placedAt b then some x else some b) none

/-- A page may be placed at a peer (R244): volatile, thin, in a domain of mode off or MAC. -/
def Mod.peerAllowed (m : Mod) (p : Nat) : Bool := (m.extAt (p * 4096)).isSome && m.modeOf (m.domainAt (p * 64)) != 2

/-- Body of a BULK message: its descriptor and a page or unit (R135). -/
def bulkBody (object : Nat) (data : List Byte) : List Byte := leBytes 8 object ++ zeros 8 ++ data

/-- Ciphertext of a page's 64 lines, and their tag words (R256, R298). -/
def Mod.sealPage (m : Mod) (p : Nat) : List Byte × List Nat :=
  (upto 64).foldl (fun (a : List Byte × List Nat) i => let r := m.sealLine (p * 64 + i)
                                                      (a.1 ++ r.1, a.2 ++ [r.2])) ([], [])

/-- Placing a page at a peer starts (R256): a member, a tag grain, PAGE_PUT. -/
def Mod.startPeer (m : Mod) (p : Nat) : Mod := match m.peerChoice with
  | none => m
  | some x => match m.allocGrains (m.domainAt (p * 64)) 1 with
    | none => m
    | some (m, f, a) =>
      let slot := f * 16 + a
      let m := m.startMove p (.peer x slot)
      let m := match (m.page p).st with
        | .plain fr => m.moveTraffic fr 64 4 false
        | _ => m
      let r := m.sealPage p
      let m := (m.moveTraffic f 4 4 true).sendMember x (mkMsg 4 0x01 0 (bulkBody slot r.1))
      { m with tier := { m.tier with tags := mapPut m.tier.tags slot r.2, puts := m.tier.puts ++ [(p, x, slot)] } }

/-- Every line of the page is zero and free of poison. -/
def Mod.zeroPage (m : Mod) (p : Nat) : Bool :=
  (m.pageBytesOf p).all (fun b => decide (b = 0#8)) && !((upto 64).any fun i => m.isPoisoned (p * 64 + i))

/-- A page of zeros becomes UNBACKED (R254). -/
def Mod.reclaimZero (m : Mod) (p : Nat) : Mod :=
  let m := (m.fcForgetPage p).setPage p PageEnt.none
  ((m.mapChanged p).add pgMov MovF.zeroReclaim 1).checkUse

/-- A line of the page holds poison, which a packed block has no place for (log entry 26). -/
def Mod.pagePoisoned (m : Mod) (p : Nat) : Bool := (upto 64).any fun i => m.isPoisoned (p * 64 + i)

/-- Placing a cold page that is not packed: at a peer, or not at all (R253, steps 2 to 4). -/
def Mod.demotePeer (m : Mod) (p : Nat) : Mod :=
  if m.is pgMov MovF.peerEn && m.peerAllowed p then m.startPeer p else m

/-- Demotion of a cold page (R253, R254). -/
def Mod.demote (m : Mod) (p : Nat) : Mod := match (m.page p).st with
  | .plain f =>
    if m.chanShut (chanOf f) then m
    else if m.is pgMov MovF.packEn && !m.pagePoisoned p then
      if m.zeroPage p then m.reclaimZero p else m.startPack p
    else m.demotePeer p
  | .packed f _ _ _ =>
    if m.frozen (chanOf f) then m
    else if m.tier.walked.contains p then
      (if decide (m.get pgMov MovF.demoteOn * 100 ≤ m.usePct) then m.demotePeer p else m)
    else { m with tier := { m.tier with walked := m.tier.walked ++ [p] } }
  | _ => m

/-- The end of a walk (R265): what lost map lines held returns to the pool once a walk begun since has ended. -/
def Mod.walkEnds (m : Mod) : Mod :=
  let go := m.tier.limbo.filter fun e => e.2 ≤ 1
  let m := { m with tier := { m.tier with limbo := (m.tier.limbo.filter fun e => decide (1 < e.2)).map fun e => (e.1, e.2 - 1) } }
  (go.foldl (fun (a : Mod) e => a.freePlace e.1) m).checkUse

/-- COOLING_WALK_STEP: the walk visits the page at POSITION (R253): a cold page is demoted while the mover demotes; the page's HEAT
is halved; a page of a FAULTY lexicon becomes LOST (R282). -/
def execCoolingWalkStep (s : State) : Outcome State Fault Refusal :=
  s.onM fun m =>
    if !m.runs || m.saving || !m.is pgMov HdrF.enable || !m.works pgMov then m else
    -- an abandoned walk begins again (R38)
    let p := if m.get pgMov HdrF.opState = 3 then 0 else m.get pgMov HdrF.position % dpaPages
    let m := m.checkUse
    let e := m.page p
    let faulty := match e.st with
      | .packed _ _ _ lx => !m.lexReady lx
      | _ => false
    let m := if faulty && !e.moving then (m.makeLost p).raise pgMov 11 (movDetail p (m.extOfPage p)) else
      let active := m.tier.demoting || decide (1 ≤ m.get pgMov MovF.level)
      let cold := e.heat = 0 && !e.moving && (m.backedBy p).isNone && (!e.keep || decide (9500 ≤ m.usePct))
      let m := if active && cold then m.demote p else m
      if e.heat = 0 then m else m.setPage p { m.page p with heat := e.heat / 2 }
    if p + 1 = dpaPages then (m.walkEnds).progress pgMov 1 0 0
    else m.progress pgMov 1 ((p + 1) * 10000 / dpaPages) (p + 1)

/-! ## The holder (R258) -/

/-- Key of a page held for a member's slot. -/
def heldKey (x slot : Nat) : Nat := x * 2 ^ 36 + slot

/-- Pages held for a member. -/
def Mod.heldFor (m : Mod) (x : Nat) : Nat := (m.tier.held.filter fun e => e.1 / 2 ^ 36 = x).length

/-- Pages held that `f` names are freed. -/
def Mod.dropHeld (m : Mod) (f : Nat → Bool) : Mod :=
  ({ m with tier := { m.tier with held := m.tier.held.filter fun e => !f e.1, heldFrames := m.tier.heldFrames.filter fun e => !f e.1 } }).checkUse

/-- PAGE_PUT: a page is stored for its sender, or discarded beyond the sender's share (R258). -/
def execPagePut (frm slot : Nat) (data : List Byte) (s : State) : Outcome State Fault Refusal :=
  s.onM fun m => if !m.runs then m else
    let k := heldKey frm (slot % 2 ^ 36)
    match mapGet m.tier.heldFrames k with
    | some f => { m.moveTraffic f 64 8 true with tier := { m.tier with held := mapPut m.tier.held k data } }
    | none =>
      let full := m.raise pgMov 13 (movDetail 0 0)
      if m.share ≤ m.heldFor frm then full else
      match (m.allocRuns 1).bind fun l => runsNth l 0 with
      | none => full
      | some f =>
        let m : Mod := { m with tier := { m.tier with held := mapPut m.tier.held k data, heldFrames := mapPut m.tier.heldFrames k f } }
        (m.moveTraffic f 64 8 true).checkUse

/-- PAGE_READ: the page held for the sender's slot leaves in PAGE_DATA, or RSP REFUSED answers (R258). -/
def execPageRead (frm tag slot : Nat) (s : State) : Outcome State Fault Refusal :=
  s.onM fun m => if !m.runs then m else
    let k := heldKey frm (slot % 2 ^ 36)
    match mapGet m.tier.held k, mapGet m.tier.heldFrames k with
    | some d, some f => (m.moveTraffic f 64 8 false).sendMember frm (mkMsg 4 0x02 tag (bulkBody slot d))
    | _, _ => m.respond frm 0x0C tag .refused []

/-- PAGE_FREE: the page held for the sender's slot is freed (R258). -/
def execPageFree (frm tag slot : Nat) (s : State) : Outcome State Fault Refusal :=
  s.onM fun m => if !m.runs then m else
    (m.dropHeld fun k => k = heldKey frm (slot % 2 ^ 36)).respond frm 0x0D tag .ok []

/-! ## Fetches (R257, R259) -/

/-- Requests that wait for a page's fetch. -/
def Mod.fetchers (m : Mod) (p : Nat) : List Req := m.led.reqs.filter fun r => r.wait = .fetch && pageOfLine r.line = p

/-- Requests that waited for a page go on in their order. -/
def Mod.wakeFetchers (m : Mod) (p : Nat) : Mod := (m.fetchers p).foldl (fun a r => a.resume r.id) m

/-- The lines of a fetched page, each with its poison, after its check against the tag grain; failures at the cipher engine of
the grain's channel (log entry 27). -/
def Mod.openPage (m : Mod) (p slot : Nat) (data : List Byte) : Mod × List (List Byte × Bool) :=
  let tags := mapGetD m.tier.tags slot []
  (upto 64).foldl (fun (a : Mod × List (List Byte × Bool)) i =>
    let l := p * 64 + i
    match a.1.openLine l (slice data (64 * i) 64) (tags.getD i 0) with
    | some x => (a.1, a.2 ++ [x])
    | none =>
      let b := a.1.macFailed (chanOf (slot / 16)) (a.1.domainAt l) l
      let b := if (b.frontAt p).isSome then b.frontMacFail (b.domainAt l) l else b
      (b.macPoison l, a.2 ++ [(zeros 64, true)])) (m, [])

/-- A fetched page is promoted (R252, R257): it takes a frame, PAGE_FREE goes to its holder, the tag grain is freed. -/
def Mod.promoteFetched (m : Mod) (p x slot f : Nat) (lines : List (List Byte × Bool)) : Mod :=
  let bytes := lines.foldl (fun a e => a ++ e.1) []
  let m := { m with mem := Memory.putBytes m.mem (p * 4096) bytes }
  let m := (upto 64).foldl (fun (a : Mod) i => a.setPoison (p * 64 + i) ((lines.getD i ([], false)).2)) m
  let m := ((m.request x 0x0D (leBytes 8 slot)).1).moveTraffic f 64 4 true
  (m.fcForgetPage p).commitMove p (.plain f) MovF.promoted 0x100

/-- A read of a line of a fetched page that stays at its peer is served, and the line enters the front cache clean (R250). -/
def Mod.serveFetched (m : Mod) (p : Nat) (lines : List (List Byte × Bool)) : Mod :=
  (m.fetchers p).foldl (fun (a : Mod) r =>
    if (a.page p).st = .lost then a.resume r.id
    else if r.writes then (a.pageLost p).resume r.id
    else
      let x := lines.getD (r.line % 64) (zeros 64, true)
      let a : Mod := { a with mem := Memory.putBytes a.mem (r.line * 64) x.1 }
      ((a.setPoison r.line x.2).fcUse r.line false false).endRead r x.1 x.2) m

/-- A front at the page re-encrypts it (R311): PAGE_PUT goes to the same slot, the tag grain is rewritten, and F passes. -/
def Mod.frontPeer (m : Mod) (p x slot : Nat) (lines : List (List Byte × Bool)) : Mod := match m.frontAt p with
  | none => m
  | some (eng, f) =>
    let w := m.fetchers p
    let m := m.add (pgFrn eng) FrnF.lockWaits w.length |>.count (pgFrn eng) 0x101 w.length
    let g := 1 - ((m.slot f.domain).map KeySlot.g).getD 0
    let mode := m.modeOf f.domain
    let enc := fun (i : Nat) =>
      let e := lines.getD i (zeros 64, true)
      let c := xts false f.key (p * 64 + i) e.1
      let mac := if mode = 0 then 0 else lineMac f.key (p * 64 + i) (b2n e.2 + 2 * g) 0 0 0 c
      (c, tagWord mac e.2 g 0)
    let all : List (List Byte × Nat) := (upto 64).map enc
    let m := m.sendMember x (mkMsg 4 0x01 0 (bulkBody slot (all.flatMap Prod.fst)))
    let m := { m with tier := { m.tier with tags := mapPut m.tier.tags slot (all.map Prod.snd) } }
    (m.add (pgFrn eng) FrnF.pagesWhole 1).frontPass eng 64

/-- PAGE_DATA: a fetched page is checked, promoted where R252 allows, served, or re-encrypted by a front that stands at it
(R257, R311). -/
def execPageData (frm tag slot : Nat) (data : List Byte) (s : State) : Outcome State Fault Refusal :=
  s.onM fun m => if !m.runs then m else
    let m := (m.answered frm tag).1
    match m.tier.fetches.find? fun f => f.2 = (tag, frm) with
    | none => m
    | some (p, _, _) =>
      let m := { m with tier := { m.tier with fetches := m.tier.fetches.filter fun f => f.1 != p } }
      if (m.page p).st != .peer frm slot then m else
      let o := m.openPage p slot data
      let m := o.1
      let ws := m.fetchers p
      let writes := ws.any fun r => r.writes
      let may := writes || (ws != [] && m.is pgMov HdrF.enable && decide (m.usePct < 9800))
      (match if may then m.allocFrame else none with
       | some f => (m.promoteFetched p frm slot f o.2).wakeFetchers p
       | none => (m.frontPeer p frm slot o.2).serveFetched p o.2)

/-- Pages at a member are LOST (R259): PEER_PAGES_LOST and one record with the count. -/
def Mod.peerLost (m : Mod) (x : Nat) : Mod :=
  let ps := (m.tier.pages.filter fun e => match e.2.st with
    | .peer mb _ => mb = x
    | _ => false).map Prod.fst
  let pend := (m.tier.moves.filter fun e => match e.2 with
    | .peer mb _ => mb = x
    | _ => false).map Prod.fst
  let m := pend.foldl (fun (a : Mod) p => a.abandonMove p) m
  if ps = [] then m else
  let m := ps.foldl (fun (a : Mod) p => (a.makeLost p).raise pgMov 11 (movDetail p (a.extOfPage p))) m
  let m := { m with tier := { m.tier with fetches := m.tier.fetches.filter fun f => !ps.contains f.1 } }
  let m := (m.raise pgMov 12 (movDetail (ps.headD 0) (m.extOfPage (ps.headD 0)))).event .failure .peerPagesLost [x, ps.length]
  ps.foldl (fun (a : Mod) p => a.wakeFetchers p) m

/-- PAGE_READ_REFUSED: the holder has no such page: it is LOST, and what waits goes on with poison (R259). -/
def execPageReadRefused (frm tag : Nat) (s : State) : Outcome State Fault Refusal :=
  s.onM fun m => if !m.runs then m else
    let m := (m.answered frm tag).1
    match m.tier.fetches.find? fun f => f.2 = (tag, frm) with
    | none => m
    | some (p, _, _) =>
      let m := { m with tier := { m.tier with fetches := m.tier.fetches.filter fun f => f.1 != p } }
      match (m.page p).st with
      | .peer mb _ =>
        if mb != frm then m else
        let m := (m.makeLost p).raise pgMov 11 (movDetail p (m.extOfPage p))
        let m := (m.raise pgMov 12 (movDetail p (m.extOfPage p))).event .failure .peerPagesLost [frm, 1]
        m.wakeFetchers p
      | _ => m

/-! ## LOST pages and the page map -/

/-- LOST_CLEAR: R264. It runs in the background. -/
def execLostClear (via : Via) (base len : Nat) (s : State) : Outcome State Fault Refusal :=
  s.onM fun m => m.onMailbox via fun m =>
    if base % 4096 != 0 || len % 4096 != 0 || decide (dpaBytes < base + len) then m.reply via .invalidInput []
    else if m.bgBusy via then m.reply via .busy []
    else (({ m with tier := { m.tier with clearing := m.tier.clearing ++ [(via, base, len)] } }).bgStart via 0xC450).reply via .background []

/-- LOST_CLEAR_DONE: every LOST page of the range is UNBACKED, and the count is reported (R263, R264). -/
def execLostClearDone (s : State) : Outcome State Fault Refusal :=
  s.onM fun m => match m.tier.clearing with
    | [] => m
    | (via, base, len) :: rest =>
      if !m.runs || m.saving then m else
      let ps := (m.tier.pages.filter fun e => e.2.st = .lost && inPages base len e.1).map Prod.fst
      let m := ps.foldl (fun (a : Mod) p => a.unlose p) m
      (({ m with tier := { m.tier with clearing := rest } }).bgDone via).reply via .success (leBytes 4 ps.length)

/-- A page-map entry's 64 bits (R247). -/
def Mod.pageWord (m : Mod) (p : Nat) : Nat :=
  let e := m.page p
  let low := (b2n e.keep <<< 3) + (b2n (m.backedBy p).isSome <<< 4) + (b2n e.moving <<< 5) + (e.heat <<< 6)
  low + match e.st with
    | .unbacked => 0
    | .plain f => 1 + (f <<< 14)
    | .packed f a n lx => 2 + (f <<< 14) + (a <<< 41) + (n <<< 45) + (lx <<< 50)
    | .peer x slot => 3 + (x <<< 14) + (slot <<< 18)
    | .lost => 4

/-- PAGE_INFO: the page's entry from its map slice (R264). -/
def execPageInfo (via : Via) (dpa : Nat) (s : State) : Outcome State Fault Refusal :=
  s.onM fun m => m.onMailbox via fun m =>
    if dpaBytes ≤ dpa then m.reply via .invalidInput []
    else m.reply via .success (leBytes 8 (m.pageWord (dpa / 4096)) ++ leBytes 1 (mapSlice (dpa / 4096)) ++ zeros 7)

/-! ## The poison list (R201, R263, R299) -/

/-- GET_POISON_LIST: the records that meet a range, as DPA and length (R201). -/
def execGetPoisonList (via : Via) (base len : Nat) (s : State) : Outcome State Fault Refusal :=
  s.onM fun m => m.onMailbox via fun m =>
    m.replyVals via .success ((m.mgmt.poisonList.filter fun e => overlaps base len e.1 e.2).flatMap fun e => [e.1, e.2])

/-- INJECT_POISON: the line holds poison until it is written without (R201, R299); outside every extent, and where the module stores
no line, there is nothing to poison (log entry 28). -/
def execInjectPoison (via : Via) (dpa : Nat) (s : State) : Outcome State Fault Refusal :=
  s.onM fun m => m.onMailbox via fun m =>
    let l := lineOf dpa
    match m.extAt dpa with
    | none => m.reply via .invalidInput []
    | some (_, e) =>
      if dpa % 64 != 0 || e.adopted.isSome then m.reply via .invalidInput []
      else
        let m := m.listPoison dpa 64
        let m := match (m.page (pageOfLine l)).st with
          | .plain _ => m.storeLine l (m.line l) true false
          | _ => let q := m.newReq .self l (.wr [] 0 true) 0 none
                 q.1.arrive q.2
        m.reply via .success []

/-- CLEAR_POISON: the line is written with the bytes given and holds no poison; Invalid Input for a line of a LOST page (R263). -/
def execClearPoison (via : Via) (dpa : Nat) (data : List Byte) (s : State) : Outcome State Fault Refusal :=
  s.onM fun m => m.onMailbox via fun m =>
    let l := lineOf dpa
    if dpa % 64 != 0 || (m.extAt dpa).isNone || (m.page (pageOfLine l)).st = .lost then m.reply via .invalidInput []
    else
      let q := m.newReq .self l (.wr (asLine data) fullMask false) 0 none
      ((q.1.arrive q.2).unlistPoison dpa 64).reply via .success []

end Sys2Proof.Machine
end

