-- ==== Sys2Proof/Machine/Recon.lean ====
section
/-!
DEFINITION. Machine/Recon.lean: holds and reconstruction (R107, R108, R114, R333): the data member's side, the requester's
side, and what a reconstructed line is for.
-/
namespace Sys2Proof.Machine

open Host

/-! ## The data member -/

/-- Store and stripe of a stripe number as STRIPE_HOLD names it. -/
def keyStore (key : Nat) : Nat := key / 2 ^ 31 % 2
def keyStripe (key : Nat) : Nat := key % 2 ^ 31

/-- The data unit that a member holds of a stripe, with its position. -/
def unitIn (q : Geo) (s x : Nat) : Option (Nat × Nat) := (upto q.k).findSome? fun j =>
  let d := dataUnit q.n q.k s j
  if d.1 = x then some (j, d.2) else none

/-- The parity unit that a member holds of a stripe, with its position. -/
def parityIn (q : Geo) (s x : Nat) : Option (Nat × Nat) := (upto q.m).findSome? fun p =>
  let d := parityUnit q.n q.k q.m s p
  if d.1 = x then some (q.k + p, d.2) else none

/-- A line of a line hold, or the 64 of a unit hold. -/
def holdLines (line : Nat) : List Nat := if line = 255 then upto 64 else [line]

/-- This module's unit of a held stripe, and that of the member it stands in for. -/
def Mod.heldUnits (m : Mod) (g : GMap) (key : Nat) : Option (Nat × Nat) × Option (Nat × Nat) :=
  let q := geoBy g (keyStore key)
  (unitIn q (keyStripe key) m.own, m.standsFor.bind fun x => unitIn q (keyStripe key) x)

/-- Deltas formed for the lines of a hold are unacknowledged (R107, step 2). -/
def Mod.holdOwed (m : Mod) (g : GMap) (h : Hold) : Bool :=
  let us := m.heldUnits g h.stripe
  (holdLines h.line).any fun n =>
    (match us.1 with
     | some (_, u) => m.lineOwed false (u * 64 + n)
     | none => false) ||
    (match us.2 with
     | some (_, u) => m.lineOwed true (u * 64 + n)
     | none => false)

/-- The bytes of a unit of the module's own stripe space. -/
def Mod.unitBytes (m : Mod) (u : Nat) : List Byte := (upto 64).flatMap fun n => m.unitLine u n

/-- A hold whose deltas are acknowledged is answered (R107): with the line, with the unit in UNIT_DATA, or by a stand-in that has no unit
of its own in the stripe with RSP OK alone (log entry 30). -/
def Mod.answerHold (m : Mod) (g : GMap) (h : Hold) (tag : Nat) : Mod :=
  let m := m.takeHold h.requester h.stripe h.line none
  match (m.heldUnits g h.stripe).1 with
  | some (_, u) =>
    let m := m.chargeLines masterParity (sliceOf (u * 64 + h.line % 64)) (holdLines h.line).length
    if h.line = 255 then m.sendMember h.requester (mkMsg 4 0x03 tag (bulkBody u (m.unitBytes u)))
    else m.respond h.requester 0x07 tag .ok (m.unitLine u h.line)
  | none => m.respond h.requester 0x07 tag .ok []

/-- The current value of a line of the module's own unit is not at hand (R333, R411). -/
def Mod.unitAway (m : Mod) (u n : Nat) : Bool :=
  match m.fab.extents.find? fun e => e.2.adopted.isNone && (match e.2.stripe with
      | some g => decide (g * 512 ≤ u) && decide (u < g * 512 + e.2.size / 4096)
      | none => false) with
  | some (_, e) => m.awayLine (e.base / 64 + (u - e.stripe.getD 0 * 512) * 64 + n)
  | none => false

/-- Why a hold is refused (R107): this module has no data unit of the stripe, and stands in for none under a unit hold; its unit is not
yet rebuilt; or the line's current value is itself to be reconstructed (log entry 35). -/
def Mod.holdRefused (m : Mod) (g : GMap) (key line : Nat) : Option RspSt :=
  let us := m.heldUnits g key
  match us.1 with
  | some (_, u) =>
    if m.dataGone g m.own u then some .unavailable
    else if (holdLines line).any fun n => m.unitAway u n then some .unavailable
    else none
  | none => if line = 255 && us.2.isSome then none else some .notHolder

/-! ## The requester -/

/-- The line of a page at a place of the pool. -/
def Mod.lineAtPlace (m : Mod) (f n : Nat) : Option Nat :=
  match m.tier.pages.find? fun p => p.2.st = .plain f with
  | some p => some (p.1 * 64 + n)
  | none => m.fab.extents.findSome? fun e =>
      match runsIndex e.2.runs f with
      | some i => if (mapGet m.tier.pages (e.2.base / 4096 + i)).isNone then some (e.2.base / 64 + i * 64 + n) else none
      | none => none

/-- A line the module holds takes its reconstructed value (R334, R411). -/
def Mod.putBack (m : Mod) (l : Nat) (bs : List Byte) : Mod :=
  let m := { m with grp := { m.grp with absent := m.grp.absent.filter fun x => x != l } }
  (m.storeLine l bs false false).untouch l

/-- LAST_SEQ of adopted windows is read from their reconstructed stop line, and stops promoted for the lost member count as applied
(R99, R105). -/
def Mod.stopRead (m : Mod) (l : Nat) (bs : List Byte) : Mod :=
  let key := match m.extAt (l * 64) with
    | some (_, e) => e.sourceLine l
    | none => 2 ^ 32
  let n := (m.aux.promotedStops.filter fun k => k = key).length
  let f := fun (w : Window) => if decide (16384 ≤ w.entry.id) && w.entry.stopDpa = l * 64
      then { w with lastSeq := leAt bs 0 8, stopsDone := (w.stopsDone + n) % 2 ^ 32 } else w
  { m with led := { m.led with wins := m.led.wins.map fun w => (w.1, f w.2) },
           aux := { m.aux with promotedStops := m.aux.promotedStops.filter fun k => k != key } }

/-- What a reconstruction was for goes on with the line, or without it (R103, R108). -/
def Mod.reconFor (m : Mod) (why : ReconFor) (res : Option (List Byte)) : Mod := match why, res with
  | .req id, r => m.reconDone id r
  | .stop w, some bs => m.stageStop w bs
  | .stop w, none => match mapGet m.led.wins w with
    | some x => (m.beyond (lineOf x.entry.stopDpa)).discardStop w
    | none => m
  | .settle c x, r =>
    let m := m.updChan c fun k => { k with touched := k.touched.filter fun y => y != x }
    (match m.lineAtPlace (x / 64 * 96 + c) (x % 64), r with
     | some l, some bs => m.putBack l bs
     | some l, none => (m.beyond l).setPoison l true
     | none, _ => m)
  | .parity x, some bs =>
    { m with grp := { m.grp with parity := Memory.putBytes m.grp.parity (parityAddr (x / 2 ^ 40) (x % 2 ^ 40 / 64) (x % 64)) bs } }
  | .parity _, none => m
  | .line l, some bs => match m.extAt (l * 64) with
    | some (_, e) => if e.adopted.isSome then m.stopRead l bs else m.putBack l bs
    | none => m
  | .line l, none =>
    let m := m.beyond l
    let m := { m with grp := { m.grp with absent := m.grp.absent.filter fun x => x != l } }
    if m.isDurable l then m.setPoison l true else m

/-- Home slice of a reconstructed line (R93): its data line's, or its parity line's. -/
def Recon.slice (r : Recon) (q : Geo) : Nat :=
  if r.want < q.k then bits ((dataUnit q.n q.k r.stripe r.want).2 * 64 + r.line) 2 6
  else paritySlice ((parityUnit q.n q.k q.m r.stripe (r.want - q.k)).2 * 64 + r.line)

/-- A reconstruction ends (R107, step 4): its holds are released, the line is counted (R124), and what it was for goes on. -/
def Mod.endRecon (m : Mod) (g : GMap) (r : Recon) (res : Option (List Byte)) : Mod :=
  let rest := m.grp.recons.filter fun x => x.why != r.why
  let m := { m with grp := { m.grp with recons := rest } }
  let m := r.held.foldl (fun (a : Mod) x => (a.request x 0x08 (holdBody r.store r.stripe r.line)).1) m
  let key := stripeKey r.store r.stripe
  let m := if rest.any fun x => stripeKey x.store x.stripe = key && x.line = r.line then m else m.dropHold m.own key r.line
  let m := if res.isSome then m.add (pgPar (engineOf (r.slice (r.geo g)))) ParF.recon 1 else m
  m.reconFor r.why res

/-- A reconstruction is set, known by what it is for. -/
def Mod.setRecon (m : Mod) (r : Recon) : Mod :=
  { m with grp := { m.grp with recons := m.grp.recons.map fun (x : Recon) => if x.why = r.why then r else x } }

/-- A reconstruction goes on with what it has in hand (R107, R108): it waits, asks for more, recovers the line, or fails. -/
def Mod.reconNext (m : Mod) (why : ReconFor) : Mod :=
  match m.grp.map, m.grp.recons.find? fun r => r.why = why with
  | some g, some r =>
    let q := r.geo g
    match r.got.find? fun e => e.1 = r.want with
    | some e => m.endRecon g r (some e.2)
    | none =>
      if r.out != [] then m
      else if q.k ≤ r.got.length then m.endRecon g r (some (recoverLine q.k (r.got.take q.k) r.want 64))
      else
        let a := if r.asked then (m, r) else m.askData g r
        let b := if a.2.out = [] then a.1.askParity g a.2 else a
        let m := b.1
        let r := b.2
        let m := m.setRecon r
        if q.k ≤ r.got.length && r.out = [] then m.endRecon g r (some (recoverLine q.k (r.got.take q.k) r.want 64))
        else if r.out = [] then m.endRecon g r none
        else m
  | _, _ => m

/-- An answer to a reconstruction's request: a line, or a refusal that counts the unit as unavailable (R107). -/
def Mod.reconAnswer (m : Mod) (frm tag : Nat) (res : Option (List Byte)) : Mod :=
  match m.grp.recons.find? fun r => r.out.any fun o => o.1 = frm && o.2.1 = tag with
  | none => m
  | some r => match r.out.find? fun o => o.1 = frm && o.2.1 = tag with
    | none => m
    | some o =>
      let r' := { r with out := r.out.filter fun x => x != o }
      let r' := match res with
        | some bs => { r' with got := r'.got ++ [(o.2.2, asLine bs)] }
        | none => { r' with bad := r'.bad ++ [o.2.2], held := if o.2.2 = r.want then r'.held.filter fun x => x != frm else r'.held }
      (m.setRecon r').reconNext r.why

/-- Requests of reconstructions to a member end (R79): its units count as unavailable. -/
def Mod.reconsLose (m : Mod) (x : Nat) : Mod :=
  let f := fun (r : Recon) =>
    let gone := (r.out.filter fun o => o.1 = x && o.2.1 != 0).map fun o => o.2.2
    { r with out := r.out.filter fun o => !(o.1 = x && o.2.1 != 0), bad := r.bad ++ gone, held := r.held.filter fun y => y != x }
  let ws := m.grp.recons.map Recon.why
  let m := { m with grp := { m.grp with recons := m.grp.recons.map f } }
  ws.foldl (fun (a : Mod) w => a.reconNext w) m

/-- Holds whose deltas are acknowledged are answered (R107, step 2), this module's own among them. -/
def Mod.answerHolds (m : Mod) : Mod := match m.grp.map with
  | none => m
  | some g =>
    let m := m.led.holds.foldl (fun (a : Mod) h => match h.answer with
      | some tag => if h.requester = a.own || a.holdOwed g h then a else a.answerHold g h tag
      | none => a) m
    -- this module's own lines that reconstructions wait for
    m.grp.recons.foldl (fun (a : Mod) (r : Recon) =>
      let q := r.geo g
      let ready : List (Nat × Nat × Nat) := r.out.filter fun o => o.1 = a.own && o.2.1 = 0 &&
        (let d := dataUnit q.n q.k r.stripe o.2.2
         !a.unitOwed d.1 d.2 r.line)
      if ready = [] then a else
      let got := (ready.filter fun o => o.2.2 != r.want).map fun o => (o.2.2, a.unitLine (dataUnit q.n q.k r.stripe o.2.2).2 r.line)
      let r' := { r with out := r.out.filter fun o => !ready.contains o, got := r.got ++ got }
      (a.setRecon r').reconNext r.why) m

/-- After acknowledgements or a mark: releases, holds and reconstructions that waited for them go on. -/
def Mod.afterAcks (m : Mod) : Mod := m.settleReleases.answerHolds

/-! ## Commands -/

/-- STRIPE_HOLD: a data member stops writes to the line or unit, and answers once its deltas are acknowledged, or refuses (R107). -/
def execStripeHold (frm tag stripe line : Nat) (s : State) : Outcome State Fault Refusal :=
  s.onM fun m => if !m.runs then m else match m.grp.map with
    | none => m.respond frm 0x07 tag .notHolder []
    | some g => match m.holdRefused g stripe line with
      | some st => m.respond frm 0x07 tag st []
      | none => (m.takeHold frm stripe line (some tag)).answerHolds

/-- HOLD_RELEASE: the hold ends, and writes that waited go on when their lines are next served (R107). -/
def execHoldRelease (frm tag stripe line : Nat) (s : State) : Outcome State Fault Refusal :=
  s.onM fun m => if !m.runs then m else (m.dropHold frm stripe line).respond frm 0x08 tag .ok []

/-- LINE_READ: a holder returns a parity line, or refuses (R80, R135). -/
def execLineRead (frm tag unit line : Nat) (s : State) : Outcome State Fault Refusal :=
  s.onM fun m => if !m.runs then m else match m.grp.map with
    | none => m.respond frm 0x0A tag .notHolder []
    | some g =>
      let q := geoBy g (keyStore unit)
      let u := keyStripe unit
      if (g.units + q.k - 1) / q.k * q.m ≤ u || (q.store = 1 && !g.restripe) then m.respond frm 0x0A tag .notHolder []
      else if m.parityGone g q m.own u then m.respond frm 0x0A tag .unavailable []
      else (m.chargeLines masterParity (paritySlice (u * 64 + line)) 1).respond frm 0x0A tag .ok (m.parityLine q.store u line)

end Sys2Proof.Machine
end

