-- ==== Sys2Proof/Machine/Parity.lean ====
section
/-!
DEFINITION. Machine/Parity.lean: deltas at the holder (R92 to R98, R134): deduplication, parity, stages.
-/
namespace Sys2Proof.Machine

open Host

/-- The 32-bit sequence whose low 24 bits are given and that lies nearest A (R134). -/
def nearestSeq (a lo : Nat) : Nat :=
  let d := (lo % 2 ^ 24 + 2 ^ 24 - a % 2 ^ 24) % 2 ^ 24
  if d < 2 ^ 23 then (a + d) % 2 ^ 32 else (a + 2 ^ 32 + d - 2 ^ 24) % 2 ^ 32

/-- What the window of R95 says of a delta. -/
inductive Seen where
  | fresh | duplicate | outside
  deriving DecidableEq, Repr

/-- The rows of R95 for a sequence n. -/
def PairIn.seen (p : PairIn) (n : Nat) : Seen :=
  let d := (n + 2 ^ 32 - p.a) % 2 ^ 32
  if d = 0 || decide (2 ^ 31 < d) then .duplicate
  else if d ≤ 65536 then (if p.set_.contains n then .duplicate else .fresh)
  else .outside

/-- A advances over every contiguous bit that is set (R95); `n` bounds the bits. -/
def advanceA : Nat → Nat → List Nat → Nat × List Nat
  | 0, a, l => (a, l)
  | n + 1, a, l =>
    let b := (a + 1) % 2 ^ 32
    if l.contains b then advanceA n b (l.filter fun x => x != b) else (a, l)

/-- A delta's bit is set (R95). -/
def PairIn.take (p : PairIn) (n : Nat) : PairIn :=
  let l := p.set_ ++ [n]
  let r := advanceA l.length p.a l
  { p with a := r.1, set_ := r.2 }

/-- The member whose stripe space a delta's line lies in (R92): none where STANDIN names no assignment (R95). -/
def GMap.deltaSource (g : GMap) (frm : Nat) (standin : Bool) : Option Nat := if standin then g.standsFor frm else some frm

/-- The parity unit of this module that a delta is for, with its parity store; none where it is misplaced (R95). -/
def Mod.deltaUnit (m : Mod) (g : GMap) (frm line : Nat) (standin : Bool) : Option (Geo × Nat) := do
  let i ← GMap.deltaSource g frm standin
  let q := m.geoOf g (line / 64)
  let h ← (holdersOf q i (line / 64)).find? fun h => h.2.1 = m.own
  if line / 64 < g.units then pure (q, h.2.2) else none

/-- DETAIL of a PAR error (R125). -/
def parDetail (x seq : Nat) : Nat := x ||| (seq <<< 4)

/-- A number that names a parity line of a store: the target's of a re-stripe lie 2^40 above (R112). -/
def parityName (store x : Nat) : Nat := store * 2 ^ 40 + x

/-- A line of this module's parity store is lost: it is recomputed from its data units under a hold (R114, R309). -/
def Mod.parityLost (m : Mod) (store x : Nat) : Mod := match m.grp.map with
  | none => m
  | some g =>
    let q := geoBy g store
    let u := x / 64
    let p := u % q.m
    let s := u / q.m * g.n + (m.own + g.n * 2 - (q.k + p) % g.n) % g.n
    let m := m.raise (pgPar (engineOf (paritySlice x))) 9 (parDetail m.own 0)
    (m.startRecon (.parity (parityName store x)) q s (q.k + p) (x % 64)).1

/-- Channel traffic of a parity line that is read and written (R93, R367); one on a frozen channel is recomputed and placed elsewhere
(R333). -/
def Mod.parityTraffic (m : Mod) (unit line : Nat) : Mod := match m.internalPlace 0 (unit * 64 + line) with
  | some (u, n) =>
    let m := if m.frozen (chanOf u) then (m.parityLost 0 (unit * 64 + line)).moveInternal u else m
    let u := mapGetD m.chn.internalFrames u u
    ((m.chanRead u 0 8).chanWrite u n 0 8).chargeLines masterParity (paritySlice (unit * 64 + line)) 2
  | none => m

/-- What a delta does to the parity store once it is fresh and has its place (R93, R98): DATA is folded in, a STAGE is stored under its
key, a COMMIT folds the stage held under the key. Deltas for a unit not yet rebuilt or recomputed are discarded (R110, R411). -/
def Mod.foldDelta (m : Mod) (frm : Nat) (q : Geo) (unit kind line seq : Nat) (standin gone : Bool) (data : List Byte) : Mod :=
  let key := lineField line standin
  let eng := pgPar (engineOf (paritySlice (unit * 64 + line % 64)))
  let p := m.pairIn frm
  let fold := fun (m : Mod) (bs : List Byte) => if gone then m else (m.foldParity q.store unit (line % 64) bs).parityTraffic unit (line % 64)
  if kind = 1 then (if gone then m else (fold m (asLine data)).tally eng ParF.deltaIn 0x101 1)
  else if kind = 2 then m.setPairIn frm { p with stages := stagePut p.stages { key := key, seq := seq, data := asLine data } }
  else
    let m := m.tally eng ParF.deltaIn 0x101 1
    match p.stages.find? fun st => st.key = key with
    | some st => fold (m.setPairIn frm { p with stages := p.stages.filter fun x => x.key != key }) st.data
    | none => m

/-- A delta is received (R93 to R98): duplicates are discarded and counted, one outside the window sets DELTA_WINDOW, a misplaced one is
applied as a no-op with NOT_HOLDER and a Failure record. -/
def Mod.deltaIn (m : Mod) (frm kind dseq line : Nat) (standin : Bool) (data : List Byte) : Mod :=
  match m.grp.map with
  | none => m
  | some g =>
    let p := m.pairIn frm
    let n := nearestSeq p.a dseq
    let place := m.deltaUnit g frm line standin
    let slice := match place with
      | some (_, u) => paritySlice (u * 64 + line % 64)
      | none => bits line 2 6
    let eng := pgPar (engineOf slice)
    match p.seen n with
    | .duplicate => m.tally eng ParF.dup 0x102 1
    | .outside => m.raise eng 8 (parDetail frm n)
    | .fresh =>
      let m := match place with
        | some (q, u) => m.foldDelta frm q u kind line n standin (m.parityGone g q m.own u) data
        | none => (m.raise eng 10 (parDetail frm n)).event .failure .notHolder [frm, n]
      m.setPairIn frm ((m.pairIn frm).take n)

/-- DELTA_DATA: R93, R95. -/
def execDeltaData (frm dseq line : Nat) (standin : Bool) (data : List Byte) (s : State) : Outcome State Fault Refusal :=
  s.onM fun m => m.when m.runs fun m => m.deltaIn frm 1 dseq line standin data

/-- DELTA_STAGE: R95, R98. -/
def execDeltaStage (frm dseq line : Nat) (standin : Bool) (data : List Byte) (s : State) : Outcome State Fault Refusal :=
  s.onM fun m => m.when m.runs fun m => m.deltaIn frm 2 dseq line standin data

/-- DELTA_COMMIT: R95, R98. -/
def execDeltaCommit (frm dseq line : Nat) (standin : Bool) (s : State) : Outcome State Fault Refusal :=
  s.onM fun m => m.when m.runs fun m => m.deltaIn frm 3 dseq line standin []

end Sys2Proof.Machine
end

