-- ==== Sys2Proof/Machine/Bundles.lean ====
section
/-!
DEFINITION. Machine/Bundles.lean: peer ports and bundles as the group sees them (R126, R139, R145 to R149): which ports are up, a port
that goes down, a bundle that resets.
-/
namespace Sys2Proof.Machine

/-! ## Ports -/

/-- Port states (R145). -/
def bsDown : Nat := 0
def bsTraining : Nat := 1
def bsHello : Nat := 2
def bsUp : Nat := 3
def bsRetraining : Nat := 4

/-- Keys of a direction when none are loaded. -/
def DirKeys.none : DirKeys := { keys := [], gen := 0, count := 0, switch := false }

/-- Credits of the five classes as a port comes up: 256 of each (R140). -/
def firstLimits : List Nat := [256, 256, 256, 256, 256]

/-- A peer port that is down (R145): credit and sequence state are at their start; keys stay (R151), and frames received under
them stay counted. -/
def PeerPort.down (t : Nat) (tx rx : DirKeys) (rxCount : List Nat) : PeerPort :=
  { peer := none, frames := [], rest := none, partial_ := [], runRx := [], used := [0, 0, 0, 0, 0], limit := firstLimits,
    rcvd := [0, 0, 0, 0, 0], grant := firstLimits, naked := false, last := 0, lastAck := t, entered := t, tx := tx, rxKeys := rx,
    rxCount := rxCount, runTx := none }

/-- A peer port beside its registers. -/
def Mod.pp (m : Mod) (n : Nat) : PeerPort := mapGetD m.bfl.ports n (PeerPort.down 0 DirKeys.none DirKeys.none [0, 0])
def Mod.setPp (m : Mod) (n : Nat) (p : PeerPort) : Mod := { m with bfl := { m.bfl with ports := mapPut m.bfl.ports n p } }
def Mod.updPp (m : Mod) (n : Nat) (f : PeerPort → PeerPort) : Mod := m.setPp n (f (m.pp n))

/-- The port drives a peer port (R154). -/
def Mod.peerRole (m : Mod) (n : Nat) : Bool := m.get (pgPrt n) HdrF.roleCode = 2

/-- State of a peer port. -/
def Mod.bState (m : Mod) (n : Nat) : Nat := m.get (pgPrt n) PrtF.peerState

/-- A peer port enters a state. -/
def Mod.setBState (m : Mod) (n st : Nat) : Mod :=
  (m.set (pgPrt n) PrtF.peerState st).updPp n fun p => { p with entered := m.tick }

/-- Ports of the bundle to a peer: those whose HELLO it was, up or retraining (R126, R145). -/
def Mod.bundlePorts (m : Mod) (id : Nat) : List Nat :=
  (m.bfl.ports.filter fun e => e.2.peer = some id && (m.bState e.1 = bsUp || m.bState e.1 = bsRetraining)).map Prod.fst

/-- The peer is reached: a port of its bundle is up (R100, R120). -/
def Mod.reachId (m : Mod) (id : Nat) : Bool := !(m.bundlePorts id).isEmpty

/-- A member is reached. -/
def Mod.reaches (m : Mod) (x : Nat) : Bool := x = m.own || m.reachId (m.idOf x)

/-- DETAIL of a peer-role PRT error (R158). -/
def bfDetail (fseq bseq : Nat) : Nat := bits fseq 0 20 ||| (bits bseq 0 28 <<< 20)

/-- Messages returned to a bundle, in order of BSEQ and once each (R146). -/
def returnMsg (l : List (Nat × List Byte)) (e : Nat × List Byte) : List (Nat × List Byte) :=
  if l.any fun x => x.1 = e.1 then l else
  (l.filter fun x => decide (x.1 < e.1)) ++ [e] ++ l.filter fun x => decide (e.1 < x.1)

/-- A Berfel port goes down (R146): messages with a byte in an unacknowledged frame return whole to the bundle unless `keep` is false (port-level
CTL messages apart, log entry 36),
partial messages are discarded; a peer with no port left is unreachable from this tick (R100). -/
def Mod.portFall (m : Mod) (n : Nat) (keep : Bool) : Mod :=
  let p := m.pp n
  let st := m.bState n
  let back := (p.frames.flatMap Frame.msgs) ++ (match p.rest with
    | some (b, w, _) => if leAt w 8 1 % 8 = 3 && leAt w 9 1 != 2 then [] else [(b, w)]
    | none => [])
  let counts := (upto 2).map fun g => p.rxCount.getD g 0 + (p.runRx.filter fun r => r.1 = g).length
  let m := m.setPp n { PeerPort.down m.tick p.tx p.rxKeys counts with last := p.last }
  let m := [PrtF.peerState, PrtF.peerWidth, PrtF.peerPeerId, PrtF.peerTxNext, PrtF.peerTxOldest, PrtF.peerRxNext, PrtF.peerSquall,
            PrtF.peerRetrain].foldl (fun (a : Mod) f => a.set (pgPrt n) f 0) m
  let m := if st = bsHello || st = bsUp || st = bsRetraining then m.raise (pgPrt n) 32 (bfDetail ((p.frames.map Frame.fseq).headD 0) 0) else m
  match p.peer with
  | none => m
  | some id =>
    let m := if keep then m.updBundle id fun b => { b with returned := back.foldl returnMsg b.returned } else m
    if m.reachId id then m else match m.indexOf id with
    | some x => { m with grp := { m.grp with downAt := mapPut m.grp.downAt x m.tick } }
    | none => m

/-- A Berfel port goes down (R145, R146). -/
def Mod.bfPortDown (m : Mod) (n : Nat) : Mod := if m.bState n = bsDown then m else m.portFall n true

/-- A bundle resets (R149): sequences, reorder store, queue and histories are cleared; outstanding requests and unacknowledged deltas
are issued again; pages being placed at the peer stay where they are. `own` says that the reset is this module's own, which raises
OWN_INC and takes the bundle's ports down to train at once. -/
def Mod.bundleReset (m : Mod) (id : Nat) (own : Bool) : Mod :=
  let b := m.bundle id
  let ports := m.bundlePorts id
  let again := match m.indexOf id with
    | some x => ((m.pairOut x).unacked.filter Delta.sent).map deltaMsg
    | none => []
  let m := m.setBundle id { Bundle.empty with
    queue := (b.reqs.map OutReq.msg) ++ again, reqs := b.reqs, tag := b.tag, peerInc := b.peerInc,
    ownInc := if own then (b.ownInc + 1) % 2 ^ 32 else b.ownInc }
  let lost := match m.indexOf id with
    | some x => (m.tier.puts.filter fun (p : Nat × Nat × Nat) => p.2.1 = x).map Prod.fst
    | none => []
  let m := lost.foldl (fun (a : Mod) p => a.abandonMove p) m
  let m := ports.foldl (fun (a : Mod) n => a.raise (pgPrt n) 38 0) m
  if own then ports.foldl (fun (a : Mod) n => (a.portFall n false).setBState n bsTraining) m else m

/-- Members whose bundle is up, this module among them, of those that are not LOST (R85). -/
def Mod.majority (m : Mod) : Bool := match m.grp.map with
  | none => true
  | some g =>
    let live := (upto g.n).filter fun x => g.stOf x != mbLost
    decide (live.length < 2 * (live.filter fun x => m.reaches x).length)

end Sys2Proof.Machine
end

