-- ==== Sys2Proof/Machine/Blocks.lean ====
section
/-!
DEFINITION. Machine/Blocks.lean: the walks of this module block by block (R109 to R112, R411): rebuild and resync, and a member's part
in a step of a re-stripe.
-/
namespace Sys2Proof.Machine

/-! ## A block of a walk -/

/-- Blocks of a stripe space of U units for k data units. -/
def mapBlocks (g : GMap) : Nat := (g.units + g.k - 1) / g.k

/-- Parity units of a store (R89). -/
def parityUnits (units k mm : Nat) : Nat := (units + k - 1) / k * mm

/-- The stripes of block q, as (store, stripe): below the boundary of a re-stripe those of the target's geometry that cover it (R112). -/
def Mod.blockStripes (m : Mod) (g : GMap) (q : Nat) : List (Nat × Nat) :=
  if g.restripe && decide (q * g.k < m.aux.restripeB) then
    let qs := (upto (g.k + 1)).filterMap fun i =>
      let q' := q * g.k / g.tk + i
      if decide (q * g.k ≤ q' * g.tk) && decide (q' * g.tk < (q + 1) * g.k) then some q' else none
    qs.flatMap fun q' => (upto g.n).map fun b => (1, q' * g.n + b)
  else (upto g.n).map fun b => (0, q * g.n + b)

/-- This module's unit of a stripe that its walk is to write: its data unit in a rebuild, or its parity unit; with its position. -/
def Mod.walkUnit (m : Mod) (g : GMap) (w : Walk) (store s : Nat) : Option (Nat × Nat) :=
  let q := geoBy g store
  match parityIn q s m.own with
  | some (j, u) => if w.partly && !m.aux.resyncUnits.contains u then none else some (j, u)
  | none => if w.kind = .rebuild then unitIn q s m.own else none

/-- The stripes of a walk's block that hold a unit to write. -/
def Mod.walkStripes (m : Mod) (g : GMap) (w : Walk) : List (Nat × Nat) :=
  (m.blockStripes g w.q).filter fun e => (m.walkUnit g w e.1 e.2).isSome

def Mod.setWalk (m : Mod) (w : Walk) : Mod := { m with grp := { m.grp with walk := some w } }

/-- Unit holds on a stripe go to its available data members, and to the stand-in of this module's index (R110, step 1). -/
def Mod.walkHold (m : Mod) (g : GMap) (w : Walk) (store s : Nat) : Mod × Walk :=
  let q := geoBy g store
  let data := (m.availUnits g q s).filter fun j => decide (j < q.k)
  let dst := (data.map fun j => ((dataUnit q.n q.k s j).1, j)).filter fun e => e.1 != m.own
  let stand := match (g.members[m.own]?).bind Member.standin with
    | some y => if w.kind = .rebuild && y != m.own && !(dst.any fun e => e.1 = y) then [(y, q.k + q.m)] else []
    | none => []
  let m := m.count pgGrp 0x101 1
  (dst ++ stand).foldl (fun (a : Mod × Walk) e =>
    let t := a.1.request e.1 0x07 (holdBody store s 255)
    (t.1, { a.2 with asked := a.2.asked ++ [(e.1, t.2, stripeKey store s, e.2, 255)], holds := a.2.holds ++ [(e.1, stripeKey store s)] })) (m, w)

/-- Parity lines that a stripe still lacks are read once its holds have been answered (R107, step 3). -/
def Mod.walkParity (m : Mod) (g : GMap) (w : Walk) (key : Nat) : Mod × Walk :=
  let q := geoBy g (keyStore key)
  let s := keyStripe key
  let got := (w.held.filter fun e => e.1 = key && e.2.2.1 = 255).length
  let mine := (parityIn q s m.own).map Prod.fst
  let ps := (m.availUnits g q s).filter fun j => decide (q.k ≤ j) && some j != mine && !w.bad.contains (key, j)
  (ps.take (q.k - got)).foldl (fun (a : Mod × Walk) j =>
    let d := parityUnit q.n q.k q.m s (j - q.k)
    (upto 64).foldl (fun (a : Mod × Walk) n =>
      let t := a.1.request d.1 0x0A (lineReadBody q.store d.2 n)
      (t.1, { a.2 with asked := a.2.asked ++ [(d.1, t.2, key, j, n)] })) a) (m, w)

/-- REBUILD_STEP with the next boundary goes to every member that is not LOST (R110, step 4). -/
def Mod.walkStep (m : Mod) (g : GMap) (w : Walk) : Mod :=
  let op := if w.kind = .rebuild then 1 else 2
  let dst := (upto g.n).filter fun x => x != m.own && g.stOf x != mbLost
  let r := dst.foldl (fun (a : Mod × List (Nat × Nat)) x =>
    let t := a.1.request x 0x0E (leBytes 1 op ++ zeros 3 ++ leBytes 4 (w.q + 1))
    (t.1, a.2 ++ [(x, t.2)])) (m, [])
  r.1.setWalk { w with stepping := true, left := r.2 }

/-- A walk's block begins: its holds are asked for; a block with no unit to write is passed at once (R411). -/
def Mod.walkBlock (m : Mod) : Mod := match m.grp.map, m.grp.walk with
  | some g, some w =>
    let w := { w with held := [], asked := [], holds := [], bad := [], left := [], stepping := false }
    let ss := m.walkStripes g w
    if ss = [] then m.walkStep g w
    else
      let r := ss.foldl (fun (a : Mod × Walk) e => a.1.walkHold g a.2 e.1 e.2) (m, w)
      r.1.setWalk r.2
  | _, _ => m

/-- PAGE_PROGRESS of a walk (R113). -/
def Mod.walkProgress (m : Mod) (g : GMap) (w : Walk) : Mod := m.progress pgGrp 1 (w.q * 10000 / mapBlocks g) w.q

/-- A walk starts from block 0 (R109 to R111). -/
def Mod.walkBegin (m : Mod) (kind : OpKind) (partly : Bool) : Mod :=
  let w : Walk := { kind := kind, q := 0, left := [], stepping := false, failed := false, partly := partly, held := [], asked := [],
                    holds := [], bad := [] }
  ((m.setWalk w).walkBlock).progress pgGrp 1 0 0

/-- The holds of a walk's block are released (R110, step 5). -/
def Mod.walkRelease (m : Mod) (w : Walk) : Mod :=
  w.holds.foldl (fun (a : Mod) h => (a.request h.1 0x08 (leBytes 4 h.2 ++ leBytes 1 255)).1) m

/-- An answer to a walk's request: data, or a refusal; a stripe whose holds are all answered reads the parity it lacks. -/
def Mod.walkAnswer (m : Mod) (frm tag : Nat) (res : Option (List Byte)) : Mod := match m.grp.map, m.grp.walk with
  | some g, some w => match w.asked.find? fun e => e.1 = frm && e.2.1 = tag with
    | none => m
    | some e =>
      let key := e.2.2.1
      let j := e.2.2.2.1
      let n := e.2.2.2.2
      let q := geoBy g (keyStore key)
      let w := { w with asked := w.asked.filter fun x => x != e }
      let w := match res with
        | some bs => if j < q.k + q.m then { w with held := w.held ++ [(key, j, n, bs)] } else w
        | none => { w with bad := w.bad ++ [(key, j)], holds := w.holds.filter fun h => !(n = 255 && h = (frm, key)) }
      let waits := w.asked.any fun x => x.2.2.1 = key
      let r := if waits then (m, w)
               else if n = 255 || res.isNone then m.walkParity g w key
               else (m, w)
      r.1.setWalk r.2
  | _, _ => m

/-- Requests of the walk to a member end (R79): its units count as unavailable. -/
def Mod.walkLose (m : Mod) (x : Nat) : Mod := match m.grp.walk with
  | none => m
  | some w =>
    let gone := w.asked.filter fun e => e.1 = x
    let m := m.setWalk { w with left := w.left.filter fun l => l.1 != x, holds := w.holds.filter fun h => h.1 != x }
    gone.foldl (fun (a : Mod) e => a.walkAnswer x e.2.1 none) m

/-- Line n of a stripe at a position from what a walk has in hand; none where it holds fewer than k units. -/
def walkLineOf (g : GMap) (w : Walk) (key j n : Nat) : Option (List Byte) :=
  let q := geoBy g (keyStore key)
  let have_ := w.held.filterMap fun e =>
    if e.1 = key then (if e.2.2.1 = 255 then some (e.2.1, slice e.2.2.2 (64 * n) 64) else if e.2.2.1 = n then some (e.2.1, e.2.2.2) else none) else none
  if q.k ≤ have_.length then some (recoverLine q.k (have_.take q.k) j 64) else none

/-- The line of the module's own extents at a line of a unit. -/
def Mod.lineOfUnit (m : Mod) (u n : Nat) : Option Nat :=
  (m.fab.extents.find? fun e => e.2.adopted.isNone && (match e.2.stripe with
    | some g => decide (g * 512 ≤ u) && decide (u < g * 512 + e.2.size / 4096)
    | none => false)).map fun e => e.2.base / 64 + (u - e.2.stripe.getD 0 * 512) * 64 + n

/-- A unit of the walk is written (R110, step 3): its lines as recovered, or with POISON on the poison list where its stripe lacks k
units; a data unit is kept only where an extent covers it. -/
def Mod.walkWrite (m : Mod) (g : GMap) (w : Walk) (key : Nat) : Mod × Bool := match m.walkUnit g w (keyStore key) (keyStripe key) with
  | none => (m, true)
  | some (j, u) =>
    let q := geoBy g (keyStore key)
    let r := (upto 64).foldl (fun (a : Mod × Bool) n =>
      match walkLineOf g w key j n with
      | some bs =>
        if j < q.k then (match a.1.lineOfUnit u n with
          | some l => (a.1.putBack l bs, a.2)
          | none => a)
        else
          let m := { a.1 with grp := { a.1.grp with parity := Memory.putBytes a.1.grp.parity (parityAddr q.store u n) bs } }
          let m := match m.internalPlace 0 (u * 64 + n) with
            | some (f, i) => if q.store = 0 then m.chanWrite f i 0 8 else m
            | none => m
          (m.add (pgPar (engineOf (paritySlice (u * 64 + n)))) ParF.recon 1, a.2)
      | none =>
        if j < q.k then (match a.1.lineOfUnit u n with
          | some l => (((a.1.storeLine l (zeros 64) true false).listPoison (l * 64) 64), false)
          | none => (a.1, false))
        else (a.1, false)) (m, true)
    let m := if q.k ≤ j then { r.1 with aux := { r.1.aux with resyncUnits := r.1.aux.resyncUnits.filter fun x => x != u } } else r.1
    (m, r.2)

/-- Every answer of the block is in: its units are written, and the step goes out (R110, steps 2 to 4). A unit beyond recovery sets
BEYOND_TOLERANCE (R103). -/
def Mod.walkHeld (m : Mod) (kind : OpKind) : Mod := match m.grp.map, m.grp.walk with
  | some g, some w =>
    if w.kind != kind || w.stepping || w.asked != [] then m
    else
      let r := (m.walkStripes g w).foldl (fun (a : Mod × Bool) e =>
        let t := a.1.walkWrite g w (stripeKey e.1 e.2)
        (t.1, a.2 && t.2)) (m, true)
      let m := if r.2 then r.1 else (r.1.raise pgGrp 12 (r.1.grpDetail r.1.own)).event .failure .beyondTolerance []
      m.walkStep g { w with failed := w.failed || !r.2 }
  | _, _ => m

/-! ## A step of a re-stripe (R112) -/

/-- Stripes of the target's geometry that cover units [B, b) and whose parity this module holds. -/
def Mod.stepStripes (m : Mod) (g : GMap) (b : Nat) : List Nat :=
  let lo := m.aux.restripeB / g.tk
  let hi := (b + g.tk - 1) / g.tk
  (List.range' lo (hi - lo)).flatMap fun q => ((upto g.n).map fun i => q * g.n + i).filter fun s => (parityIn (geoBy g 1) s m.own).isSome

/-- A step begins at this module: unit holds on every new stripe it holds parity of; earlier holds are released. -/
def Mod.stepBegin (m : Mod) (g : GMap) (b : Nat) (answer : Option (Nat × Nat)) : Mod :=
  let old := match m.aux.step with
    | some st => st.holds
    | none => []
  let m := old.foldl (fun (a : Mod) h => (a.request h.1 0x08 (leBytes 4 h.2 ++ leBytes 1 255)).1) m
  let q := geoBy g 1
  let st0 : StripeStep := { b := b, answer := answer, asked := [], held := [], holds := [] }
  let r := (m.stepStripes g b).foldl (fun (a : Mod × StripeStep) s =>
    (upto q.k).foldl (fun (a : Mod × StripeStep) j =>
      let d := dataUnit q.n q.k s j
      let t := a.1.request d.1 0x07 (holdBody 1 s 255)
      (t.1, { a.2 with asked := a.2.asked ++ [(d.1, t.2, s, j)], holds := a.2.holds ++ [(d.1, stripeKey 1 s)] })) (a.1.count pgGrp 0x101 1, a.2))
    (m, st0)
  { r.1 with aux := { r.1.aux with step := some r.2 } }

/-- The new parity units of a step are computed once its units are in hand; B advances and the keeper is answered (R112). -/
def Mod.stepDone (m : Mod) (g : GMap) (st : StripeStep) : Mod :=
  let q := geoBy g 1
  let m := (m.stepStripes g st.b).foldl (fun (a : Mod) s => match parityIn q s a.own with
    | none => a
    | some (j, u) => (upto 64).foldl (fun (a : Mod) n =>
        let have_ := st.held.filterMap fun e => if e.1 = s then some (e.2.1, slice e.2.2 (64 * n) 64) else none
        let bs := recoverLine q.k (have_.take q.k) j 64
        let a : Mod := { a with grp := { a.grp with parity := Memory.putBytes a.grp.parity (parityAddr 1 u n) bs } }
        a.add (pgPar (engineOf (paritySlice (u * 64 + n)))) ParF.recon 1) a) m
  let m := { m with aux := { m.aux with restripeB := st.b, step := some { st with answer := none, held := [] } } }
  match st.answer with
  | some (x, tag) => m.respond x 0x09 tag .ok []
  | none => m

/-- A unit of a step arrives; a refusal leaves the step waiting until it is begun again (R112 takes every member to be ACTIVE). -/
def Mod.stepAnswer (m : Mod) (frm tag : Nat) (res : Option (List Byte)) : Mod := match m.grp.map, m.aux.step with
  | some g, some st => match st.asked.find? fun e => e.1 = frm && e.2.1 = tag, res with
    | some e, some bs =>
      let st := { st with asked := st.asked.filter fun x => x != e, held := st.held ++ [(e.2.2.1, e.2.2.2, bs)] }
      let m := { m with aux := { m.aux with step := some st } }
      if st.asked = [] then m.stepDone g st else m
    | _, _ => m
  | _, _ => m

end Sys2Proof.Machine
end

