-- ==== Sys2Proof/Machine/Maps.lean ====
section
/-!
DEFINITION. Machine/Maps.lean: the group map as bytes (R135) and its adoption (R77 to R81, R85, R97, R99, R104 to R106, R109 to R112,
R115): what a member does on taking a new map.
-/
namespace Sys2Proof.Machine

/-! ## The map as bytes -/

/-- A member entry of the map body. -/
def memberBytes (y : Member) : List Byte :=
  leBytes 2 y.id ++ leBytes 1 y.st ++ leBytes 1 (y.standin.getD 0xFF) ++ leBytes 2 y.standEpoch ++ zeros 2

/-- The map body (R135). -/
def mapBody (g : GMap) : List Byte :=
  leBytes 4 g.groupId ++ leBytes 8 g.gen ++ leBytes 2 g.term ++ leBytes 1 g.keeper ++ leBytes 1 g.members.length ++ leBytes 1 g.k ++
  leBytes 1 g.m ++ leBytes 1 (b2n g.restripe + 2 * b2n g.dissolve) ++ leBytes 1 g.tk ++ leBytes 1 g.tm ++ zeros 3 ++ leBytes 4 g.units ++
  leBytes 4 g.promote.length ++ (g.members.flatMap memberBytes) ++ zeros (8 * (16 - g.members.length)) ++
  g.promote.flatMap fun p => leBytes 1 p.1 ++ zeros 3 ++ leBytes 4 p.2

/-- Segments of a body in pieces of `size` bytes (R135), at least one. -/
def segments (size : Nat) (body : List Byte) : List (List Byte) :=
  let n := max 1 ((body.length + size - 1) / size)
  (upto n).map fun i => leBytes 2 i ++ leBytes 2 n ++ zeros 4 ++ slice body (i * size) size

/-- A request in several segments under one TAG. -/
def Mod.requestSegs (m : Mod) (id op : Nat) (segs : List (List Byte)) : Mod × Nat :=
  let b := m.bundle id
  let gs := segs.map fun s => mkMsg 0 op b.tag s
  let tag := if b.tag + 1 < 65536 then b.tag + 1 else 1
  (m.setBundle id { b with queue := b.queue ++ gs, reqs := b.reqs ++ gs.map (fun g => { tag := b.tag, msg := g }), tag := tag }, b.tag)

/-- A response in several segments, each with the request's TAG. -/
def Mod.respondSegs (m : Mod) (x op tag : Nat) (segs : List (List Byte)) : Mod :=
  segs.foldl (fun (a : Mod) s => a.respond x op tag .ok s) m

/-! ## Marks -/

/-- Window mirrors no longer wait for a member (log entry 21). -/
def Mod.mirrorLose (m : Mod) (x : Nat) : Mod :=
  let ws := m.led.mirrorWaits.map fun w => { w with left := w.left.filter fun (l : Nat × Nat) => l.1 != x }
  let done := ws.filter fun w => w.left.isEmpty
  let m := { m with led := { m.led with mirrorWaits := ws.filter fun w => !w.left.isEmpty } }
  done.foldl (fun (a : Mod) w => (if w.del then a.bgDone w.via else a).reply w.via .success []) m

/-- A member is declared lost (R79, R149, R259): its pages, its deltas, its acknowledgements and every request to it end, its holds are
dropped (log entry 38), and its bundle resets. -/
def Mod.memberGone (m : Mod) (x : Nat) : Mod :=
  let m := m.peerLost x
  let m := m.setPairOut x { m.pairOut x with unacked := [] }
  let m := { m with aux := { m.aux with ledger := dropOwed x m.aux.ledger, rejoin := m.aux.rejoin.filter fun y => y != x,
                                        stepLeft := m.aux.stepLeft.filter fun e => e.1 != x,
                                        fetched := m.aux.fetched.filter fun y => y != x },
                    led := { m.led with holds := m.led.holds.filter fun h => h.requester != x },
                    grp := { m.grp with reports := m.grp.reports.filter fun r => r.1 != x && r.2 != x } }
  let m := (m.settle (dropOwed x)).updBundle (m.idOf x) fun b => { b with reqs := [] }
  let m := ((m.reconsLose x).walkLose x).mirrorLose x
  m.bundleReset (m.idOf x) true

/-- The stages of a member whose mark a map brings are resolved (R99): those on the promote list are folded into parity, the others
discarded. -/
def Mod.resolveStages (m : Mod) (g : GMap) (x : Nat) : Mod :=
  let p := m.pairIn x
  let up := p.stages.filter fun st => g.promote.contains (x, st.key)
  let m := up.foldl (fun (a : Mod) st =>
    let line := st.key % 2 ^ 30
    match a.deltaUnit g x line (decide (2 ^ 31 ≤ st.key)) with
    | some (q, u) => if a.parityGone g q a.own u then a else (a.foldParity q.store u (line % 64) st.data).parityTraffic u (line % 64)
    | none => a) m
  m.setPairIn x { m.pairIn x with stages := [] }

/-- A member returns as RESYNC or REBUILDING (R97, R149): deltas towards it start afresh, for a replacement in both directions, and the
bundle resets. -/
def Mod.memberReturns (m : Mod) (x : Nat) (kind : Nat) (replaced : Bool) (oldId : Nat) : Mod :=
  let m := m.setPairOut x PairOut.start
  let m := if replaced then
      (m.setPairIn x PairIn.start).dropHeld (fun k => k / 2 ^ 36 = x) |> fun a => { a with bfl := { a.bfl with bundles := mapDel a.bfl.bundles oldId } }
    else m
  let m := { m with grp := { m.grp with bounds := mapPut m.grp.bounds x (kind, 0) } }
  m.bundleReset (m.idOf x) true

/-! ## This module's own transitions -/

/-- A fence is raised by a mark or a lost majority (R85, R123). -/
def Mod.fenceGroup (m : Mod) (f : Fence) : Mod :=
  if m.fences.contains f then m else (m.fence f).raise pgGrp 10 (m.grpDetail m.own)

/-- This module is marked (R85, R109): it fences, and its walk is abandoned. -/
def Mod.ownMarked (m : Mod) : Mod :=
  let m := m.fenceGroup .marked
  if m.grp.walk.isSome then ({ m with grp := { m.grp with walk := none } }).set pgGrp HdrF.opState 0 else m

/-- A promoted full stop that the returning module still holds is applied (R99): as step 5 of R59, with no COMMIT. -/
def Mod.applyPromoted (m : Mod) (w : Nat) : Mod := match m.headStop w, mapGet m.led.wins w with
  | some s, some x =>
    let l := lineOf x.entry.stopDpa
    let m := (m.storeLine l s.data s.poison (s.hint = 1 || decide (16 ≤ s.hint))).untouch l
    let seq := leAt s.data 0 8
    let short := m.winShort x
    let m := m.updWin w fun x => { x with lastSeq := seq, stopsDone := (x.stopsDone + 1) % 2 ^ 32, degraded := x.degraded || short }
    let m := { m with led := { m.led with stops := dropFirst w m.led.stops } }
    ((m.count (pgHsl (sliceOf l)) 0x106 1).answerStop s seq).closeEpoch w
  | _, _ => m

/-- The held full stops of the returning module (R99): promoted ones are applied, the others restart at step 3 of R59. -/
def Mod.resolveOwnStops (m : Mod) (g : GMap) : Mod :=
  let ws := (m.led.wins.map Prod.fst).filter fun w => (m.headStop w).isSome && decide (w < 16384)
  ws.foldl (fun (a : Mod) w => match a.headStop w, mapGet a.led.wins w with
    | some s, some x => match a.extAt x.entry.stopDpa with
      | some (_, e) =>
        if s.step = .staged then
          (if g.promote.contains (a.own, e.sourceLine (lineOf x.entry.stopDpa)) then a.applyPromoted w
           else a.updStop w fun s => { s with step := .closing, owed := [] })
        else a
      | none => a
    | _, _ => a) m

/-- The parity store in frames of the pool (R89). -/
def Mod.takeParity (m : Mod) (g : GMap) : Mod := match m.allocRuns (parityUnits g.units g.k g.m) with
  | some rs => ({ m with aux := { m.aux with parityRuns := rs } }).checkUse
  | none => m

/-- This module returns as RESYNC or REBUILDING (R111): its fence lifts, promoted stops are applied, deltas towards it start afresh,
pages it held are dropped, and its walk starts from block 0. -/
def Mod.ownReturns (m : Mod) (g : GMap) (kind : OpKind) : Mod :=
  let m := (m.unfence .marked).resolveOwnStops g
  let fresh := fun (p : PairIn) => { PairIn.start with stages := p.stages }
  let m := { m with grp := { m.grp with ins := m.grp.ins.map fun (e : Nat × PairIn) => (e.1, fresh e.2) }, aux := { m.aux with resyncUnits := [] } }
  (m.dropHeld fun _ => true).walkBegin kind false

/-! ## Stand-ins -/

/-- State of a window by its mirrored code. -/
def winStOf : Nat → Option WinSt
  | 1 => some .open_ | 2 => some .suspended | 3 => some .deleting | _ => none

/-- A stand-in adopts the lost member's windows (R105, R106), and notes its promoted stops (R99). -/
def Mod.adoptWindows (m : Mod) (old g : GMap) (x : Nat) : Mod :=
  let mine := m.led.mirrors.filter fun r => r.owner = x
  let wins := mine.foldl (fun (a : Map Window) r => match winStOf r.st with
    | some st =>
      let id := 16384 + r.entry.id
      mapPut a id { entry := { r.entry with id := id }, st := st, epoch := 0, degraded := false, lastSeq := 0, stopsDone := 0 }
    | none => a) m.led.wins
  let keys := (g.promote.filter fun p => (p.1 = x && decide (p.2 < 2 ^ 31)) ||
    (decide (2 ^ 31 ≤ p.2) && ((old.members[x]?).bind Member.standin) = some p.1)).map fun p => p.2 % 2 ^ 31
  { m with led := { m.led with wins := wins }, aux := { m.aux with promotedStops := keys } }

/-- A stand-in's role ends (R106, step 4): adopted windows and extents are gone. -/
def Mod.endStandin (m : Mod) : Mod :=
  let exts := (m.fab.extents.filter fun e => e.2.adopted.isSome).map Prod.fst
  let m := exts.foldl (fun (a : Mod) n => a.freeExtent n) m
  { m with led := { m.led with wins := m.led.wins.filter fun w => decide (w.1 < 16384), stops := m.led.stops.filter fun s => decide (s.win < 16384) },
           grp := { m.grp with clearing := none }, aux := { m.aux with promotedStops := [] } }

/-- The keeper tells a replacement of its windows (R105). -/
def Mod.tellWindows (m : Mod) (x : Nat) : Mod :=
  (m.led.mirrors.filter fun r => r.owner = x).foldl (fun (a : Mod) r =>
    (a.request x 0x0B (leBytes 8 r.entry.dataBase ++ leBytes 8 r.entry.dataSize ++ leBytes 8 r.entry.stopDpa ++ leBytes 2 r.entry.id ++
      zeros 6 ++ leBytes 1 r.st ++ leBytes 1 x)).1) m

/-! ## Roles, tolerance, completion -/

/-- ROLE_CODE of the GRP page (R116's section). -/
def Mod.grpRole (m : Mod) : Nat := match m.grp.map with
  | none => 0
  | some g => (if g.keeper = m.own then 2 else 1) + (if m.standsFor.isSome then 2 else 0)

/-- The GRP page bears its role (R39). -/
def Mod.takeRole (m : Mod) : Mod := if m.grpRole = m.get pgGrp HdrF.roleCode then m else m.newRole pgGrp m.grpRole

/-- Some stripe has more than m units unavailable (R80): looked at in block 0 and at every boundary, between which availability does
not change. -/
def Mod.beyondNow (m : Mod) : Bool := match m.grp.map with
  | none => false
  | some g =>
    let qs := 0 :: ((m.grp.bounds.map fun e => e.2.2) ++ (m.grp.walk.map Walk.q).toList).filter fun q => decide (q < mapBlocks g)
    let q := geoBy g 0
    qs.any fun b => (upto g.n).any fun i => decide ((m.availUnits g q (b * g.n + i)).length < q.k)

/-- Every member is ACTIVE. -/
def allActive (g : GMap) : Bool := g.members.all fun y => y.st = mbActive

/-- The map in force shows a forwarded command's change (R115). -/
def cmdDone (g : GMap) (own : Nat) : GroupCmd → Bool
  | .markLost x => g.stOf x = mbLost
  | .standinSet l b => ((g.members[l]?).bind Member.standin) = some b
  | .standinClear l => ((g.members[l]?).bind Member.standin).isNone
  | .replace x id => g.idOf x = id && g.stOf x != mbStale && g.stOf x != mbLost
  | .restripe k mm => g.restripe && g.tk = k && g.tm = mm
  | .keeperSet => g.keeper = own
  | .dissolve => false

/-- Commands whose change has been committed complete (R115). -/
def Mod.endWaits (m : Mod) (g : GMap) : Mod :=
  let done := m.aux.waits.filter fun w => cmdDone g m.own w.2
  let m := { m with aux := { m.aux with waits := m.aux.waits.filter fun w => !cmdDone g m.own w.2 } }
  done.foldl (fun (a : Mod) w => a.reply w.1 .success []) m

/-- Windows short of protection are DEGRADED once a full stop has been applied to them; the flag clears when every member is ACTIVE
(R80). -/
def Mod.degradeWindows (m : Mod) (restored : Bool) : Mod :=
  let f := fun (w : Window) => if restored then { w with degraded := false } else { w with degraded := w.degraded || (w.stopsDone != 0 && m.winShort w) }
  { m with led := { m.led with wins := m.led.wins.map fun w => (w.1, f w.2) } }

/-! ## Adoption -/

/-- The module leaves its group (R115): its parity store is freed, its map and pair state are cleared. -/
def Mod.leaveGroup (m : Mod) : Mod :=
  let ws := m.aux.waits.filter fun w => w.2 = .dissolve
  let role := m.get pgGrp HdrF.roleCode
  let m : Mod := { m with grp := { Grp.reset with ownId := m.grp.ownId }, aux := GrpAux.reset,
                          led := { m.led with mirrors := [], holds := [] } }
  let m := (m.unfence .marked).unfence .quorum
  let m := (if role = 0 then m else m.newRole pgGrp 0).checkUse
  let m := (m.raise pgGrp 8 0).count pgGrp 0x100 1
  ws.foldl (fun (a : Mod) w => a.reply w.1 .success []) m

/-- What the change of one other member's entry brings (R79, R97, R99, R149). -/
def Mod.memberChange (m : Mod) (old g : GMap) (x : Nat) : Mod :=
  let a := old.stOf x
  let b := g.stOf x
  if x = m.own then m
  else if b = mbStale || b = mbLost then
    if a = b then m else
    let m := if takesDeltas a then
        let m := m.resolveStages g x
        let m := { m with aux := { m.aux with staleEpoch := mapPut m.aux.staleEpoch x (old.gen % 65536),
                                              wasReb := if a = mbRebuilding then x :: m.aux.wasReb else m.aux.wasReb } }
        m
      else m
    let m := if b = mbLost then m.dropHeld fun k => k / 2 ^ 36 = x else m
    (m.memberGone x).raise pgGrp 9 (m.grpDetail x)
  else if (b = mbRebuilding || b = mbResync) && (a != b || old.idOf x != g.idOf x) then
    let m := if takesDeltas a && a != mbActive || a = mbActive && b = mbResync then m else m.resolveStages g x
    let m := { m with aux := { m.aux with wasReb := m.aux.wasReb.filter fun y => y != x } }
    -- an ACTIVE member that only recomputes parity keeps its pairs (R97, R411)
    let m := if a = mbActive then { m with grp := { m.grp with bounds := mapPut m.grp.bounds x (2, 0) } }
             else m.memberReturns x (if b = mbRebuilding then 1 else 2) (old.idOf x != g.idOf x) (old.idOf x)
    if g.keeper = m.own && b = mbRebuilding && old.idOf x != g.idOf x then m.tellWindows x else m
  else m

/-- What the change of this module's own entry brings (R85, R109, R111, R411). -/
def Mod.ownChange (m : Mod) (old g : GMap) : Mod :=
  let a := old.stOf m.own
  let b := g.stOf m.own
  if (b = mbStale || b = mbLost) && takesDeltas a then m.ownMarked
  else if a = mbStale && b = mbResync then m.ownReturns g .resync
  else if a = mbStale && b = mbRebuilding then m.ownReturns g .rebuild
  else if a = mbActive && b = mbResync then m.walkBegin .resync true
  else if takesDeltas a && a != mbActive && b = mbActive then { m with grp := { m.grp with walk := none } }
  else m

/-- Re-stripe transitions (R112): the target's parity store is taken at its start; at its end it replaces the old one. A re-stripe with a
member not ACTIVE pauses, its step given up. -/
def Mod.restripeChange (m : Mod) (old g : GMap) : Mod :=
  if g.restripe && !old.restripe then
    let m := match m.allocRuns (parityUnits g.units g.tk g.tm) with
      | some rs => ({ m with aux := { m.aux with targetRuns := rs, restripeB := 0, step := none, stepLeft := [] } }).checkUse
      | none => m
    m.progress pgGrp 1 0 0
  else if old.restripe && !g.restripe then
    let holds := match m.aux.step with
      | some st => st.holds
      | none => []
    let m := holds.foldl (fun (a : Mod) h => (a.request h.1 0x08 (leBytes 4 h.2 ++ leBytes 1 255)).1) m
    let moved := (m.grp.parity.filter fun c => decide (2 ^ 44 ≤ c.1)).map fun c => (c.1 - 2 ^ 44, c.2)
    let m := { m with grp := { m.grp with parity := moved },
                      aux := { m.aux with parityRuns := m.aux.targetRuns, targetRuns := [], restripeB := 0, step := none, stepLeft := [] } }
    (m.progress pgGrp 0 10000 g.units).raise pgGrp 13 (m.grpDetail m.own)
  else if g.restripe && !allActive g then
    let m := { m with aux := { m.aux with step := none, stepLeft := [] } }
    m.progress pgGrp 2 (m.aux.restripeB * 10000 / g.units) m.aux.restripeB
  else m

/-- A map is adopted by a module in no group (R110, R115, R410): what a restore had fenced is served again, its pairs start, its parity store is taken, a replacement begins its rebuild,
and GRP_FORM completes. -/
def Mod.joinGroup (m : Mod) (g : GMap) : Mod :=
  let via := m.grp.form.map fun f => f.1
  let m : Mod := { m with grp := { Grp.reset with ownId := m.grp.ownId, map := some g, highTerm := max g.term m.grp.highTerm },
                          aux := { m.aux with heldPropose := none, queue := [], restripeB := 0 } }
  let down := (upto g.n).filter fun x => !m.reaches x
  let m := { m with grp := { m.grp with downAt := down.foldl (fun (a : Map Nat) x => mapPut a x m.tick) m.grp.downAt } }
  let m := (((m.unfence .restore).unfence .startup).takeParity g).takeRole
  let m := (m.raise pgGrp 8 (m.grpDetail m.own)).count pgGrp 0x100 1
  let m := if g.stOf m.own = mbRebuilding then m.walkBegin .rebuild false else m
  match via with
  | some v => m.reply v .success []
  | none => m

/-- A member adopts a map (R81, step 4). An older or equal generation changes nothing (R82). -/
def Mod.adopt (m : Mod) (g : GMap) : Mod := match m.grp.map with
  | none => if g.dissolve then m else m.joinGroup g
  | some old =>
    if g.gen ≤ old.gen then m
    else if g.dissolve then m.leaveGroup
    else
      let was := m.beyondNow
      let stood := m.standsFor
      let acc := match m.grp.accepted with
        | some p => if p.gen ≤ g.gen then none else some p
        | none => none
      let m := { m with grp := { m.grp with map := some g, accepted := acc, highTerm := max m.grp.highTerm g.term } }
      let m := (m.raise pgGrp 8 (m.grpDetail m.own)).count pgGrp 0x100 1
      let m := (upto g.n).foldl (fun (a : Mod) x => a.memberChange old g x) m
      let m := (m.ownChange old g).restripeChange old g
      let m := match stood, m.standsFor with
        | none, some x => m.adoptWindows old g x
        | some x, some y => if x = y then m else m.endStandin.adoptWindows old g y
        | some _, none => m.endStandin
        | none, none => m
      let restored := allActive g && !allActive old
      let m := (m.degradeWindows restored).takeRole
      let m := if restored then m.raise pgGrp 14 (m.grpDetail m.own) else m
      let m := if m.beyondNow && !was then (m.raise pgGrp 12 (m.grpDetail m.own)).event .failure .beyondTolerance [] else m
      (m.endWaits g).afterAcks

end Sys2Proof.Machine
end

