-- ==== Sys2Proof/Machine/Groups.lean ====
section
/-!
DEFINITION. Machine/Groups.lean: the keeper (R81 to R86, R99, R100, R109 to R112, R115): the queue of map changes, stage collection,
proposals and commits, and what follows a member's adoption of a map.
-/
namespace Sys2Proof

/-- Members that are not LOST. -/
def GMap.live (g : GMap) : List Nat := (List.range g.n).filter fun x => g.stOf x != 3

/-- Change one member's entry. -/
def GMap.setMember (g : GMap) (x : Nat) (f : Member → Member) : GMap := { g with members := g.members.modify x f }

end Sys2Proof

namespace Sys2Proof.Machine

open Host

/-! ## The new map of a change -/

/-- The map a change leads to, but for its generation, further marks and promote list. -/
def Mod.newMap (m : Mod) (g : GMap) : ChangeReq → GMap
  | .form => g
  | .mark x st => g.setMember x fun y => { y with st := st }
  | .standin l (some b) => g.setMember l fun y => { y with standin := some b, standEpoch := (y.standEpoch + 1) % 65536 }
  | .standin l none => g.setMember l fun y => { y with standin := none }
  | .replace x id => g.setMember x fun y => { y with id := id, st := mbRebuilding }
  | .back x => g.setMember x fun y => { y with st := if m.aux.wasReb.contains x then mbRebuilding else mbResync }
  | .recompute x => g.setMember x fun y => { y with st := mbResync }
  | .active x => g.setMember x fun y => { y with st := mbActive }
  | .restripe k mm => { g with restripe := true, tk := k, tm := mm }
  | .restriped => { g with k := g.tk, m := g.tm, restripe := false, tk := 0, tm := 0 }
  | .keeper t => { g with keeper := m.own, term := t }
  | .dissolve => { g with dissolve := true }
  | .again p => p

/-- A promote entry stays in the map while its sender is marked, and in the map that brings it back (log entry 31). -/
def keepPromote (old g : GMap) (e : Nat × Nat) : Bool :=
  let b := g.stOf e.1
  b = mbStale || b = mbLost || ((b = mbResync || b = mbRebuilding) && old.stOf e.1 = mbStale)

/-- The whole map a change proposes: further marks, the generation after, members that R86 marks LOST with it, the promote list. -/
def Mod.nextMap (m : Mod) (g : GMap) (req : ChangeReq) (marks promote : List (Nat × Nat)) : GMap := match req with
  | .again p => p
  | _ =>
    let g1 := marks.foldl (fun (a : GMap) e => a.setMember e.1 fun y => { y with st := e.2 }) (m.newMap g req)
    let gen := g.gen + 1
    let late := (upto g.n).filter fun x => g.stOf x = mbStale && g1.stOf x = mbStale && mapGet m.aux.staleEpoch x = some (gen % 65536)
    let g2 := late.foldl (fun (a : GMap) x => a.setMember x fun y => { y with st := mbLost }) g1
    { g2 with gen := gen, promote := (g.promote.filter (keepPromote g g2)) ++ promote }

/-- A change has still something to do under the map in force. -/
def reqValid (g : GMap) : ChangeReq → Bool
  | .form => true
  | .mark x st => decide (x < g.n) && (if st = mbLost then g.stOf x != mbLost else takesDeltas (g.stOf x))
  | .standin l (some b) => g.stOf l = mbLost && g.stOf b = mbActive && (g.standsFor b).isNone
  | .standin l none => ((g.members[l]?).bind Member.standin).isSome
  | .replace x id => g.stOf x = mbLost && !(g.members.any fun y => y.id = id)
  | .back x => g.stOf x = mbStale
  | .recompute x => g.stOf x = mbActive
  | .active x => g.stOf x = mbRebuilding || g.stOf x = mbResync
  | .restripe _ _ => !g.restripe
  | .restriped => g.restripe
  | .keeper _ => true
  | .dissolve => true
  | .again p => decide (p.gen = g.gen + 1)

/-- Some member rebuilds or recomputes. -/
def walking (g : GMap) : Bool := g.members.any fun y => y.st = mbRebuilding || y.st = mbResync

/-- A change waits for its turn (R109): one long operation runs at a time, and a re-stripe waits until every member is ACTIVE. -/
def reqWaits (g : GMap) : ChangeReq → Bool
  | .replace _ _ => walking g || (g.restripe && allActive g)
  | .back _ => walking g || (g.restripe && allActive g)
  | .recompute _ => walking g || (g.restripe && allActive g)
  | .restripe _ _ => !allActive g
  | _ => false

/-- A new keeper's first changes, made before the map names it keeper (R83). -/
def keeperReq : ChangeReq → Bool
  | .keeper _ => true
  | .again _ => true
  | _ => false

/-- The forwarded command that a change serves, if it serves one. -/
def reqCmd : ChangeReq → Option GroupCmd
  | .mark x st => if st = mbLost then some (.markLost x) else none
  | .standin l (some b) => some (.standinSet l b)
  | .standin l none => some (.standinClear l)
  | .replace x id => some (.replace x id)
  | .restripe k mm => some (.restripe k mm)
  | .dissolve => some .dissolve
  | _ => none

/-- Waiting commands of one kind complete with a code. -/
def Mod.failWaits (m : Mod) (c : GroupCmd) (rc : Rc) : Mod :=
  let done := m.aux.waits.filter fun w => w.2 = c
  let m := { m with aux := { m.aux with waits := m.aux.waits.filter fun w => w.2 != c } }
  done.foldl (fun (a : Mod) w => a.reply w.1 rc []) m

/-- A change that is not made ends the commands it serves. -/
def Mod.failReq (m : Mod) (req : ChangeReq) (rc : Rc) : Mod := match reqCmd req with
  | some c => m.failWaits c rc
  | none => m

/-! ## Proposals -/

def Mod.setProp (m : Mod) (p : Option Proposal) : Mod := { m with grp := { m.grp with prop := p } }

/-- MAP_PROPOSE goes to members by the module IDs of a map (R81, step 1). -/
def Mod.sendProposal (m : Mod) (g : GMap) (dst : List Nat) : Mod × List (Nat × Nat) :=
  let segs := segments 4096 (mapBody g)
  dst.foldl (fun (a : Mod × List (Nat × Nat)) x =>
    let r := a.1.requestSegs (g.idOf x) 0x01 segs
    (r.1, a.2 ++ [(x, r.2)])) (m, [])

/-- Whom a proposal goes to: every member that is not LOST in the map in force or in the new one, this module apart. -/
def proposeTo (old g : GMap) (own : Nat) : List Nat :=
  (upto g.n).filter fun x => x != own && (old.stOf x != mbLost || g.stOf x != mbLost)

/-- The change is proposed, and this module accepts its own proposal (R81, R82). A replacement is asked first (log entry 33). -/
def Mod.propose (m : Mod) (g : GMap) (req : ChangeReq) (map : GMap) : Mod :=
  let first := match req with
    | .replace x _ => some x
    | _ => none
  let dst := match first with
    | some x => [x]
    | none => proposeTo g map m.own
  let r := m.sendProposal map dst
  let p : Proposal := { map := map, req := req, acks := [m.own], tags := r.2, first := first, began := m.tick }
  { r.1 with grp := { r.1.grp with prop := some p, accepted := some map, highTerm := max r.1.grp.highTerm map.term } }

/-- The acceptances a change needs are in (R81, step 3; R115). -/
def enough (g : Option GMap) (p : Proposal) : Bool :=
  if p.first.isSome then false else
  match p.req, g with
  | .form, _ => (upto p.map.n).all fun x => p.acks.contains x
  | .dissolve, some g => g.live.all fun x => p.acks.contains x
  | _, some g => decide (g.live.length < 2 * (g.live.filter fun x => p.acks.contains x).length)
  | _, none => false

/-! ## Stage collection (R99) -/

/-- Members asked about a member's stages: every other one that is not LOST. -/
def askTo (g : GMap) (own x : Nat) : List Nat := (upto g.n).filter fun y => y != own && y != x && g.stOf y != mbLost

/-- STAGE_QUERY about the next member to be marked goes out; this module's own stages are at hand. -/
def Mod.askStages (m : Mod) (g : GMap) (a : StageAsk) (x : Nat) : Mod × StageAsk :=
  let r := (askTo g m.own x).foldl (fun (b : Mod × List (Nat × Nat)) y =>
    let t := b.1.request y 0x05 (leBytes 1 x)
    (t.1, b.2 ++ [(y, t.2)])) (m, [])
  let keys := (m.pairIn x).stages.map Stage.key
  let mine := if x = m.own then [] else [(x, m.own, keys)]
  (r.1, { a with cur := x, left := r.2, segs := [], got := a.got ++ mine, began := m.tick })

/-- Keys of a member's stages that every replying holder of their stripe that takes part in protection holds (R99). -/
def Mod.promoted (m : Mod) (g : GMap) (a : StageAsk) (x : Nat) : List (Nat × Nat) :=
  let got := a.got.filter fun e => e.1 = x
  let keys := (got.flatMap fun e => e.2.2).foldl (fun (l : List Nat) k => if l.contains k then l else l ++ [k]) []
  (keys.filter fun k =>
    let line := k % 2 ^ 30
    match GMap.deltaSource g x (decide (2 ^ 31 ≤ k)) with
    | none => false
    | some i =>
      let hs := ((holdersOf (m.geoOf g (line / 64)) i (line / 64)).map fun h => h.2.1).filter fun y =>
        g.stOf y = mbActive && !(a.marks.any fun e => e.1 = y)
      let said := got.filter fun e => hs.contains e.2.1
      said != [] && said.all fun e => e.2.2.contains k).map fun k => (x, k)

/-- The member to be asked about after `cur`: none once every mark has been. -/
def nextMark (marks : List (Nat × Nat)) (cur : Nat) : Option Nat :=
  (((marks.dropWhile fun e => e.1 != cur).drop 1).head?).map Prod.fst

/-- Every answer about a member is in: the next mark's stages are asked for, or the change is proposed with its promote list. -/
def Mod.stagesIn (m : Mod) : Mod := match m.grp.map, m.grp.ask with
  | some g, some a =>
    if a.left != [] then m else
    match nextMark a.marks a.cur with
    | some x =>
      let r := m.askStages g a x
      { r.1 with grp := { r.1.grp with ask := some r.2 } }
    | none =>
      let m := { m with grp := { m.grp with ask := none } }
      m.propose g a.req (m.nextMap g a.req a.marks (a.marks.flatMap fun e => m.promoted g a e.1))
  | _, _ => m

/-! ## The queue -/

/-- A change starts: marks collect stages first, others are proposed at once. -/
def Mod.beginReq (m : Mod) (g : GMap) (req : ChangeReq) : Mod := match req with
  | .mark x st =>
    let a0 : StageAsk := { req := req, marks := [(x, st)], cur := x, left := [], segs := [], got := [], began := m.tick }
    let r := m.askStages g a0 x
    ({ r.1 with grp := { r.1.grp with ask := some r.2 } }).stagesIn
  | _ => m.propose g req (m.nextMap g req [] [])

/-- The first change of the queue whose turn it is; changes with nothing left to do fall out. -/
def pickReq (g : GMap) (keeper : Bool) : List ChangeReq → List ChangeReq → Option (ChangeReq × List ChangeReq)
  | _, [] => none
  | before, r :: t => if (keeper || keeperReq r) && !reqWaits g r then some (r, before ++ t) else pickReq g keeper (before ++ [r]) t

/-- The keeper starts the next change when none is under way (R81, R109). -/
def Mod.pump (m : Mod) : Mod := match m.grp.map with
  | none => m
  | some g =>
    if m.grp.prop.isSome || m.grp.ask.isSome || m.grp.claim.isSome then m else
    let bad := m.aux.queue.filter fun r => !reqValid g r
    let m := { m with aux := { m.aux with queue := m.aux.queue.filter fun r => reqValid g r } }
    let m := bad.foldl (fun (a : Mod) r => a.failReq r .invalidInput) m
    match pickReq g (g.keeper = m.own) [] m.aux.queue with
    | none => m
    | some (r, rest) => ({ m with aux := { m.aux with queue := rest } }).beginReq g r

/-- A change joins the keeper's queue once, and starts if its turn has come. -/
def Mod.want (m : Mod) (req : ChangeReq) : Mod :=
  let dup := m.aux.queue.contains req || (m.grp.prop.any fun (p : Proposal) => p.req = req) || (m.grp.ask.any fun (a : StageAsk) => a.req = req)
  (if dup then m else { m with aux := { m.aux with queue := m.aux.queue ++ [req] } }).pump

/-! ## After a map is adopted -/

/-- The keeper's next step of a re-stripe (R112): RESTRIPE_STEP to every other member and this module's own part, or its end. -/
def Mod.restripeNext (m : Mod) (g : GMap) : Mod :=
  let b := m.aux.restripeB
  let m := m.progress pgGrp 1 (b * 10000 / g.units) b
  if g.units ≤ b then m.want .restriped
  else
    let b' := min g.units (b + Nat.lcm g.k g.tk)
    let r := ((upto g.n).filter fun x => x != m.own).foldl (fun (a : Mod × List (Nat × Nat)) x =>
      let t := a.1.request x 0x09 (leBytes 4 b')
      (t.1, a.2 ++ [(x, t.2)])) (m, [])
    let m := ({ r.1 with aux := { r.1.aux with stepLeft := r.2 } }).stepBegin g b' none
    match m.aux.step with
    | some st => if st.asked = [] then m.stepDone g st else m
    | none => m

/-- The keeper goes on with a running re-stripe: it starts or resumes, or its step has been answered by every member. -/
def Mod.restripeGo (m : Mod) : Mod := match m.grp.map with
  | none => m
  | some g =>
    if g.keeper != m.own || !g.restripe || !allActive g || m.grp.prop.isSome || m.aux.stepLeft != [] then m else
    match m.aux.step with
    | none => m.restripeNext g
    | some st => if st.b = m.aux.restripeB && st.asked = [] then m.restripeNext g else m

/-- A fence for want of a majority lifts once a majority is reached and the newest map shows this module ACTIVE (R85). -/
def Mod.liftQuorum (m : Mod) : Mod := match m.grp.map with
  | none => m
  | some g =>
    let heard := g.live.filter fun x => x = m.own || m.aux.fetched.contains x
    if m.fences.contains .quorum && m.majority && decide (g.live.length < 2 * heard.length) && g.stOf m.own = mbActive
    then m.unfence .quorum else m

/-- Deltas of a restored ledger that are still unacknowledged. -/
def Mod.ledgerLeft (m : Mod) : List (Nat × Nat) :=
  m.aux.ledger.filter fun e => (m.pairOut e.1).unacked.any fun d => d.seq = e.2

/-- A restored module is reconciled (R411): every map has been asked for, its ledger is acknowledged, absent lines are back. A saved
walk goes on. -/
def Mod.reconciled (m : Mod) : Mod :=
  if !m.aux.reconciling || m.aux.rejoin != [] then m else
  let l := m.ledgerLeft
  let m := { m with aux := { m.aux with ledger := l } }
  if l != [] || m.grp.absent != [] then m
  else
    let m := { m with aux := { m.aux with reconciling := false } }
    let m := (m.showVlt.set pgVlt VltF.reconciled 1).raise pgVlt 15 0
    if m.grp.walk.isSome then m.walkBlock else m

/-- A MEMBER_REPORT of this module: to the keeper, or taken at once by the keeper itself. -/
def Mod.reportTo (m : Mod) (g : GMap) (x reason : Nat) : Mod := (m.request g.keeper 0x06 (leBytes 1 x ++ leBytes 1 reason)).1

/-- The keeper takes a report (R100, R101, R111, R411). -/
def Mod.takeReport (m : Mod) (g : GMap) (frm x reason : Nat) : Mod :=
  let on := m.get pgGrp GrpF.lossMs != 0
  if reason = 1 || reason = 2 then
    let m := { m with grp := { m.grp with reports := m.grp.reports.filter fun r => r != (frm, x) } }
    if on && takesDeltas (g.stOf x) then m.want (.mark x mbStale) else m
  else if reason = 3 then (if frm = x && g.stOf x = mbActive then m.want (.recompute x) else m)
  else if reason = 4 then
    if g.stOf x != mbStale then m else
    let m := { m with grp := { m.grp with reports := (m.grp.reports.filter fun r => r != (frm, x)) ++ [(frm, x)] } }
    if on && g.live.all (fun y => y = x || m.grp.reports.contains (y, x)) then m.want (.back x) else m
  else m

/-- This module reports a member. -/
def Mod.report (m : Mod) (x reason : Nat) : Mod := match m.grp.map with
  | none => m
  | some g => if g.keeper = m.own then m.takeReport g m.own x reason else m.reportTo g x reason

/-- A restored module that has every map finds how it stands (R411, R460): ACTIVE, it lifts the fence of start-up, reconstructs absent
lines and reports parity to recompute; marked, it stays fenced. -/
def Mod.rejoined (m : Mod) : Mod := match m.grp.map with
  | none => m
  | some g =>
    if m.aux.rejoin != [] || !m.fences.contains .startup || !m.restored then m else
    let st := g.stOf m.own
    if st = mbStale || st = mbLost then (m.fenceGroup .marked).unfence .startup
    else
      let m := m.unfence .startup
      let m := m.grp.absent.foldl (fun (a : Mod) l => match a.extAt (l * 64) with
        | some (_, e) =>
          let r := a.reconLine (.line l) l e
          if r.2 then r.1 else r.1.reconFor (.line l) none
        | none => { a with grp := { a.grp with absent := a.grp.absent.filter fun x => x != l } }) m
      if m.aux.resyncUnits != [] && st = mbActive then m.report m.own 3 else m

/-- What follows the adoption of a map: a keeper that lost its role drops its changes; fences, rejoining and the queue go on. -/
def Mod.afterMap (m : Mod) : Mod :=
  let m := match m.grp.map with
    | some g => if g.keeper != m.own && m.grp.claim.isNone && !(m.aux.queue.any keeperReq) && !(m.grp.prop.any fun (p : Proposal) => keeperReq p.req) then
        let m : Mod := { m with grp := { m.grp with prop := none, ask := none, reports := [] }, aux := { m.aux with queue := [] } }
        m
      else m
    | none => m
  (((m.liftQuorum.rejoined).reconciled).pump).restripeGo

/-- The change commits (R81, steps 3 and 4): MAP_COMMIT leaves for the others and this module adopts the map. -/
def Mod.commitProp (m : Mod) (p : Proposal) : Mod :=
  let dst := match m.grp.map with
    | some g => proposeTo g p.map m.own
    | none => (upto p.map.n).filter fun x => p.map.idOf x != m.grp.ownId
  let m := dst.foldl (fun (a : Mod) x => (a.requestTo (p.map.idOf x) 0x02 (leBytes 8 p.map.gen)).1) m
  let m := (m.setProp none).adopt p.map
  m.afterMap

/-- A proposal with enough acceptances commits. -/
def Mod.tryCommit (m : Mod) : Mod := match m.grp.prop with
  | some p => if enough m.grp.map p then m.commitProp p else m
  | none => m

/-! ## Formation (R115) -/

/-- This module may accept the formation its own GRP_FORM carried: every other member is reached and its pool holds the parity store. -/
def Mod.formReady (m : Mod) (g : GMap) : Bool :=
  ((upto g.n).all fun x => g.idOf x = m.grp.ownId || m.reachId (g.idOf x)) && (m.allocRuns (parityUnits g.units g.k g.m)).isSome

/-- A formation proposal that waits is accepted once it can be (R115): at another member, or by member 0 for itself. -/
def Mod.tryForm (m : Mod) : Mod := match m.grp.map, m.grp.form with
  | none, some (_, g, _) =>
    if !m.formReady g then m else
    let take := fun (a : Mod) => { a with grp := { a.grp with accepted := some g, highTerm := max a.grp.highTerm g.term } }
    let m := match m.aux.heldPropose with
      | some (frm, tag, p) =>
        let m : Mod := { m with aux := { m.aux with heldPropose := none } }
        if p = g then (take m).respond frm 0x01 tag .ok [] else m.respond frm 0x01 tag .refused []
      | none => m
    match m.grp.prop with
    | some p => if p.req = .form && p.map = g && !p.acks.contains 0 then
        ((take m).setProp (some { p with acks := p.acks ++ [0] })).tryCommit
      else m
    | none => m
  | _, _ => m

end Sys2Proof.Machine
end

