-- ==== Sys2Proof/Machine/Members.lean ====
section
/-!
DEFINITION. Machine/Members.lean: the messages by which a group changes its map (R81 to R86, R99, R100), bounces (R84), mirrored
windows (R105), the answers to holds (R107), and the steps of rebuild, resync and re-stripe (R110 to R112).
-/
namespace Sys2Proof.Machine

open Host

/-! ## Proposals and commits -/

/-- The map in force is the one proposed, but for its term: another keeper proposed it before (R82). -/
def Mod.holdsMap (m : Mod) (map : GMap) : Bool := match m.grp.map with
  | some g => decide ({ g with term := map.term } = map)
  | none => false

/-- A different proposal with the same term and base was accepted (R82). -/
def Mod.acceptedOther (m : Mod) (term base : Nat) (map : GMap) : Bool := match m.grp.accepted with
  | some p => p.term = term && p.gen = base + 1 && p != map
  | none => false

/-- A replacement in no group accepts the proposal that names it REBUILDING, if its durable extents and its pool fit (R87, R110, log
entry 33). -/
def Mod.mayReplace (m : Mod) (map : GMap) : Bool :=
  m.grp.map.isNone && m.grp.form.isNone &&
  (map.members.any fun y => y.id = Config.moduleId.toNat && y.st = mbRebuilding) &&
  m.fab.extents.all (fun e => match e.2.stripe with
    | some s => decide (s * 512 + e.2.size / 4096 ≤ map.units)
    | none => true) &&
  (m.allocRuns (parityUnits map.units map.k map.m)).isSome

/-- A proposal is recorded as accepted, its term as the highest seen (R82). -/
def Mod.acceptMap (m : Mod) (term : Nat) (map : GMap) : Mod :=
  { m with grp := { m.grp with accepted := some map, highTerm := max m.grp.highTerm term } }

/-- MAP_PROPOSE: R82. A formation waits until it can be accepted (R115); a dissolution is refused while a durable extent is held. -/
def execMapPropose (frm tag term base : Nat) (map : GMap) (s : State) : Outcome State Fault Refusal :=
  s.onM fun m => if !m.runs then m else
    if m.holdsMap map && map.gen = base + 1 then
      ({ m with grp := { m.grp with highTerm := max m.grp.highTerm term } }).respond frm 0x01 tag .ok []
    else if term < m.grp.highTerm || m.acceptedOther term base map then m.respond frm 0x01 tag .refused []
    else if m.grp.map.isNone && base = 0 && map.gen = 1 then
      (match m.grp.form with
       | some _ => ({ m with aux := { m.aux with heldPropose := some (frm, tag, map) } }).tryForm
       | none => { m with aux := { m.aux with heldPropose := some (frm, tag, map) } })
    else if m.mayReplace map then
      let own := Config.moduleId.toNat
      let m := (m.acceptMap term map)
      ({ m with grp := { m.grp with ownId := own } }).respond frm 0x01 tag .ok []
    else if base != m.mapGen || m.grp.map.isNone then m.respond frm 0x01 tag .refused []
    else if map.dissolve && m.durables != [] then m.respond frm 0x01 tag .busy []
    else (m.acceptMap term map).respond frm 0x01 tag .ok []

/-- Member index and tag of an answer to a proposal: a replacement's bundle is known by the new map (R110). -/
def Mod.proposeAnswered (m : Mod) (frm tag : Nat) : Mod × Bool := match m.grp.prop with
  | none => ((m.answered frm tag).1, false)
  | some p =>
    let id := p.map.idOf frm
    let b := m.bundle id
    let m := m.setBundle id { b with reqs := b.reqs.filter fun q => q.tag != tag }
    (m.setProp (some { p with tags := p.tags.filter fun e => e != (frm, tag) }), p.tags.contains (frm, tag))

/-- MAP_ACCEPT: an acceptance counts, and the change commits once a majority has accepted (R81, step 3); a replacement that refuses ends
its change, and a member that refuses a dissolution refuses it for all (R115). -/
def execMapAccept (frm tag : Nat) (st : RspSt) (s : State) : Outcome State Fault Refusal :=
  s.onM fun m => if !m.runs then m else
    let r := m.proposeAnswered frm tag
    let m := r.1
    match m.grp.prop with
    | none => m
    | some p =>
      if !r.2 then m
      else if st = .ok then
        let p := { p with acks := p.acks ++ [frm] }
        if p.first = some frm then match m.grp.map with
          | some g =>
            let t := m.sendProposal p.map ((proposeTo g p.map m.own).filter fun x => x != frm)
            (t.1.setProp (some { p with first := none, tags := t.2 })).tryCommit
          | none => m
        else (m.setProp (some p)).tryCommit
      else if p.first = some frm then
        (({ m with grp := { m.grp with prop := none, accepted := none } }).failReq p.req .invalidInput).pump
      else if p.req = .dissolve then (((m.setProp none).failReq p.req .busy)).pump
      else m

/-- MAP_COMMIT: the accepted map of that generation is adopted; one that this module missed is fetched (R81, step 4). -/
def execMapCommit (frm tag gen : Nat) (s : State) : Outcome State Fault Refusal :=
  s.onM fun m => if !m.runs then m else
    let m := m.respond frm 0x02 tag .ok []
    if gen ≤ m.mapGen then m
    else match m.grp.accepted with
    | some p => if p.gen = gen then (m.adopt p).afterMap else (m.request frm 0x03 []).1
    | none => (m.request frm 0x03 []).1

/-- MAP_FETCH: the map in force goes back in segments (R84). -/
def execMapFetch (frm tag : Nat) (s : State) : Outcome State Fault Refusal :=
  s.onM fun m => if !m.runs then m else match m.grp.map with
    | some g => m.respondSegs frm 0x03 tag (segments 4096 (mapBody g))
    | none => m.respond frm 0x03 tag .invalid []

/-- A bounced message is sent again under the map in force, unless its destination no longer takes part in protection (R84). -/
def Mod.resend (m : Mod) (x : Nat) (g : Msg) : Mod := match m.grp.map with
  | none => m
  | some map =>
    let goes := if g.cls = 2 then takesDeltas (map.stOf x) else map.stOf x != mbLost
    if goes then m.sendMember x g else m

/-- MAP_FETCH_RSP: a newer map is adopted, the messages that awaited it are resolved again (R84), and fences that waited for the newest
map lift (R85, R411). -/
def execMapFetchRsp (frm tag : Nat) (map : GMap) (s : State) : Outcome State Fault Refusal :=
  s.onM fun m => if !m.runs then m else
    let m := (m.answered frm tag).1
    let id := m.idOf frm
    let mine := map.members.any fun y => y.id = m.grp.ownId
    let m := match m.grp.map with
      | some g => if map.groupId = g.groupId then m.adopt map else m
      | none => if mine then m.adopt map else m
    let m : Mod := { m with aux := { m.aux with fetched := if m.aux.fetched.contains frm then m.aux.fetched else m.aux.fetched ++ [frm],
                                                rejoin := m.aux.rejoin.filter fun x => x != frm } }
    let b := m.bundle id
    let m := m.setBundle id { b with bounced := b.bounced.filter fun e => !e.2.1 }
    let m := (b.bounced.filter fun e => e.2.1).foldl (fun (a : Mod) e => a.resend frm e.2.2) m
    m.afterMap

/-! ## A new keeper -/

/-- Acceptances of a term and not yet committed are what a claim's reply carries (R83). -/
def Mod.openAccepted (m : Mod) : Option GMap := match m.grp.accepted with
  | some p => if m.mapGen < p.gen then some p else none
  | none => none

/-- MAP_CLAIM: the new term is taken, and an accepted proposal not yet committed goes back (R83). -/
def execMapClaim (frm tag term : Nat) (s : State) : Outcome State Fault Refusal :=
  s.onM fun m => if !m.runs then m else
    if term < m.grp.highTerm then m.respond frm 0x04 tag .refused []
    else
      let m := { m with grp := { m.grp with highTerm := term } }
      match m.openAccepted with
      | some p => m.respondSegs frm 0x04 tag (segments 4096 (mapBody p))
      | none => m.respond frm 0x04 tag .ok []

/-- The accepted proposal of highest term among the replies to a claim. -/
def bestAccepted (l : List (Nat × Option GMap)) : Option GMap :=
  l.foldl (fun (a : Option GMap) e => match a, e.2 with
    | none, x => x
    | some g, some h => if g.term < h.term then some h else some g
    | some g, none => some g) none

/-- Replies from more than half of the members are in (R83, step 3): the accepted proposal of highest term is made again, and then the
change that names this module keeper. -/
def Mod.claimIn (m : Mod) : Mod := match m.grp.map, m.grp.claim with
  | some g, some c =>
    if 2 * c.got.length ≤ g.n then m else
    let again := match bestAccepted c.got with
      | some p => if p.gen = g.gen + 1 then [ChangeReq.again { p with term := c.term }] else []
      | none => []
    let m : Mod := { m with grp := { m.grp with claim := none, prop := none, ask := none },
                            aux := { m.aux with queue := again ++ [.keeper c.term] ++ m.aux.queue.filter fun r => !keeperReq r } }
    m.pump
  | _, _ => m

/-- MAP_CLAIM_RSP: R83. -/
def execMapClaimRsp (frm tag : Nat) (acc : Option GMap) (s : State) : Outcome State Fault Refusal :=
  s.onM fun m => if !m.runs then m else
    let r := m.answered frm tag
    match r.2, r.1.grp.claim with
    | some _, some c =>
      if c.got.any fun e => e.1 = frm then r.1
      else ({ r.1 with grp := { r.1.grp with claim := some { c with got := c.got ++ [(frm, acc)] } } }).claimIn
    | _, _ => r.1

/-! ## Stages and reports -/

/-- Entries of a stage segment (R135). -/
def stageBytes (l : List Stage) : List Byte := l.flatMap fun s => leBytes 4 s.key ++ leBytes 4 s.seq

/-- STAGE_QUERY: the stages held from a member go back in segments of 512 entries (R99, R135). -/
def execStageQuery (frm tag x : Nat) (s : State) : Outcome State Fault Refusal :=
  s.onM fun m => if !m.runs then m else m.respondSegs frm 0x05 tag (segments 4096 (stageBytes (m.pairIn x).stages))

/-- STAGE_QUERY_RSP: an answer is complete once every segment is in; the change goes on once every answer is (R99). -/
def execStageQueryRsp (frm tag seg count : Nat) (keys : List Nat) (s : State) : Outcome State Fault Refusal :=
  s.onM fun m => if !m.runs then m else match m.grp.ask with
    | none => (m.answered frm tag).1
    | some a =>
      if !(a.left.contains (frm, tag)) then m else
      let segs := if a.segs.any fun e => e.1 = frm && e.2.1 = seg then a.segs else a.segs ++ [(frm, seg, count, keys)]
      let mine := segs.filter fun e => e.1 = frm
      if mine.length < count then { m with grp := { m.grp with ask := some { a with segs := segs } } }
      else
        let m := (m.answered frm tag).1
        let a := { a with segs := segs.filter fun e => e.1 != frm, left := a.left.filter fun e => e.1 != frm,
                          got := a.got ++ [(a.cur, frm, mine.flatMap fun e => e.2.2.2)] }
        ({ m with grp := { m.grp with ask := some a } }).stagesIn

/-- STAGE_QUERY_TIMEOUT: after 1 ms, members that have not replied are marked STALE in the same map (R99). -/
def execStageQueryTimeout (s : State) : Outcome State Fault Refusal :=
  s.onM fun m => if !m.runs then m else match m.grp.map, m.grp.ask with
    | some g, some a =>
      if a.left = [] then m else
      let m := m.until_ (a.began + ms)
      let late := (a.left.map Prod.fst).filter fun y => takesDeltas (g.stOf y) && !(a.marks.any fun e => e.1 = y)
      let a := { a with left := [], segs := [], marks := a.marks ++ late.map fun y => (y, mbStale) }
      ({ m with grp := { m.grp with ask := some a } }).stagesIn
    | _, _ => m

/-- MEMBER_REPORT: R100, R101, R111, R411. A module that is not the keeper takes no report. -/
def execMemberReport (frm tag x reason : Nat) (s : State) : Outcome State Fault Refusal :=
  s.onM fun m => if !m.runs then m else match m.grp.map with
    | none => m.respond frm 0x06 tag .invalid []
    | some g =>
      if g.keeper = m.own then (m.respond frm 0x06 tag .ok []).takeReport g frm x reason
      else m.respond frm 0x06 tag .refused []

/-- PEER_LOSS_TIMEOUT: a member unreachable for GRP_LOSS_TIME is reported to the keeper (R100). -/
def execPeerLossTimeout (x : Nat) (s : State) : Outcome State Fault Refusal :=
  s.onM fun m => if !m.runs then m else match m.grp.map, mapGet m.grp.downAt x with
    | some g, some t =>
      let loss := m.get pgGrp GrpF.lossMs
      if loss = 0 || m.reaches x || g.n ≤ x || g.stOf x = mbLost then m
      else (m.until_ (t + loss * ms)).report x 1
    | _, _ => m

/-- A number in its place of a rising list. -/
def insertNat (n : Nat) (l : List Nat) : List Nat := (l.filter fun x => decide (x ≤ n)) ++ [n] ++ l.filter fun x => decide (n < x)

/-- When the majority was lost: the tick at which the member went down that left half or fewer. -/
def Mod.majorityLostAt (m : Mod) (g : GMap) : Option Nat :=
  let downs := (g.live.filter fun x => !m.reaches x).map fun x => mapGetD m.grp.downAt x m.tick
  ((downs.foldl (fun a t => insertNat t a) [])[(g.live.length + 1) / 2 - 1]?)

/-- QUORUM_TIMEOUT: a member without a majority for GRP_LOSS_TIME fences its durable extents (R85, R123). -/
def execQuorumTimeout (s : State) : Outcome State Fault Refusal :=
  s.onM fun m => if !m.runs then m else match m.grp.map with
    | none => m
    | some g =>
      let loss := m.get pgGrp GrpF.lossMs
      if loss = 0 || m.majority || m.fences.contains .quorum then m
      else match m.majorityLostAt g with
        | none => m
        | some t =>
          let m := m.until_ (t + loss * ms)
          let m : Mod := { m with aux := { m.aux with fetched := [] } }
          (m.fenceGroup .quorum).raise pgGrp 11 (m.grpDetail m.own)

/-! ## Bounces -/

/-- BOUNCE: a message that met another epoch waits for the newer map, or for 10 µs (R84). A bounced delta of this module is counted
(R124). -/
def execBounce (frm bseq gen : Nat) (s : State) : Outcome State Fault Refusal :=
  s.onM fun m => if !m.runs then m else
    let id := m.idOf frm
    let b := m.bundle id
    match mapGet b.sent bseq with
    | none => m
    | some g =>
      let newer := decide (m.mapGen < gen)
      let asked := b.bounced.any fun e => e.2.1
      let m := m.setBundle id { b with sent := mapDel b.sent bseq, bounced := b.bounced ++ [(bseq, newer, g)] }
      let m := if g.cls = 2 then m.add (pgPar (engineOf (bits (g.line % 2 ^ 30) 2 6))) ParF.bounced 1 else m
      if newer && !asked then (m.request frm 0x03 []).1 else m

/-- BOUNCE_RESEND_TIMER: 10 µs after the bounce of an older map, the message leaves again unchanged (R84). -/
def execBounceResendTimer (frm bseq : Nat) (s : State) : Outcome State Fault Refusal :=
  s.onM fun m => if !m.runs then m else
    let id := m.idOf frm
    let b := m.bundle id
    match b.bounced.find? fun e => e.1 = bseq && !e.2.1 with
    | none => m
    | some e => ((m.setBundle id { b with bounced := b.bounced.filter fun x => x.1 != bseq }).advance (10 * us)).sendMember frm e.2.2

/-! ## Answers to holds and reads (R107, R112) -/

/-- An answer to a hold or a line read reaches whatever asked for it; what then has everything goes on. -/
def Mod.holdAnswer (m : Mod) (frm tag : Nat) (res : Option (List Byte)) : Mod :=
  let m := (m.answered frm tag).1
  let m := ((m.reconAnswer frm tag res).walkAnswer frm tag res).stepAnswer frm tag res
  m.reconciled.restripeGo

/-- STRIPE_HOLD_RSP: the held line, or a refusal (R107); a stand-in without a unit of the stripe answers OK alone (log entry 30). -/
def execStripeHoldRsp (frm tag : Nat) (st : RspSt) (data : List Byte) (s : State) : Outcome State Fault Refusal :=
  s.onM fun m => m.when m.runs fun m => m.holdAnswer frm tag (if st = .ok then some data else none)

/-- UNIT_DATA: the data of a unit held whole (R107). -/
def execUnitData (frm tag : Nat) (data : List Byte) (s : State) : Outcome State Fault Refusal :=
  s.onM fun m => m.when m.runs fun m => m.holdAnswer frm tag (some data)

/-- LINE_READ_RSP: a parity line, or a refusal (R80, R108). -/
def execLineReadRsp (frm tag : Nat) (st : RspSt) (data : List Byte) (s : State) : Outcome State Fault Refusal :=
  s.onM fun m => m.when m.runs fun m => m.holdAnswer frm tag (if st = .ok then some data else none)

/-! ## Mirrored windows (R105) -/

/-- A replacement installs a window of its index. -/
def Mod.installWindow (m : Mod) (e : WinEntry) (st : Nat) : Mod := match winStOf st with
  | some w =>
    let x : Window := { entry := e, st := w, epoch := 0, degraded := false, lastSeq := 0, stopsDone := 0 }
    { m with led := { m.led with wins := mapPut m.led.wins e.id x } }
  | none => { m with led := { m.led with wins := mapDel m.led.wins e.id } }

/-- WINDOW_MIRROR: the entry is recorded for its owner, a FREE one removed; a replacement installs what is its own index's (R105). -/
def execWindowMirror (frm tag : Nat) (e : WinEntry) (st owner : Nat) (s : State) : Outcome State Fault Refusal :=
  s.onM fun m => if !m.runs then m else
    let m := if owner = m.own then m.installWindow e st
      else
        let rest := m.led.mirrors.filter fun r => !(r.owner = owner && r.entry.id = e.id)
        let row : Mirror := { owner := owner, entry := e, st := st }
        { m with led := { m.led with mirrors := if st = 0 then rest else rest ++ [row] } }
    m.respond frm 0x0B tag .ok []

/-- WINDOW_MIRROR_RSP: once every member has answered, JW_SET or JW_DELETE completes (R105). -/
def execWindowMirrorRsp (frm tag : Nat) (_st : RspSt) (s : State) : Outcome State Fault Refusal :=
  s.onM fun m => if !m.runs then m else
    let m := (m.answered frm tag).1
    let ws := m.led.mirrorWaits.map fun w => { w with left := w.left.filter fun (l : Nat × Nat) => l != (frm, tag) }
    let done := ws.filter fun w => w.left.isEmpty
    let m := { m with led := { m.led with mirrorWaits := ws.filter fun w => !w.left.isEmpty } }
    done.foldl (fun (a : Mod) w => (if w.del then a.bgDone w.via else a).reply w.via .success []) m

/-! ## Steps of a walk (R110, R111) -/

/-- REBUILD_STEP: the boundary of a rebuilding or resyncing member is adopted and answered; the keeper commits the member ACTIVE after
its last block (R80, R110). -/
def execRebuildStep (frm tag kind q : Nat) (s : State) : Outcome State Fault Refusal :=
  s.onM fun m => if !m.runs then m else match m.grp.map with
    | none => m.respond frm 0x0E tag .invalid []
    | some g =>
      if !(g.stOf frm = mbRebuilding && kind = 1 || g.stOf frm = mbResync && kind = 2) then m.respond frm 0x0E tag .refused []
      else
        let m := { m with grp := { m.grp with bounds := mapPut m.grp.bounds frm (kind, q) } }
        let m := m.respond frm 0x0E tag .ok []
        if g.keeper = m.own && mapBlocks g ≤ q then m.want (.active frm) else m

/-- LAST_SEQ of this module's windows whose stop line lies in a block the rebuild has passed (R105). -/
def Mod.readOwnStops (m : Mod) (g : GMap) (q : Nat) : Mod :=
  let f := fun (w : Window) => match m.extAt w.entry.stopDpa with
    | some (_, e) =>
      let l := lineOf w.entry.stopDpa
      if decide (w.entry.id < 16384) && e.sourceLine l / 64 / g.k = q && w.stopsDone = 0 then { w with lastSeq := leAt (m.line l) 0 8 } else w
    | none => w
  { m with led := { m.led with wins := m.led.wins.map fun (w : Nat × Window) => (w.1, f w.2) } }

/-- The boundary advances (R110, steps 4 and 5): the holds are released and the next block begins, or the walk ends with OP_DONE and the
keeper is to commit this module ACTIVE (R113, R123). -/
def Mod.walkAdvance (m : Mod) : Mod := match m.grp.map, m.grp.walk with
  | some g, some w =>
    if !w.stepping || w.left != [] then m else
    let m := m.walkRelease w
    let m := if w.kind = .rebuild then m.readOwnStops g w.q else m
    let w' : Walk := { w with q := w.q + 1, stepping := false, left := [], held := [], asked := [], holds := [], bad := [] }
    let m := (m.setWalk w').walkProgress g w'
    if w'.q < mapBlocks g then m.walkBlock
    else
      let m := m.progress pgGrp (if w.failed then 3 else 0) 10000 w'.q
      let m := m.raise pgGrp 13 (m.grpDetail m.own)
      if g.keeper = m.own then m.want (.active m.own) else m
  | _, _ => m

/-- REBUILD_STEP_RSP: once every member has answered, the boundary advances (R110, step 4). -/
def execRebuildStepRsp (frm tag : Nat) (_st : RspSt) (s : State) : Outcome State Fault Refusal :=
  s.onM fun m => if !m.runs then m else
    let m := (m.answered frm tag).1
    match m.grp.walk with
    | none => m
    | some w => if w.left.contains (frm, tag) then (m.setWalk { w with left := w.left.filter fun l => l != (frm, tag) }).walkAdvance else m

/-- REBUILD_BLOCK_HELD: the block's units are reconstructed and computed, written, and the step goes out (R110). -/
def execRebuildBlockHeld (s : State) : Outcome State Fault Refusal :=
  s.onM fun m => m.when (m.runs && !m.aux.reconciling) fun m => (m.walkHeld .rebuild).walkAdvance

/-- RESYNC_BLOCK_HELD: the block's parity units are recomputed, written, and the step goes out (R111, R411). -/
def execResyncBlockHeld (s : State) : Outcome State Fault Refusal :=
  s.onM fun m => m.when (m.runs && !m.aux.reconciling) fun m => (m.walkHeld .resync).walkAdvance

/-! ## Steps of a re-stripe (R112) -/

/-- RESTRIPE_STEP: this module takes its holds; the keeper is answered once its new parity units are computed and B has advanced. A
step that B has reached is answered at once. -/
def execRestripeStep (frm tag b : Nat) (s : State) : Outcome State Fault Refusal :=
  s.onM fun m => if !m.runs then m else match m.grp.map with
    | none => m.respond frm 0x09 tag .invalid []
    | some g =>
      if !g.restripe || g.keeper != frm || g.units < b then m.respond frm 0x09 tag .refused []
      else if b ≤ m.aux.restripeB then m.respond frm 0x09 tag .ok []
      else
        let m := m.stepBegin g b (some (frm, tag))
        match m.aux.step with
        | some st => (if st.asked = [] then m.stepDone g st else m)
        | none => m

/-- RESTRIPE_STEP_RSP: once every member has answered, the next step starts, or the new geometry is committed (R112). -/
def execRestripeStepRsp (frm tag : Nat) (_st : RspSt) (s : State) : Outcome State Fault Refusal :=
  s.onM fun m => if !m.runs then m else
    let m := (m.answered frm tag).1
    ({ m with aux := { m.aux with stepLeft := m.aux.stepLeft.filter fun l => l != (frm, tag) } }).restripeGo

end Sys2Proof.Machine
end

