-- ==== Sys2Proof/Machine/GroupCmds.lean ====
section
/-!
DEFINITION. Machine/GroupCmds.lean: the mailbox commands that manage a group (R83, R102, R104, R106, R110 to R112, R115).
-/
namespace Sys2Proof.Machine

open Host

/-! ## Formation -/

/-- The map of a GRP_FORM is one a group may have (R76, R77, R87, R112): counts, distinct module IDs, the stripe space, generation and
term 1, every member ACTIVE. -/
def formOk (g : GMap) (own : Nat) : Bool :=
  let ids := g.members.map Member.id
  decide (3 ≤ g.n) && decide (g.n ≤ 16) && decide (2 ≤ g.k) && decide (g.k ≤ 14) && decide (1 ≤ g.m) && decide (g.m ≤ 4) && decide (g.k + g.m ≤ g.n) &&
  g.units % 512 = 0 && decide (0 < g.units) && decide (g.units ≤ 16777216) && g.gen = 1 && g.term = 1 && g.keeper = 0 && !g.restripe && !g.dissolve &&
  g.promote = [] && decide (own < g.n) && ids.all (fun i => i != 0 && decide (i < 0xFFFF)) && ids.eraseDups.length = ids.length &&
  g.members.all fun y => y.st = mbActive && y.standin.isNone

/-- Every durable extent lies below U in the stripe space (R87). -/
def Mod.extentsFit (m : Mod) (units : Nat) : Bool := m.fab.extents.all fun e => match e.2.stripe with
  | some s => e.2.adopted.isSome || decide (s * 512 + e.2.size / 4096 ≤ units)
  | none => true

/-- Member 0 proposes a formation to every member (R115). -/
def Mod.proposeForm (m : Mod) (g : GMap) : Mod :=
  let r := m.sendProposal g ((upto g.n).filter fun x => x != 0)
  r.1.setProp (some { map := g, req := .form, acks := [], tags := r.2, first := none, began := m.tick })

/-- GRP_FORM: the map is checked and kept until it is adopted; member 0 proposes it (R87, R115). -/
def execGrpForm (via : Via) (map : GMap) (own : Nat) (s : State) : Outcome State Fault Refusal :=
  s.onM fun m => m.onMailbox via fun m =>
    if m.grp.map.isSome || !formOk map own || !m.extentsFit map.units then m.reply via .invalidInput []
    else if m.grp.form.isSome then m.reply via .busy []
    else
      let m : Mod := { m with grp := { m.grp with form := some (via, map, m.tick), ownId := map.idOf own } }
      (if own = 0 then m.proposeForm map else m).tryForm

/-- GRP_FORM_TIMEOUT: 10 s after it arrived, a GRP_FORM whose map has not been adopted completes with Busy (R115). -/
def execGrpFormTimeout (s : State) : Outcome State Fault Refusal :=
  s.onM fun m => if !m.runs then m else match m.grp.map, m.grp.form with
    | none, some (via, _, t) =>
      let m := m.until_ (t + 10 * second)
      let m : Mod := { m with grp := { m.grp with form := none, prop := none }, aux := { m.aux with heldPropose := none } }
      m.reply via .busy []
    | _, _ => m

/-- GRP_MAP_GET: the map in force (R115); a module in no group has none to return. -/
def execGrpMapGet (via : Via) (s : State) : Outcome State Fault Refusal :=
  s.onM fun m => m.onMailbox via fun m => match m.grp.map with
    | some g => m.reply via .success (mapBody g)
    | none => m.reply via .invalidInput []

/-! ## Changes by command -/

/-- A command waits for the commit of its change (R115). -/
def Mod.waitCmd (m : Mod) (via : Via) (c : GroupCmd) : Mod := { m with aux := { m.aux with waits := m.aux.waits ++ [(via, c)] } }

/-- A checked command goes to the keeper: this module, or a member that is reached (R115); with the keeper unreachable it ends with
Busy. -/
def Mod.toKeeper (m : Mod) (g : GMap) (via : Via) (c : GroupCmd) (req : ChangeReq) : Mod :=
  if cmdDone g m.own c then m.reply via .success []
  else if g.keeper = m.own then (m.waitCmd via c).want req
  else if m.reaches g.keeper then (m.waitCmd via c).send (.forwardCmd g.keeper c)
  else m.reply via .busy []

/-- A command that changes the map: refused in no group. -/
def Mod.onGroup (m : Mod) (via : Via) (f : Mod → GMap → Mod) : Mod := m.onMailbox via fun m => match m.grp.map with
  | some g => f m g
  | none => m.reply via .invalidInput []

/-- GRP_MARK_LOST: R102. -/
def execGrpMarkLost (via : Via) (x : Nat) (s : State) : Outcome State Fault Refusal :=
  s.onM fun m => m.onGroup via fun m g =>
    if g.n ≤ x then m.reply via .invalidInput [] else m.toKeeper g via (.markLost x) (.mark x mbLost)

/-- GRP_STANDIN_SET: an ACTIVE member that stands in for no other, for a LOST member (R104). -/
def execGrpStandinSet (via : Via) (lost by_ : Nat) (s : State) : Outcome State Fault Refusal :=
  s.onM fun m => m.onGroup via fun m g =>
    if g.n ≤ lost || g.n ≤ by_ || g.stOf lost != mbLost || g.stOf by_ != mbActive || ((g.standsFor by_).any fun x => x != lost)
    then m.reply via .invalidInput []
    else m.toKeeper g via (.standinSet lost by_) (.standin lost (some by_))

/-- GRP_STANDIN_CLEAR: refused before the rebuild completes; the stand-in stops serving at once and drains, and the keeper clears the
assignment afterwards (R106, R115). -/
def execGrpStandinClear (via : Via) (lost : Nat) (s : State) : Outcome State Fault Refusal :=
  s.onM fun m => m.onGroup via fun m g => match (g.members[lost]?).bind Member.standin with
    | none => m.reply via .invalidInput []
    | some by_ =>
      if g.stOf lost != mbActive then m.reply via .invalidInput []
      else if by_ = m.own then (m.waitCmd via (.standinClear lost)) |> fun a => { a with grp := { a.grp with clearing := some (via, lost) } }
      else if m.reaches by_ then (m.waitCmd via (.standinClear lost)).send (.forwardCmd by_ (.standinClear lost))
      else m.reply via .busy []

/-- STANDIN_CLEAR_DRAINED: no full stop to an adopted window is held and every STANDIN delta is acknowledged: the keeper is to clear the
assignment (R106, steps 2 and 3). -/
def execStandinClearDrained (s : State) : Outcome State Fault Refusal :=
  s.onM fun m => if !m.runs then m else match m.grp.map, m.grp.clearing with
    | some g, some (_, lost) =>
      let held := m.led.stops.any fun st => decide (16384 ≤ st.win)
      let owed := m.grp.outs.any fun o => o.2.unacked.any fun d => d.standin
      if held || owed then m
      else if g.keeper = m.own then m.want (.standin lost none)
      else m.send (.forwardCmd g.keeper (.standinClear lost))
    | _, _ => m

/-- GRP_REPLACE: a replacement under a new module ID for a LOST member, or a STALE member's return under its own (R110, R111). -/
def execGrpReplace (via : Via) (x id : Nat) (s : State) : Outcome State Fault Refusal :=
  s.onM fun m => m.onGroup via fun m g =>
    if g.n ≤ x then m.reply via .invalidInput []
    else if g.idOf x = id then
      (if g.stOf x = mbStale then m.toKeeper g via (.replace x id) (.back x) else m.reply via .invalidInput [])
    else if g.stOf x = mbLost && id != 0 && decide (id < 0xFFFF) && !(g.members.any fun y => y.id = id)
    then m.toKeeper g via (.replace x id) (.replace x id)
    else m.reply via .invalidInput []

/-- GRP_RESTRIPE: refused unless the geometry fits N, no member is marked, and the pool holds both parity stores; behind a walk it is
queued (R109, R112, R114). -/
def execGrpRestripe (via : Via) (k mm : Nat) (s : State) : Outcome State Fault Refusal :=
  s.onM fun m => m.onGroup via fun m g =>
    if k < 2 || 14 < k || mm < 1 || 4 < mm || g.n < k + mm || g.restripe || (g.members.any fun y => y.st = mbStale || y.st = mbLost) ||
       (m.allocRuns (parityUnits g.units k mm)).isNone
    then m.reply via .invalidInput []
    else m.toKeeper g via (.restripe k mm) (.restripe k mm)

/-- GRP_KEEPER_SET: this member claims the next keeper term (R83). -/
def execGrpKeeperSet (via : Via) (s : State) : Outcome State Fault Refusal :=
  s.onM fun m => m.onGroup via fun m g =>
    if g.stOf m.own != mbActive then m.reply via .invalidInput []
    else
      let term := g.term + 1
      let m := m.waitCmd via .keeperSet
      let m := { m with grp := { m.grp with highTerm := max m.grp.highTerm term,
                                            claim := some { term := term, got := [(m.own, m.openAccepted)], via := via } } }
      (g.live.filter fun x => x != m.own).foldl (fun (a : Mod) x => (a.request x 0x04 (leBytes 2 term)).1) m

/-- GRP_DISSOLVE: the group named, none of whose members holds a durable extent (R115). -/
def execGrpDissolve (via : Via) (gid : Nat) (s : State) : Outcome State Fault Refusal :=
  s.onM fun m => m.onGroup via fun m g =>
    if gid != g.groupId then m.reply via .invalidInput []
    else if m.durables != [] then m.reply via .busy []
    else m.toKeeper g via .dissolve .dissolve

/-- GRP_DISSOLVE_TIMEOUT: a dissolution not accepted by every member within 1 ms ends with Busy (R115). -/
def execGrpDissolveTimeout (s : State) : Outcome State Fault Refusal :=
  s.onM fun m => if !m.runs then m else match m.grp.prop with
    | some p => if p.req = .dissolve then (((m.until_ (p.began + ms)).setProp none).failReq .dissolve .busy).pump else m
    | none => m

end Sys2Proof.Machine
end

