-- ==== Sys2Proof/Machine/Frames.lean ====
section
/-!
DEFINITION. Machine/Frames.lean: Berfel frames (R128 to R131), messages as bytes (R132, R133), packing with credit (R131, R139, R140),
runs under AES-256-GCM (R150), replay (R143, R145), BULK compression (R152).
-/
namespace Sys2Proof.Machine

/-! ## The frame -/

/-- Payload bytes of a frame. -/
def framePayload : Nat := 234

/-- Frame types (R129). -/
def tyData : Nat := 0
def tyCtl : Nat := 1
def tyIdle : Nat := 2
def tyMark : Nat := 3

/-- The link header word (R129). -/
def linkWord (fseq ack ty : Nat) (nak : Bool) (keygen first fill : Nat) : Nat :=
  fseq % 2 ^ 20 + ack % 2 ^ 20 * 2 ^ 20 + ty * 2 ^ 40 + b2n nak * 2 ^ 42 + keygen * 2 ^ 43 + first * 2 ^ 44 + fill * 2 ^ 52

/-- Bytes of an interleave of a frame's first `n` bytes (R130). -/
def interleave (bs : List Byte) (i n : Nat) : List Nat := ((upto n).filter fun b => b % 3 = i).map fun b => (bs.getD b 0#8).toNat

/-- A frame's 256 bytes: header, payload, CRC, and the check bytes of the three interleaves (R128, R130). -/
def frameRaw (word : Nat) (payload : List Byte) : List Byte :=
  let b := leBytes 8 word ++ payload ++ zeros (framePayload - payload.length)
  let b := b ++ leBytes 8 (crc64 0 b)
  let c := fun i => (rsCheck 0 2 (interleave b i 250)).map (BitVec.ofNat 8)
  let at_ := fun i k => (c i).getD k 0#8
  b ++ [at_ 1 0, at_ 2 0, at_ 0 0, at_ 1 1, at_ 2 1, at_ 0 1]

/-- A received frame corrected by up to one byte in each interleave (R130), and whether a byte was. -/
def fecFrame (raw : List Byte) : List Byte × Bool :=
  let w := (upto 3).map fun i => fecCorrect (interleave raw i 256)
  let out := (upto 256).map fun b => BitVec.ofNat 8 (((w.getD (b % 3) ([], false)).1).getD (b / 3) 0)
  (out, w.any Prod.snd)

/-- The frame passes its CRC. -/
def frameGood (bs : List Byte) : Bool := decide (leAt bs 242 8 = crc64 0 (bs.take 242))

/-! ## Messages as bytes -/

/-- CLASS of a message (R132). -/
def clsReq : Nat := 0
def clsRsp : Nat := 1
def clsDelta : Nat := 2
def clsBulk : Nat := 4

/-- A message's bytes under its BSEQ, the group epoch and the sender's module ID (R132, R133). -/
def msgBytes (bseq epoch src : Nat) (g : Msg) : List Byte :=
  leBytes 4 bseq ++ leBytes 2 epoch ++ leBytes 2 src ++
  (if g.cls = clsDelta then leBytes 1 (2 + g.op * 8) ++ leBytes 3 g.dseq ++ leBytes 4 g.line
   else leBytes 1 (g.cls + g.flags * 8) ++ leBytes 1 g.op ++ leBytes 2 g.body.length ++ leBytes 4 g.param) ++ g.body

/-- Class of a message's bytes. -/
def msgCls (w : List Byte) : Nat := leAt w 8 1 % 8

/-- OPCODE of a message's bytes. -/
def msgOp (w : List Byte) : Nat := leAt w 9 1

/-- How long the message is that a header begins (R138). -/
def msgLen (w : List Byte) : Nat :=
  if msgCls w = clsDelta then (if leAt w 8 1 / 8 % 4 = 3 then 16 else 80) else 16 + leAt w 10 2

/-- The port runs AES-256-GCM (R157). -/
def Mod.gcm (m : Mod) (n : Nat) : Bool := m.is (pgPrt n) PrtF.peerGcmEn

/-- Ports of a bundle in engine order, and whether BULK compression is enabled for it: the lowest port's setting (R152). -/
def Mod.bulkOn (m : Mod) (id : Nat) : Bool := match (m.bundlePorts id).head? with
  | some n => m.is (pgPrt n) PrtF.peerBulkCompress
  | none => false

/-- A BULK message at the moment it takes its BSEQ (R152): its data compressed against the bundle's history unless the block would
exceed 4,096 B; HISTORY_RESET on the first after a reset. -/
def Bundle.bulkOut (b : Bundle) (g : Msg) : Msg × Bundle :=
  let data := g.body.drop 16
  let blk := (compressBlock b.txHist true false data).1
  let packed := decide (blk.length ≤ 4096)
  ({ g with flags := b2n packed + 2 * b2n b.histReset, body := g.body.take 16 ++ if packed then blk else data },
   { b with txHist := histAdd b.txHist data, histReset := false })

/-- The lexicon engine that compressed a BULK message's data counts the block (R290). -/
def Mod.bulkCount (m : Mod) (b : Bundle) (g : Msg) : Mod :=
  let c := compressBlock b.txHist true false (g.body.drop 16)
  m.lexCountC (m.lexEngine 1) 1 (g.body.length - 16) c.1.length c.2

/-! ## Status -/

/-- The status prefix for a port (R136): the limits granted on it, and A for deltas from its peer. -/
def Mod.statusPrefix (m : Mod) (n : Nat) : List Byte :=
  let p := m.pp n
  let a := match p.peer.bind fun id => m.indexOf id with
    | some x => (m.pairIn x).a
    | none => 0xFFFFFFFF
  (p.grant.flatMap fun l => leBytes 4 l) ++ leBytes 4 a

/-- A port-level CTL message, outside the bundle's sequence (log entry 36). -/
def Mod.ctlMsg (m : Mod) (op : Nat) (body : List Byte) : List Byte := msgBytes 0 m.groupEpoch m.grp.ownId (mkMsg clsCtl op 0 body)

/-! ## Packing -/

/-- A frame being packed: payload so far, where the first header begins (0xFF none), messages with a byte in it, peer-tier slots whose
PAGE_PUT ends in it, and bytes of delta data begun. -/
structure Pack where
  bytes : List Byte
  first : Nat
  msgs : List (Nat × List Byte)
  puts : List Nat
  delta : Nat

/-- A frame with nothing in it. -/
def Pack.empty : Pack := { bytes := [], first := 0xFF, msgs := [], puts := [], delta := 0 }

/-- A PAGE_PUT's slot (R135). -/
def putSlot (w : List Byte) : List Nat := if msgCls w = clsBulk && msgOp w = 1 then [leAt w 16 8] else []

/-- Bytes of a message enter a frame; what is left of them stays with the port. `seq` is none for a port-level message. -/
def Pack.put (k : Pack) (seq : Option Nat) (whole left : List Byte) : Pack × Option (Nat × List Byte × List Byte) :=
  let room := framePayload - k.bytes.length
  let fresh := left.length = whole.length
  let rest := left.drop room
  let k' := { k with
    bytes := k.bytes ++ left.take room,
    first := if fresh && k.first = 0xFF then k.bytes.length else k.first,
    msgs := match seq with
      | some b => k.msgs ++ [(b, whole)]
      | none => k.msgs,
    puts := if rest = [] && seq.isSome then k.puts ++ putSlot whole else k.puts,
    delta := if fresh && seq.isSome && msgCls whole = clsDelta then k.delta + (whole.length - 16) else k.delta }
  (k', if rest = [] then none else some (seq.getD 0, whole, rest))

/-- Credits of a class are used. -/
def PeerPort.spend (p : PeerPort) (c n : Nat) : PeerPort := { p with used := p.used.set c ((p.used.getD c 0 + n) % 2 ^ 32) }

/-- A message of a class and cost may begin: on a GCM port one CTL credit is left for the run's MAC_TAG. -/
def Mod.mayBegin (m : Mod) (n cls len : Nat) : Bool :=
  (m.pp n).mayBegin (m.gcm n) cls len

/-- Bytes a run still takes before its MAC_TAG must go (R150): a run has 32 frames. -/
def Mod.runRoom (m : Mod) (n : Nat) (k : Pack) (len : Nat) : Bool := match m.gcm n, (m.pp n).runTx with
  | false, _ => true
  | true, none => decide (k.bytes.length + len + 56 + 55 ≤ 32 * framePayload)
  | true, some r => !r.closing && decide (k.bytes.length + len + 56 + 55 ≤ (32 - r.frames) * framePayload)

/-- The run takes no further message: it closes at this message boundary. -/
def Mod.closeRun (m : Mod) (n : Nat) : Mod := m.updPp n fun p => { p with runTx := p.runTx.map fun r => { r with closing := true } }

/-- The next message of the bundle that the port may begin, taken off it (R131, R140, R146, R147): returned ones first. -/
def Mod.nextMsg (m : Mod) (n id : Nat) (k : Pack) : Mod × Option (Nat × List Byte) :=
  let b := m.bundle id
  match b.returned with
  | (q, w) :: t =>
    if !m.mayBegin n (msgCls w) w.length then (m, none)
    else if !m.runRoom n k w.length then (m.closeRun n, none)
    else ((m.setBundle id { b with returned := t }).updPp n fun p => p.spend (msgCls w) (creditCost w.length), some (q, w))
  | [] => match b.queue with
    | [] => (m, none)
    | g :: t =>
      let z := if g.cls = clsBulk && m.bulkOn id then b.bulkOut g else (g, b)
      let w := msgBytes b.tx m.groupEpoch m.grp.ownId z.1
      if !m.mayBegin n g.cls w.length then (m, none)
      else if !m.runRoom n k w.length then (m.closeRun n, none)
      else
        let m := if g.cls = clsBulk && m.bulkOn id then m.bulkCount b g else m
        let b' := { z.2 with queue := t, tx := (b.tx + 1) % 2 ^ 32, sent := mapPut b.sent b.tx g }
        ((m.setBundle id b').updPp n fun p => p.spend g.cls (creditCost w.length), some (b.tx, w))

/-- A frame is filled (R131): the rest of a message, port-level messages, then messages of the bundle. -/
def Mod.fill (m : Mod) (n : Nat) : Nat → List (List Byte) → Pack → Mod × Pack × List (List Byte)
  | 0, ex, k => (m, k, ex)
  | f + 1, ex, k =>
    if framePayload ≤ k.bytes.length then (m, k, ex) else
    let p := m.pp n
    match p.rest with
    | some (q, whole, left) =>
      let r := k.put (if msgCls whole = clsCtl && msgOp whole != 2 then none else some q) whole left
      (m.setPp n { p with rest := r.2 }).fill n f ex r.1
    | none => match ex with
      | w :: t =>
        if m.runRoom n k w.length then
          let r := k.put none w w
          (m.setPp n { p with rest := r.2 }).fill n f t r.1
        else (m.closeRun n, k, ex)
      | [] => match p.peer with
        | none => (m, k, [])
        | some id => match m.nextMsg n id k with
          | (m', none) => (m', k, [])
          | (m', some (q, w)) =>
            let r := k.put (some q) w w
            (m'.updPp n fun p => { p with rest := r.2 }).fill n f [] r.1

/-- What ACK says (R142, R150): the last frame accepted, short of the frames of a run not yet verified. -/
def Mod.ackNow (m : Mod) (n : Nat) : Nat := (m.get (pgPrt n) PrtF.peerRxNext + 2 * 2 ^ 20 - 1 - (m.pp n).runRx.length) % 2 ^ 20

/-- A frame goes out on a port. -/
def Mod.emit (m : Mod) (n ty fseq : Nat) (nak : Bool) (keygen first : Nat) (payload : List Byte) : Mod :=
  m.send (.frame n (frameRaw (linkWord fseq (m.ackNow n) ty nak keygen first payload.length) payload))

/-- An IDLE frame carries ACK, and NAK where replay is asked for (R129, R142). -/
def Mod.emitIdle (m : Mod) (n : Nat) (nak : Bool) : Mod :=
  m.emit n tyIdle (m.get (pgPrt n) PrtF.peerTxNext) nak 0 0xFF []

/-- A kept frame is sent: bit for bit, but for ACK and NAK (R143). -/
def Mod.emitFrame (m : Mod) (n : Nat) (f : Frame) : Mod :=
  (m.emit n tyData f.fseq false f.keygen f.first f.payload).add (pgPrt n) PrtF.peerFramesTx 1

/-- A DATA frame is numbered, kept and sent (R131, R143). -/
def Mod.keepFrame (m : Mod) (n keygen first : Nat) (payload : List Byte) (msgs : List (Nat × List Byte)) (puts : List Nat) : Mod :=
  let t := m.get (pgPrt n) PrtF.peerTxNext
  let f : Frame := { fseq := t, keygen := keygen, first := first, fill := payload.length, payload := payload, msgs := msgs, puts := puts }
  let p := m.pp n
  let m := m.setPp n { p with frames := p.frames ++ [f], lastAck := if p.frames = [] then m.tick else p.lastAck }
  ((m.emitFrame n f).set (pgPrt n) PrtF.peerTxNext (t + 1)).count (pgPrt n) 0x100 (8 + payload.length)

/-! ## Runs under GCM -/

/-- The IV of a run: the key's salt, then the count of frames sent under the key before it (R150). -/
def gcmIv (salt count : Nat) : List Nat := leOfNat 4 salt ++ leOfNat 8 count

/-- A link header as additional data: ACK and NAK zero (R150). -/
def aadWord (fseq keygen first fill : Nat) : List Byte := leBytes 8 (linkWord fseq 0 tyData false keygen first fill)

/-- A transmitter that is to switch moves to its other generation, and wipes the one it leaves (R151). -/
def DirKeys.move (d : DirKeys) : DirKeys :=
  if d.switch then { keys := mapDel d.keys d.gen, gen := 1 - d.gen, count := 0, switch := false } else d

/-- A frame of a run is sent (R150): its bytes encrypted; where the run closes, the MAC_TAG ends it. -/
def Mod.runFrame (m : Mod) (n : Nat) (k : Pack) (keySalt : Nat × List Byte) : Mod :=
  let p := m.pp n
  let r := p.runTx.getD { aad := [], text := [], start := p.tx.count, frames := 0, opened := m.tick, closing := false }
  let iv := gcmIv keySalt.1 r.start
  let cipher := (gcmText keySalt.2 iv (zeros r.text.length ++ k.bytes)).drop r.text.length
  let ends := (r.closing || decide (31 ≤ r.frames)) && p.rest.isNone && decide (k.bytes.length + 56 ≤ framePayload)
  let fill := k.bytes.length + if ends then 56 else 0
  let first := if ends && k.first = 0xFF then k.bytes.length else k.first
  let fseq := m.get (pgPrt n) PrtF.peerTxNext
  let aad := r.aad ++ aadWord fseq p.tx.gen first fill
  let text := r.text ++ cipher
  let tail := if ends then m.ctlMsg 3 (m.statusPrefix n ++ gcmTag keySalt.2 iv aad text) else []
  let tx := { p.tx with count := p.tx.count + 1 }
  let p' := if ends then { p.spend clsCtl 1 with runTx := none, tx := tx.move }
            else { p with runTx := some { r with aad := aad, text := text, frames := r.frames + 1 }, tx := tx }
  let m := m.setPp n p'
  let m := m.set (pgPrt n) PrtF.peerKeygenTx p'.tx.gen
  m.keepFrame n p.tx.gen first (cipher ++ tail) k.msgs k.puts

/-- A packed frame is sent; on a GCM port under the key in use. -/
def Mod.sendPack (m : Mod) (n : Nat) (k : Pack) : Mod :=
  let m := if k.delta = 0 then m else m.count (pgPrt n) 0x102 k.delta
  if m.gcm n then
    let p := m.pp n
    match mapGet p.tx.keys p.tx.gen with
    | some ks =>
      let m := m.runFrame n k ks
      if 2 ^ 62 ≤ (m.pp n).tx.count then (m.raise (pgPrt n) 34 0).bfPortDown n else m
    | none => m
  else m.keepFrame n 0 k.first k.bytes k.msgs k.puts

/-- A port may send new DATA frames: UP, fewer than 65,536 kept, and on a GCM port a key held (R143, R151). -/
def Mod.maySend (m : Mod) (n : Nat) : Bool :=
  let p := m.pp n
  m.bState n = bsUp && decide (p.frames.length < 65536) && (!m.gcm n || (mapGet p.tx.keys p.tx.gen).isSome)

/-- One DATA frame is packed and sent, if there is anything to send; the port-level messages not yet in it. -/
def Mod.sendData (m : Mod) (n : Nat) (ex : List (List Byte)) : Mod × List (List Byte) :=
  if !m.maySend n then (m, ex) else
  let r := m.fill n 24 ex Pack.empty
  let closes := (r.1.pp n).runTx.any fun x => x.closing || decide (32 ≤ x.frames + 1)
  if r.2.1.bytes = [] && !(r.1.gcm n && closes && (r.1.pp n).rest.isNone) then (r.1, r.2.2) else (r.1.sendPack n r.2.1, r.2.2)

/-- DATA frames until a port-level message is in one; `f` bounds them. -/
def Mod.sendUntil (m : Mod) (n : Nat) : Nat → List (List Byte) → Mod
  | 0, _ => m
  | f + 1, ex => if ex = [] then m else
    let r := m.sendData n ex
    r.1.sendUntil n f r.2

/-- A STATUS message goes out on a port (R141): in a CTL frame, on a GCM port in DATA frames. -/
def Mod.sendStatus (m : Mod) (n : Nat) : Mod :=
  let w := m.ctlMsg 1 (m.statusPrefix n)
  if m.gcm n then
    if m.maySend n && m.mayBegin n clsCtl w.length then (m.updPp n fun p => p.spend clsCtl 1).sendUntil n 40 [w] else m
  else (m.emit n tyCtl (m.get (pgPrt n) PrtF.peerTxNext) false 0 0 w).count (pgPrt n) 0x100 (8 + w.length)

/-! ## Replay -/

/-- Every frame kept is sent again (R143); the squall count rises (R145). -/
def Mod.replay (m : Mod) (n : Nat) : Mod :=
  let p := m.pp n
  if p.frames = [] then m else
  let m := p.frames.foldl (fun (a : Mod) f => a.emitFrame n f) m
  let m := (m.add (pgPrt n) PrtF.peerReplayed p.frames.length).count (pgPrt n) 0x104 p.frames.length
  (m.add (pgPrt n) PrtF.peerSquall 1).updPp n fun p => { p with lastAck := m.tick }

/-- A retrain starts (R145). -/
def Mod.retrain (m : Mod) (n : Nat) : Mod :=
  let m := (m.setBState n bsRetraining).add (pgPrt n) PrtF.peerRetrains 1
  (m.countQuad n 0x100).raise (pgPrt n) 33 (bfDetail (m.get (pgPrt n) PrtF.peerTxOldest) 0)

/-- A replay is triggered (R143, R145): at a squall count of N the port retrains instead, at 2N it goes down. -/
def Mod.triggerReplay (m : Mod) (n : Nat) : Mod :=
  let p := pgPrt n
  let lim := m.get p PrtF.peerReplayLimit
  let sq := m.get p PrtF.peerSquall
  if (m.pp n).frames = [] || m.bState n = bsRetraining then m
  else if sq = 2 * lim then m.bfPortDown n
  else if sq = lim then m.retrain n
  else m.replay n

/-- A page whose PAGE_PUT is acknowledged whole is committed PEER (R256). -/
def Mod.putAcked (m : Mod) (id slot : Nat) : Mod := match m.indexOf id with
  | none => m
  | some x => match m.tier.puts.find? fun p => p.2 = (x, slot) with
    | none => m
    | some e => ({ m with tier := { m.tier with puts := m.tier.puts.filter fun p => p != e } }).commitPeer e.1

/-- ACK and NAK of a frame that passed its checks (R143): frames covered are freed; a NAK for the oldest frame triggers a replay. -/
def Mod.takeAck (m : Mod) (n ack : Nat) (nak : Bool) : Mod :=
  let pg := pgPrt n
  let p := m.pp n
  let old := m.get pg PrtF.peerTxOldest
  let c := (ack + 2 ^ 20 - old + 1) % 2 ^ 20
  if p.frames.length < c then m.raise pg 35 (bfDetail ack 0)
  else
    let gone := p.frames.take c
    let m := if c = 0 then m else
      ((m.setPp n { p with frames := p.frames.drop c, lastAck := m.tick }).set pg PrtF.peerTxOldest (old + c)).set pg PrtF.peerSquall 0
    let m := match p.peer with
      | some id => (gone.flatMap Frame.puts).foldl (fun (a : Mod) s => a.putAcked id s) m
      | none => m
    if nak then m.triggerReplay n else m

end Sys2Proof.Machine
end

