-- ==== Sys2Proof/Machine/Berfel.lean ====
section
/-!
DEFINITION. Machine/Berfel.lean: the Berfel commands (chapter 05): frames received, acknowledgement and replay (R142 to R144), bundles
(R146 to R149), port states and HELLO (R145), status (R141), keys (R151).
-/
namespace Sys2Proof.Machine

open Host

/-! ## Messages received -/

/-- Complete messages at the front of received bytes, and what is left (R131, R138); `f` bounds them. -/
def splitMsgs : Nat → List Byte → List (List Byte) × List Byte
  | 0, bs => ([], bs)
  | f + 1, bs =>
    if bs.length < 16 then ([], bs) else
    let n := msgLen bs
    if bs.length < n then ([], bs) else
    let r := splitMsgs f (bs.drop n)
    (bs.take n :: r.1, r.2)

/-- Opcodes of a class (R135). -/
def opKnown (cls op : Nat) : Bool :=
  if cls = clsReq || cls = clsRsp then decide (1 ≤ op) && decide (op ≤ 0x0E)
  else if cls = clsCtl then decide (1 ≤ op) && decide (op ≤ 4)
  else if cls = clsBulk then decide (1 ≤ op) && decide (op ≤ 3)
  else false

/-- A message that R138 discards. -/
def malformed (w : List Byte) : Bool :=
  let c := msgCls w
  if c = clsDelta then leAt w 8 1 / 8 % 4 = 0 else decide (5 ≤ c) || !opKnown c (msgOp w) || decide (4112 < leAt w 10 2)

/-- A message that is never bounced (R137). -/
def neverBounced (w : List Byte) : Bool :=
  let c := msgCls w
  c = clsCtl || ((c = clsReq || c = clsRsp) && [1, 2, 3, 4, 6].contains (msgOp w))

/-- BOUNCE (R84, R135): the bounced BSEQ, its class and opcode, the receiver's MAP_GENERATION. -/
def Mod.bounceMsg (m : Mod) (n : Nat) (w : List Byte) : Msg :=
  mkMsg clsCtl 2 0 (m.statusPrefix n ++ slice w 0 4 ++ leBytes 1 (msgCls w) ++ leBytes 1 (if msgCls w = clsDelta then 0 else msgOp w) ++ zeros 2 ++
    leBytes 8 m.mapGen)

/-- The status prefix of a CTL message raises the sender's limits and acknowledges deltas (R96, R136). -/
def Mod.takeStatus (m : Mod) (n : Nat) (limits : List Nat) (applied : Nat) : Mod :=
  let p := m.pp n
  let newer := fun i => let a := p.limit.getD i 0
                        let b := limits.getD i 0
                        if (b + 2 ^ 32 - a) % 2 ^ 32 < 2 ^ 31 then b else a
  let m := m.setPp n { p with limit := (upto 5).map newer }
  match p.peer.bind fun id => m.indexOf id with
  | some x => ((m.ackDeltas x applied).afterAcks).reconciled
  | none => m

/-- A BULK message's data enter the bundle's history, decompressed first where it is COMPRESSED (R152); none on an error. -/
def Mod.bulkIn (m : Mod) (id : Nat) (w : List Byte) : Mod × Option (List Byte) :=
  let b := m.bundle id
  let flags := leAt w 8 1 / 8
  let hist := if bit flags 1 then [] else b.rxHist
  let body := w.drop 32
  if bit flags 0 then
    let r := decodeBlock { stream := true, resetOk := false, hist := hist, seed := [], cap := 4096 } body
    let eng := m.lexEngine 1
    if r.1 = dcOk then
      ((m.lexCountD eng 1 r.2.length).setBundle id { b with rxHist := histAdd hist r.2 }, some (patch (w.take 32) 8 [BitVec.ofNat 8 clsBulk] ++ r.2))
    else (m.lexFail eng r.1 1 (2 * (m.indexOf id).getD 0 + 1) 0, none)
  else (m.setBundle id { b with rxHist := histAdd hist body }, some w)

/-- A response to a request that no command awaits ends it here: MAP_COMMIT, MEMBER_REPORT, HOLD_RELEASE, PAGE_FREE. -/
def Mod.quietAnswer (m : Mod) (id : Nat) (w : List Byte) : Mod :=
  if msgCls w = clsRsp && [2, 6, 8, 0x0D].contains (msgOp w) then
    let tag := leAt w 12 2
    m.updBundle id fun b => { b with reqs := b.reqs.filter fun r => r.tag != tag }
  else m

/-- A message is delivered (R84, R138, R147, R152): a malformed one is discarded, one of another epoch bounces, the rest go to the
group. -/
def Mod.deliver (m : Mod) (n id : Nat) (w : List Byte) : Mod :=
  let m := m.updBundle id fun b => { b with rx := (b.rx + 1) % 2 ^ 32 }
  let reset := fun (m : Mod) => if m.bulkOn id then m.bundleReset id true else m
  if malformed w then reset (m.raise (pgPrt n) 39 (bfDetail 0 (leAt w 0 4)))
  else
    let r := if msgCls w = clsBulk && m.bulkOn id then m.bulkIn id w else (m, some w)
    match r.2 with
    | none => (r.1.raise (pgPrt n) 39 (bfDetail 0 (leAt w 0 4))).bundleReset id true
    | some w' =>
      let m := r.1
      if leAt w' 4 2 != m.groupEpoch && !neverBounced w' then m.sendTo id (m.bounceMsg n w')
      else
        let m := if msgCls w' = clsDelta && 16 < w'.length then m.count (pgPrt n) 0x103 64 else m
        let m := if msgCls w' = clsCtl && msgOp w' = 2 then m.takeStatus n ((upto 5).map fun i => leAt w' (16 + 4 * i) 4) (leAt w' 36 4) else m
        (m.quietAnswer id w').send (.delivered id w')

/-- Held messages that follow in order are delivered (R147); `f` bounds them. -/
def Mod.deliverHeld (m : Mod) (n id : Nat) : Nat → Mod
  | 0 => m
  | f + 1 =>
    let b := m.bundle id
    match mapGet b.reorder b.rx with
    | some w => ((m.setBundle id { b with reorder := mapDel b.reorder b.rx }).deliver n id w).deliverHeld n id f
    | none => m

/-- A message of the bundle arrives (R147): delivered in order of BSEQ, held, or discarded as a duplicate. -/
def Mod.bundleIn (m : Mod) (n id : Nat) (w : List Byte) : Mod :=
  let b := m.bundle id
  let q := leAt w 0 4
  let d := (q + 2 ^ 32 - b.rx) % 2 ^ 32
  if d = 0 then (m.deliver n id w).deliverHeld n id (b.reorder.length + 1)
  else if d < 2 ^ 31 then m.setBundle id { b with reorder := mapPut b.reorder q w }
  else m.add (pgPrt n) PrtF.peerDupDiscard 1

/-- A message is complete on a port (R140, R145): port-level CTL messages are handed up at once; credits are counted and freed. False
where it overran its class's limit and the port went down. -/
def Mod.messageIn (m : Mod) (n : Nat) (w : List Byte) : Mod × Bool :=
  let p := m.pp n
  let c := msgCls w
  let cost := creditCost w.length
  let free := fun (m : Mod) => m.updPp n fun p =>
    { p with rcvd := p.rcvd.set c ((p.rcvd.getD c 0 + cost) % 2 ^ 32), grant := p.grant.set c ((p.grant.getD c 0 + cost) % 2 ^ 32) }
  if c = clsCtl && msgOp w = 4 then (m.send (.delivered (leAt w 44 2) w), true)
  else
    let room := (p.grant.getD c 0 + 2 ^ 32 - p.rcvd.getD c 0) % 2 ^ 32
    if c < 5 && decide (room < cost) then
      ((m.raise (pgPrt n) 37 (bfDetail (m.get (pgPrt n) PrtF.peerRxNext) (leAt w 0 4))).bfPortDown n, false)
    else
      let m := free m
      if c = clsCtl && msgOp w != 2 && opKnown c (msgOp w) then
        (m.send (.delivered (p.peer.getD 0) w), true)
      else match p.peer with
        | some id => (m.bundleIn n id w, true)
        | none => (m, true)

/-- Received message bytes join what the port has of an unfinished message; complete messages are taken in order. -/
def Mod.bytesIn (m : Mod) (n : Nat) (bs : List Byte) : Mod :=
  let all := (m.pp n).partial_ ++ bs
  let r := splitMsgs (all.length / 16 + 1) all
  let m := m.updPp n fun p => { p with partial_ := r.2 }
  (r.1.foldl (fun (a : Mod × Bool) w => if a.2 then a.1.messageIn n w else a) (m, true)).1

/-! ## Frames received -/

/-- A frame arrives at a port of a quad that changes role: it is discarded and counted (R154). -/
def Mod.changingDiscard (m : Mod) (n : Nat) : Option Mod := match m.bfl.changing.find? fun e => (m.quad e.1).ports.contains n with
  | some e => some (m.tally (pgLnq e.1) LnqF.count 0x101 1)
  | none => none

/-- A port that takes frames: HELLO, UP or RETRAINING. -/
def Mod.hears (m : Mod) (n : Nat) : Bool := decide (bsHello ≤ m.bState n) && m.peerRole n && m.runs

/-- A received frame after FEC and CRC (R130): none where it is discarded; only one of the type a row is for is acted upon. -/
def Mod.frameIn (m : Mod) (n ty : Nat) (raw : List Byte) (f : Mod → List Byte → Nat → Mod) : Mod :=
  match m.changingDiscard n with
  | some m' => m'
  | none =>
    if !m.hears n || raw.length != 256 then m else
    let c := fecFrame raw
    if !frameGood c.1 then (m.add (pgPrt n) PrtF.peerCrcFail 1).updPp n fun p => { p with naked := false }
    else
      let w := leAt c.1 0 8
      if bits w 40 2 != ty then m
      else
        let m := if c.2 then m.add (pgPrt n) PrtF.peerFecCorrected 1 else m
        f m c.1 w

/-- A DATA frame in sequence is accepted (R142); on a GCM port it waits for its run's tag (R150). -/
def Mod.acceptFrame (m : Mod) (n : Nat) (bs : List Byte) (w : Nat) : Mod :=
  let pg := pgPrt n
  let fill := bits w 52 8
  let pay := slice bs 8 fill
  let clear := m.bState n = bsHello || !m.gcm n
  let m := ((m.set pg PrtF.peerRxNext (m.get pg PrtF.peerRxNext + 1)).add pg PrtF.peerFramesRx 1).count pg 0x101 (8 + fill)
  let m := m.updPp n fun p => { p with naked := false }
  if clear then m.bytesIn n pay
  else m.updPp n fun p => { p with runRx := p.runRx ++ [(bits w 43 1, aadWord (bits w 0 20) (bits w 43 1) (bits w 44 8) fill, pay)] }

/-- A frame's payload is a HELLO alone. -/
def isHello (bs : List Byte) (w : Nat) : Bool :=
  let pay := slice bs 8 (bits w 52 8)
  decide (pay.length = 68) && msgCls pay = clsCtl && msgOp pay = 4

/-- DATA_FRAME_RECEIVE: R130, R142, R143. While the port is in HELLO only HELLO frames are taken; a HELLO out of sequence on a port held
as up is handed up for R145. -/
def execDataFrameReceive (port : Nat) (raw : List Byte) (s : State) : Outcome State Fault Refusal :=
  s.onUnit (portOk port) fun m => m.frameIn port tyData raw fun m bs w =>
    let m := m.takeAck port (bits w 20 20) (bit w 42)
    if !m.hears port then m else
    let d := (bits w 0 20 + 2 ^ 20 - m.get (pgPrt port) PrtF.peerRxNext) % 2 ^ 20
    if m.bState port = bsHello && !isHello bs w then m
    else if d = 0 then m.acceptFrame port bs w
    else if m.bState port != bsHello && isHello bs w then m.send (.delivered (leAt (slice bs 8 68) 44 2) (slice bs 8 68))
    else if d < 2 ^ 19 then
      (if (m.pp port).naked then m else (m.updPp port fun p => { p with naked := true }).emitIdle port true)
    else (m.add (pgPrt port) PrtF.peerDupDiscard 1).emitIdle port false

/-- CTL_FRAME_RECEIVE: its ACK and NAK, and its STATUS messages, on a port without GCM (R129, R141). -/
def execCtlFrameReceive (port : Nat) (raw : List Byte) (s : State) : Outcome State Fault Refusal :=
  s.onUnit (portOk port) fun m => m.frameIn port tyCtl raw fun m bs w =>
    let m := m.takeAck port (bits w 20 20) (bit w 42)
    if !m.hears port || m.gcm port then m else
    let ms := (splitMsgs 15 (slice bs 8 (bits w 52 8))).1.filter fun x => msgCls x = clsCtl && msgOp x = 1
    let m := m.count (pgPrt port) 0x101 (8 + bits w 52 8)
    ms.foldl (fun (a : Mod) x => a.send (.delivered ((a.pp port).peer.getD 0) x)) m

/-- IDLE_FRAME_RECEIVE: R129. -/
def execIdleFrameReceive (port : Nat) (raw : List Byte) (s : State) : Outcome State Fault Refusal :=
  s.onUnit (portOk port) fun m => m.frameIn port tyIdle raw fun m _ w => m.takeAck port (bits w 20 20) (bit w 42)

/-- RETRAIN_MARK: what the peer's ACK covers is freed, and the port goes on UP by replay (R145). -/
def execRetrainMark (port : Nat) (raw : List Byte) (s : State) : Outcome State Fault Refusal :=
  s.onUnit (portOk port) fun m => m.frameIn port tyMark raw fun m _ w =>
    let was := m.bState port
    let m := m.takeAck port (bits w 20 20) false
    if was = bsRetraining && m.bState port = bsRetraining then
      ((m.setBState port bsUp).set (pgPrt port) PrtF.peerRetrain 0).replay port
    else m

/-! ## Frames sent -/

/-- The replay spill is full: peers it holds traffic for that are not reached are reported (R101). -/
def Mod.spillReports (m : Mod) : Mod := match m.grp.map with
  | none => m
  | some g =>
    if !m.spillFull then m else
    (upto g.n).foldl (fun (a : Mod) x => if x != a.own && takesDeltas (g.stOf x) && !a.reaches x && decide (0 < a.spillFor (a.idOf x))
      then a.report x 2 else a) m

/-- DATA_FRAME_SEND: one frame is packed with what credit allows, numbered, protected and kept (R131, R140, R143, R150). -/
def execDataFrameSend (port : Nat) (s : State) : Outcome State Fault Refusal :=
  s.onUnit (portOk port) fun m => m.when (m.runs && m.peerRole port) fun m => ((m.sendData port []).1).spillReports

/-- REPLAY_TIMER: REPLAY_TIMER after ACK last advanced or a replay began, with frames outstanding, a replay is triggered (R143). -/
def execReplayTimer (port : Nat) (s : State) : Outcome State Fault Refusal :=
  s.onUnit (portOk port) fun m =>
    if !m.runs || !m.hears port || (m.pp port).frames = [] || m.bState port = bsRetraining then m
    else (m.until_ ((m.pp port).lastAck + m.get (pgPrt port) PrtF.peerReplayTimer * 250)).triggerReplay port

/-- STATUS_TIMER: a STATUS message leaves (R141). -/
def execStatusTimer (port : Nat) (s : State) : Outcome State Fault Refusal :=
  s.onUnit (portOk port) fun m => m.when (m.runs && m.bState port = bsUp) fun m => m.sendStatus port

/-- ACK_TIMER: A has advanced since it was last sent, and leaves in a STATUS message on a port of the bundle (R96). -/
def execAckTimer (x : Nat) (s : State) : Outcome State Fault Refusal :=
  s.onM fun m => if !m.runs || m.grp.map.isNone then m else
    let p := m.pairIn x
    match (m.bundlePorts (m.idOf x)).filter fun n => m.bState n = bsUp with
    | n :: _ => if p.a = p.sentA then m else (m.setPairIn x { p with sentA := p.a }).sendStatus n
    | [] => m

/-- CTL_STATUS: limits and A arrive from the peer (R96, R136, R140). -/
def execCtlStatus (port : Nat) (limits : List Nat) (applied : Nat) (s : State) : Outcome State Fault Refusal :=
  s.onUnit (portOk port) fun m => m.when (m.runs && decide (bsUp ≤ m.bState port)) fun m => m.takeStatus port limits applied

/-! ## Port states (R145) -/

/-- Width of a peer port as its quad forms it. -/
def Mod.portWidth (m : Mod) (n : Nat) : Nat := match m.quadOf n with
  | some q => (m.quad q).width
  | none => 0

/-- The HELLO of a port for a bundle (R145). -/
def Mod.helloMsg (m : Mod) (n id : Nat) : List Byte :=
  let b := m.bundle id
  let gid := match m.grp.map with
    | some g => g.groupId
    | none => 0
  m.ctlMsg 4 (m.statusPrefix n ++ leBytes 1 1 ++ leBytes 1 (b2n (m.gcm n) + 2 * m.get (pgPrt n) PrtF.peerBulkCompress) ++ leBytes 1 (m.portWidth n) ++
    zeros 1 ++ leBytes 2 m.grp.ownId ++ zeros 2 ++ leBytes 4 gid ++ leBytes 8 m.mapGen ++ leBytes 4 b.ownInc ++ leBytes 4 b.peerInc)

/-- A HELLO leaves alone in a DATA frame in clear, outside every run (R145). -/
def Mod.sendHello (m : Mod) (n id : Nat) : Mod := m.keepFrame n 0 0 (m.helloMsg n id) [] []

/-- Whom a first HELLO is for: EXPECT_PEER, or the peer the port last had (log entry 39). -/
def Mod.helloFor (m : Mod) (n : Nat) : Nat :=
  let e := m.get (pgPrt n) PrtF.peerExpectPeer
  if e != 0 then e else (m.pp n).last

/-- Peer ports train once the restore has ended (R458), while no save runs. -/
def Mod.mayTrain (m : Mod) (n : Nat) : Bool :=
  m.runs && m.restored && !m.saving && m.peerRole n && m.bState n = bsDown && !m.quadChanging n && m.clocked n

/-- BERFEL_TRAIN_SCHEDULE: 100 ms after it went down, a port starts training (R145). -/
def execBerfelTrainSchedule (port : Nat) (s : State) : Outcome State Fault Refusal :=
  s.onUnit (portOk port) fun m => m.when (m.mayTrain port) fun m => (m.until_ ((m.pp port).entered + 100 * ms)).setBState port bsTraining

/-- PEER_TRAINING_SEEN: a DOWN port starts training at once (R145). -/
def execPeerTrainingSeen (port : Nat) (s : State) : Outcome State Fault Refusal :=
  s.onUnit (portOk port) fun m => m.when (m.mayTrain port) fun m => m.setBState port bsTraining

/-- BERFEL_TRAIN_DONE: on success the port enters HELLO, its sequences at 0, and sends HELLO; on failure it is DOWN (R145). -/
def execBerfelTrainDone (port : Nat) (ok : Bool) (s : State) : Outcome State Fault Refusal :=
  s.onUnit (portOk port) fun m =>
    if !m.runs || !m.restored || m.saving || m.bState port != bsTraining || !m.clocked port then m
    else if !ok then m.setBState port bsDown
    else ((m.setBState port bsHello).set (pgPrt port) PrtF.peerWidth (m.portWidth port)).sendHello port (m.helloFor port)

/-- HELLO_TIMEOUT: 1 ms in HELLO without an accepted HELLO, the port falls DOWN (R145). -/
def execHelloTimeout (port : Nat) (s : State) : Outcome State Fault Refusal :=
  s.onUnit (portOk port) fun m => m.when (m.runs && m.bState port = bsHello) fun m => (m.until_ ((m.pp port).entered + ms)).bfPortDown port

/-- Why a HELLO is refused (R126, R145). -/
def Mod.helloRefused (m : Mod) (n : Nat) (h : Hello) : Bool :=
  let pg := pgPrt n
  let e := m.get pg PrtF.peerExpectPeer
  let gid := match m.grp.map with
    | some g => g.groupId
    | none => 0
  (e != 0 && e != h.moduleId) || (gid != 0 && h.groupId != 0 && gid != h.groupId) || h.version != 1 || h.width != m.portWidth n ||
  h.gcm != m.gcm n || h.compress != m.is pg PrtF.peerBulkCompress || decide (4 ≤ ((m.bundlePorts h.moduleId).filter fun x => x != n).length)

/-- What the group does when a member's bundle comes up: a report of a STALE member (R111), the fetch of a newer map or of the newest while
fenced or rejoining (R84, R85, R411), a formation that waited (R115). -/
def Mod.memberUp (m : Mod) (id gen : Nat) (first : Bool) : Mod :=
  let m := match m.indexOf id with
    | some x => { m with grp := { m.grp with downAt := mapDel m.grp.downAt x } }
    | none => m
  match m.grp.map, m.indexOf id with
  | some g, some x =>
    let m := if first && g.stOf x = mbStale && g.stOf m.own != mbLost then m.report x 4 else m
    let m := if decide (m.mapGen < gen) || m.fences.contains .quorum || m.aux.rejoin.contains x then (m.request x 0x03 []).1 else m
    m.liftQuorum
  | _, _ => m.tryForm

/-- An accepted HELLO brings the port UP into its bundle (R145). -/
def Mod.helloTaken (m : Mod) (n : Nat) (h : Hello) : Mod :=
  let first := !m.reachId h.moduleId
  let m := m.updPp n fun p => { p with peer := some h.moduleId, last := h.moduleId }
  let m := (m.setBState n bsUp).set (pgPrt n) PrtF.peerPeerId h.moduleId
  let m := if m.gcm n then m else m.takeStatus n h.limits h.applied
  -- phase 6 begins with the first bundle that is up (R458)
  let m := m.when (m.phase = 5) fun m => m.set pgGlb GlbF.phase 6
  m.memberUp h.moduleId h.gen first

/-- HELLO: on a port held as up it takes the port down; in HELLO it is refused, resets the bundle and is answered by another HELLO, or
brings the port UP (R145, R149). -/
def execHello (port : Nat) (h : Hello) (s : State) : Outcome State Fault Refusal :=
  s.onUnit (portOk port) fun m =>
    if !m.runs || !m.peerRole port then m
    else if bsUp ≤ m.bState port then m.bfPortDown port
    else if m.bState port != bsHello then m
    else if m.helloRefused port h then m.raise (pgPrt port) 36 0
    else
      let b := m.bundle h.moduleId
      if b.peerInc != h.ownInc || b.ownInc != h.peerInc then
        let m := (m.bundleReset h.moduleId false).raise (pgPrt port) 38 0
        let m := m.updBundle h.moduleId fun b => { b with peerInc := h.ownInc }
        m.sendHello port h.moduleId
      else m.helloTaken port h

/-- PORT_RETRAIN_FORCE: RETRAIN is written: an UP port retrains, and the bit clears when that ends (R157). -/
def Mod.forceRetrain (m : Mod) (n : Nat) : Mod :=
  if m.runs && m.peerRole n && m.bState n = bsUp then (m.set (pgPrt n) PrtF.peerRetrain 1).retrain n else m

/-- PORT_RETRAIN_FORCE: R157. -/
def execPortRetrainForce (port : Nat) (s : State) : Outcome State Fault Refusal :=
  s.onUnit (portOk port) fun m => m.forceRetrain port

/-- RETRAIN_DONE: RETRAIN_MARK frames leave, with TX_OLDEST and RX_NEXT - 1; a failed retrain takes the port down (R145). -/
def execRetrainDone (port : Nat) (ok : Bool) (s : State) : Outcome State Fault Refusal :=
  s.onUnit (portOk port) fun m =>
    if !m.runs || m.bState port != bsRetraining then m
    else if ok then m.emit port tyMark (m.get (pgPrt port) PrtF.peerTxOldest) false 0 0xFF []
    else m.bfPortDown port

/-! ## Keys (R150, R151) -/

/-- A run's frames are discarded and asked for again (R150). -/
def Mod.runFails (m : Mod) (port n : Nat) : Mod :=
  let pg := pgPrt port
  let back := (m.get pg PrtF.peerRxNext + 2 ^ 20 - n) % 2 ^ 20
  let m := (m.set pg PrtF.peerRxNext back).raise pg 34 (bfDetail back 0)
  (m.updPp port fun p => { p with naked := true }).emitIdle port true

/-- Frames until a closing run has ended; the number bounds them. -/
def Mod.drainRun (m : Mod) (port : Nat) : Nat → Mod
  | 0 => m
  | f + 1 => if (m.pp port).runTx.any GcmRun.closing && m.maySend port then Mod.drainRun (m.sendData port []).1 port f else m

/-- MAC_TAG: the run's tag verifies, and its messages are released and its frames acknowledged; or the run is discarded with TAG_FAIL and
a NAK (R150). -/
def execMacTag (port : Nat) (tag : List Byte) (s : State) : Outcome State Fault Refusal :=
  s.onUnit (portOk port) fun m =>
    let p := m.pp port
    if !m.runs || m.bState port < bsUp || !m.gcm port || p.runRx = [] then m else
    let gen := ((p.runRx.head?).map Prod.fst).getD 0
    let aad := p.runRx.flatMap fun r => r.2.1
    let all := p.runRx.flatMap fun r => r.2.2
    let text := all.take (all.length - 56)
    let count := p.rxCount.getD gen 0
    let n := p.runRx.length
    let m := m.setPp port { p with runRx := [] }
    match mapGet p.rxKeys.keys gen with
    | some ks =>
      let iv := gcmIv ks.1 count
      if gcmTag ks.2 iv aad text = tag then
        let m := m.updPp port fun p => { p with rxCount := p.rxCount.set gen (count + n) }
        ((m.bytesIn port (gcmText ks.2 iv text)).updPp port fun p =>
          { p with rcvd := p.rcvd.set 3 ((p.rcvd.getD 3 0 + 1) % 2 ^ 32), grant := p.grant.set 3 ((p.grant.getD 3 0 + 1) % 2 ^ 32) })
      else m.runFails port n
    | none => m.runFails port n

/-- GCM_RUN_TIMER: 500 ns after its first frame the run takes no further message and closes with its MAC_TAG (R150). -/
def execGcmRunTimer (port : Nat) (s : State) : Outcome State Fault Refusal :=
  s.onUnit (portOk port) fun m => match (m.pp port).runTx with
    | some r =>
      if !m.runs || m.bState port != bsUp then m
      else ((m.until_ (r.opened + 500)).closeRun port).drainRun port 40
    | none => m

/-- BF_KEY_SET: a generation of a direction is loaded; the transmit generation in use is Busy, and a key that the other transmit
generation holds is invalid (R151). -/
def execBfKeySet (via : Via) (port dir gen salt : Nat) (key : List Byte) (s : State) : Outcome State Fault Refusal :=
  s.onM fun m => m.onMailbox via fun m =>
    let p := m.pp port
    if !portOk port || 1 < dir || 1 < gen || key.length != 32 then m.reply via .invalidInput []
    else if dir = 0 then
      if gen = p.tx.gen then m.reply via .busy []
      else if (mapGet p.tx.keys (1 - gen)).any fun k => k.2 = key then m.reply via .invalidInput []
      else (m.setPp port { p with tx := { p.tx with keys := mapPut p.tx.keys gen (salt, key) } }).reply via .success []
    else
      let rx := { p.rxKeys with keys := mapPut p.rxKeys.keys gen (salt, key) }
      (m.setPp port { p with rxKeys := rx, rxCount := p.rxCount.set gen 0 }).reply via .success []

/-- BF_KEY_SWITCH: the transmitter moves to its other generation at its next run; Busy while that one holds no key (R151). -/
def execBfKeySwitch (via : Via) (port : Nat) (s : State) : Outcome State Fault Refusal :=
  s.onM fun m => m.onMailbox via fun m =>
    let p := m.pp port
    if !portOk port then m.reply via .invalidInput []
    else if (mapGet p.tx.keys (1 - p.tx.gen)).isNone then m.reply via .busy []
    else
      let d := { p.tx with switch := true }
      let m := match p.runTx with
        | some _ => m.setPp port { p with tx := d }
        | none => (m.setPp port { p with tx := d.move }).set (pgPrt port) PrtF.peerKeygenTx d.move.gen
      m.reply via .success []

end Sys2Proof.Machine
end

