-- ==== Sys2Proof/Machine/Rings.lean ====
section
/-!
DEFINITION. Machine/Rings.lean: ring pairs (chapter 13): their table entries (R340, R359), enabling and draining (R341, R342),
doorbells and submission entries (R343, R344), the checks of R346 and the start of verbs (R354), completions and notifications
(R353, R356).
-/
namespace Sys2Proof.Machine

open Host

/-- The ring pair exists (R340). -/
def ringOk (n : Nat) : Bool := decide (n < 8192)

/-! ## The table entry -/

/-- A 64-bit register of a table entry, from its fields. -/
def Mod.entryReg (m : Mod) (base off : Nat) (fs : List Fld) : Nat :=
  (fs.filter fun f => f.off = off).foldl (fun a f => a + (m.at_ base f) <<< f.lo) 0

/-- A field after a write of `n` bits at bit `lo` of its register: the bits written are replaced (R26). -/
def writeBits (f : Fld) (old lo n val : Nat) : Nat :=
  (upto f.width).foldl (fun a i =>
    let b := f.lo + i
    a + (if lo ≤ b && b < lo + n then b2n (bit val (b - lo)) else b2n (bit old i)) <<< i) 0

/-- Fields of a pair that software writes while it is DISABLED (R359). -/
def ringRw : List Fld :=
  [RingEF.sqBase, RingEF.cqBase, RingEF.doorbell, RingEF.ownerCtx, RingEF.domain, RingEF.sqLog2, RingEF.cqLog2,
   RingEF.maxInflight, RingEF.notify, RingEF.msixVector, RingEF.coalesceCount, RingEF.coalesceTicks]

/-- The context assigned to logical device 0 of the designated steward port (R187). -/
def Mod.stewardCtx (m : Mod) : Option Nat :=
  if m.is pgStw StwF.valid then some (m.ldOf (m.get pgStw StwF.stewardPort) 0).1 else none

/-- A range lies wholly in extents of regions naming the pair's domain for which its owner holds an ACTIVE grant at the current epoch
(R341, R346), and the extents satisfy `f`. -/
def Mod.ringRange (m : Mod) (n : Nat) (f : Extent → Bool) (a len : Nat) : Bool :=
  m.inExtents (fun i e => (m.extReg e).domain = m.rf n RingEF.domain && m.granted (m.rf n RingEF.ownerCtx) i && f e) 65536 a len

/-- The pair is ENABLED or DRAINING, as RINGS_ENABLED counts them (R360). -/
def Mod.ringOn (m : Mod) (n : Nat) : Bool := m.rf n RingEF.state = 1 || m.rf n RingEF.state = 3

/-- Two lists of ranges meet. -/
def rangesMeet (a b : List (Nat × Nat)) : Bool := a.any fun x => b.any fun y => overlaps x.1 x.2 y.1 y.2

/-- The ring memory of a pair overlaps itself or that of another enabled pair (R341, reason 4). -/
def Mod.ringMeets (m : Mod) (n : Nat) : Bool :=
  let r := m.ringMem n
  rangesMeet (r.take 1) (r.drop 1) || rangesMeet ((r.drop 1).take 1) (r.drop 2) ||
  (m.rng.any fun e => e.1 != n && m.ringOn e.1 && rangesMeet r (m.ringMem e.1))

/-- Why setting ENABLE is refused: the lowest reason code of R341 that holds. -/
def Mod.enableReason (m : Mod) (n : Nat) : Option Nat :=
  let sq := m.rf n RingEF.sqLog2
  let cq := m.rf n RingEF.cqLog2
  let mi := m.rf n RingEF.maxInflight
  let r := m.ringMem n
  let owner := m.rf n RingEF.ownerCtx
  if decide (sq < 6) || decide (16 < sq) || decide (cq < 6) || decide (16 < cq) || decide (mi < 1) || decide (256 < mi) ||
     m.rf n RingEF.notify = 3 then some 1
  else if !(r.all fun x => m.ringRange n (fun _ => true) x.1 x.2) then some 2
  else if !(r.all fun x => m.ringRange n (fun e => !(m.extReg e).durable && !(m.extReg e).thin) x.1 x.2) then some 3
  else if m.ringMeets n then some 4
  else if m.rf n RingEF.notify = 2 && m.stewardCtx != some owner then some 5
  else if !m.fab.ctxOn.contains owner then some 6
  else none

/-- Setting ENABLE (R341, R342): a DISABLED pair is ENABLED or refused, a DRAINING one refuses with CMD_REFUSED, and one in ERROR
stores it. -/
def Mod.ringEnable (m : Mod) (n : Nat) : Mod :=
  let st := m.rf n RingEF.state
  if st = 3 then (m.setRf n RingEF.enable 0).refuse pgRng
  else if st != 0 then m.setRf n RingEF.enable 1
  else match m.enableReason n with
  | some c => (m.setRf n RingEF.enable 0).raise pgRng 9 (rngDetail n c 0)
  | none =>
    let m := [RingEF.sqHead, RingEF.cqTail, RingEF.verbsFailed, RingEF.errorCause].foldl (fun (a : Mod) f => a.setRf n f 0) m
    ((m.setPair n Pair.fresh).setRf n RingEF.enable 1).setRing n 1

/-- Clearing ENABLE (R342): an ENABLED pair is DRAINING; otherwise the bit is stored. -/
def Mod.ringDisable (m : Mod) (n : Nat) : Mod :=
  let m := m.setRf n RingEF.enable 0
  if m.rf n RingEF.state = 1 then m.setRing n 3 else m

/-- A write of bits of RING_CTL (R342, R359): RESET outranks ENABLE. -/
def Mod.ringCtl (m : Mod) (n : Nat) (val : Nat) : Mod :=
  if bit val 1 then m.ringReset n
  else if bit val 0 then (if m.rf n RingEF.enable = 1 && m.rf n RingEF.state != 3 then m else m.ringEnable n)
  else m.ringDisable n

/-- A write of `n` bits at bit `lo` of a register of a pair's entry (R340, R342): RING_STS and RING_ERR are read-only. -/
def Mod.ringWrite (m : Mod) (r off lo n val : Nat) : Mod :=
  if off = 0x28 then (if lo = 0 then m.ringCtl r val else m)
  else if 0x30 ≤ off then m
  else if m.rf r RingEF.state != 0 then m.refuse pgRng
  else (ringRw.filter fun f => f.off = off).foldl (fun (a : Mod) f => a.setRf r f (writeBits f (a.rf r f) lo n val)) m

/-- RING_SET: the entry's writable registers are written in offset order, RING_CTL last (R340). -/
def execRingSet (via : Via) (ring : Nat) (vals : List Nat) (s : State) : Outcome State Fault Refusal :=
  s.onM fun m => m.onMailbox via fun m =>
    if !ringOk ring then m.reply via .invalidInput []
    else ((upto 6).foldl (fun (a : Mod) i => a.ringWrite ring (8 * i) 0 64 (vals.getD i 0)) m).reply via .success []

/-- The 64 bytes of a pair's entry. -/
def Mod.ringBytes (m : Mod) (n : Nat) : List Byte := (upto 8).flatMap fun i => leBytes 8 (m.entryReg (ringAt n) (8 * i) RingEF.all)

/-- RING_GET: the whole entry (R340). -/
def execRingGet (via : Via) (ring : Nat) (s : State) : Outcome State Fault Refusal :=
  s.onM fun m => m.onMailbox via fun m =>
    if !ringOk ring then m.reply via .invalidInput [] else m.reply via .success (m.ringBytes ring)

/-- RING_ENABLE: ENABLE is written 1 (R341, R342). -/
def execRingEnable (ring : Nat) (s : State) : Outcome State Fault Refusal :=
  s.onUnit (ringOk ring) fun m => m.when m.runs fun m => m.ringCtl ring 1

/-- RING_DISABLE: ENABLE is written 0 (R342). -/
def execRingDisable (ring : Nat) (s : State) : Outcome State Fault Refusal :=
  s.onUnit (ringOk ring) fun m => m.when m.runs fun m => m.ringCtl ring 0

/-- RING_RESET: RESET is written 1 (R342). -/
def execRingReset (ring : Nat) (s : State) : Outcome State Fault Refusal :=
  s.onUnit (ringOk ring) fun m => m.when m.runs fun m => m.ringCtl ring 2

/-- RING_DRAINED: a DRAINING pair with nothing in flight is DISABLED, its streams closed (R284, R342). -/
def execRingDrained (ring : Nat) (s : State) : Outcome State Fault Refusal :=
  s.onUnit (ringOk ring) fun m =>
    if m.runs && m.rf ring RingEF.state = 3 && (m.pair ring).verbs.isEmpty then
      { (m.setRing ring 0).closeStreams ring with rng := mapDel m.rng ring }
    else m

/-! ## Checks (R345, R346) -/

/-- Addresses of the lines that hold a range, in order. -/
def linesOf (a n : Nat) : List Nat := if n = 0 then [] else List.range' (a / 64) ((a + n - 1) / 64 + 1 - a / 64)

/-- Fields of a submission entry (R345). -/
def Verb.op (v : Verb) : Nat := leAt v.entry 0 1
def Verb.flags (v : Verb) : Nat := leAt v.entry 1 1
def Verb.opA (v : Verb) : Nat := leAt v.entry 8 8
def Verb.opB (v : Verb) : Nat := leAt v.entry 16 8
def Verb.len (v : Verb) : Nat := leAt v.entry 24 8
def Verb.unit (v : Verb) : Nat := leAt v.entry 16 4
def Verb.nIn (v : Verb) : Nat := leAt v.entry 20 1
def Verb.nOut (v : Verb) : Nat := leAt v.entry 21 1
def Verb.k (v : Verb) : Nat := leAt v.entry 22 1
def Verb.mm (v : Verb) : Nat := leAt v.entry 23 1
def Verb.mode (v : Verb) : Nat := leAt v.entry 24 1
def Verb.srcLen (v : Verb) : Nat := leAt v.entry 24 4
def Verb.dstCap (v : Verb) : Nat := leAt v.entry 28 4
def Verb.lexicon (v : Verb) : Nat := leAt v.entry 32 2
def Verb.slotOp (v : Verb) : Nat := leAt v.entry 34 2
def Verb.fence (v : Verb) : Bool := bit v.flags 0
def Verb.notifyNow (v : Verb) : Bool := bit v.flags 1
def Verb.stream (v : Verb) : Bool := bit v.flags 2
def Verb.opens (v : Verb) : Bool := bit v.flags 3
def Verb.closes (v : Verb) : Bool := bit v.flags 4
def Verb.resets (v : Verb) : Bool := bit v.flags 5

/-- COMPRESS or DECOMPRESS. -/
def Verb.lexOp (v : Verb) : Bool := v.op = 7 || v.op = 8

/-- First byte of the entry's tail that is zero for an opcode (R345). -/
def verbTail (op : Nat) : Nat :=
  if op = 0 then 8 else if op = 3 then 33 else if op = 5 || op = 6 then 25 else if op = 7 || op = 8 then 36 else if op = 9 then 24 else 32

/-- Counts of an erasure-coding verb (R348). -/
def Verb.ecOk (v : Verb) : Bool :=
  v.opA % 64 = 0 && v.unit % 64 = 0 && decide (64 ≤ v.unit) && decide (v.unit ≤ 2 ^ 20) &&
  (if v.mode = 0 then decide (2 ≤ v.k) && decide (v.k ≤ 14) && decide (1 ≤ v.mm) && decide (v.mm ≤ 4) && v.nIn = v.k &&
                      decide (1 ≤ v.nOut) && decide (v.nOut ≤ v.mm)
   else v.mode = 1 && decide (1 ≤ v.nIn) && decide (v.nIn ≤ 14) && decide (1 ≤ v.nOut) && decide (v.nOut ≤ 4) && v.k = 0 && v.mm = 0)

/-- Operands of COMPRESS and DECOMPRESS (R349). -/
def Verb.lexOk (v : Verb) : Bool :=
  let c := v.op = 7
  (if v.stream then
     (if v.opens then v.slotOp = 0 else v.lexicon = 0 && decide (v.slotOp < 32768)) && (c || !v.resets)
   else !v.opens && !v.closes && !v.resets && v.slotOp = 0) &&
  decide (v.lexicon < 16384) &&
  (!c || (decide (1 ≤ v.srcLen) && decide (v.srcLen ≤ modeLimit v.stream) && decide (v.srcLen + 8 ≤ v.dstCap)))

/-- What the entry alone can show wrong: INVALID (R345 to R349). -/
def Verb.shapeOk (v : Verb) : Bool :=
  let op := v.op
  leAt v.entry 2 2 = 0 && decide (v.flags < 64) && (v.lexOp || decide (v.flags < 4)) && (v.entry.drop (verbTail op)).all (fun b => decide (b = 0#8)) &&
  (if 1 ≤ op && op ≤ 4 then
     decide (1 ≤ v.len) && decide (v.len ≤ 2 ^ 30) && (op != 3 || (let kind := leAt v.entry 32 1
                                                                   kind = 1 || (kind = 0 && decide (v.opB < 2 ^ 32))))
   else if op = 5 || op = 6 then v.ecOk
   else if v.lexOp then v.lexOk
   else if op = 9 then v.opA % 64 = 0 && v.opB % 64 = 0
   else true)

/-- Sources and destinations that the entry names, as (address, length); of an erasure-coding verb its list (R345). -/
def Verb.ranges (v : Verb) : List (Nat × Nat) × List (Nat × Nat) :=
  let op := v.op
  if op = 1 then ([(v.opA, v.len)], [(v.opB, v.len)])
  else if op = 2 then ([], [(v.opA, v.len)])
  else if op = 3 then ([(v.opA, v.len)], [])
  else if op = 4 then ([(v.opA, v.len), (v.opB, v.len)], [])
  else if op = 5 || op = 6 then ([(v.opA, 256)], [])
  else if v.lexOp then ([(v.opA, v.srcLen)], [(v.opB, v.dstCap)])
  else if op = 9 then ([(v.opB, 64)], [(v.opA, 64)])
  else ([], [])

/-- A destination meets another destination, a source, or other memory. -/
def destMeets (srcs other : List (Nat × Nat)) : List (Nat × Nat) → Bool
  | [] => false
  | d :: t => rangesMeet [d] (t ++ srcs ++ other) || destMeets srcs other t

/-- The checks DOMAIN, OVERLAP and STOP_LINE_IN_DST of R346 in order: the first that fails. -/
def Mod.rangeStatus (m : Mod) (n : Nat) (srcs dsts : List (Nat × Nat)) (fullStop : Bool) : Option Nat :=
  if !((srcs ++ dsts).all fun r => m.ringRange n (fun _ => true) r.1 r.2) then some 0x12
  else if destMeets srcs (m.ringMem n) dsts then some 0x13
  else if !fullStop && (m.led.wins.any fun w => w.2.counts && rangesMeet dsts [(w.2.entry.stopDpa, 64)]) then some 0x14
  else none

/-- The status a verb ends with before it reads anything (R346). -/
def Mod.verbCheck (m : Mod) (n : Nat) (v : Verb) : Option Nat :=
  if 9 < v.op then some 0x10
  else if !v.shapeOk then some 0x11
  else m.rangeStatus n v.ranges.1 v.ranges.2 (v.op = 9)

/-! ## Starting (R350, R354, R355) -/

/-- Verbs started and not posted (R360). -/
def Mod.verbsRunning (m : Mod) : Nat := m.rng.foldl (fun a e => a + (e.2.verbs.filter fun v => v.started).length) 0

/-- A verb ends: its outcome, and VERB_STALE for one that ends STALE (R361). -/
def Mod.verbEnd (m : Mod) (n : Nat) (v : Verb) (st r0 r1 : Nat) : Mod :=
  let m := m.verbOutcome n v.ser st r0 r1
  if st = 0x18 then m.raise pgRng 10 (rngDetail n st v.idx) else m

/-- A verb starts: it is checked, and ends at once where a check fails (R346). -/
def Mod.verbStart (m : Mod) (n : Nat) (v : Verb) : Mod :=
  let m := (m.updVerb n v.ser fun v => { v with started := true }).count pgRng 0x100 1
  match m.verbCheck n v with
  | some st => m.verbEnd n v st 0 0
  | none => m

/-- Verbs of a pair start in submission order (R354): FENCE and FULL_STOP wait until every earlier verb has posted, and 4,096 run at
once across all pairs. `first` says that no earlier verb is unposted. -/
def Mod.startFrom (m : Mod) (n : Nat) : Bool → List Verb → Mod
  | _, [] => m
  | first, v :: t =>
    if v.started then m.startFrom n false t
    else if v.step = .entry || (!first && (v.fence || v.op = 9)) || decide (4096 ≤ m.verbsRunning) then m
    else (m.verbStart n v).startFrom n false t

/-- Verbs of every pair that may start do (R354, R355). -/
def Mod.startVerbs (m : Mod) : Mod := m.rng.foldl (fun (a : Mod) e => a.startFrom e.1 true (a.pair e.1).verbs) m

/-- A request of a verb is at a slice or waits for one. -/
def Mod.verbWaits (m : Mod) (n ser : Nat) : Bool := m.led.reqs.any fun r => r.who = .verb n ser

/-- Lines are read for a verb: what it does next follows once all are answered (R355). -/
def Mod.verbRead (m : Mod) (n : Nat) (v : Verb) (step : VerbStep) (ls : List Nat) : Mod :=
  let m := m.updVerb n v.ser fun v => { v with step := step, got := [] }
  ls.foldl (fun (a : Mod) l => let q := a.newReq (.verb n v.ser) l .rdCur 0 none
                               q.1.arrive q.2) m

/-- A line to be written for a verb: its bytes, mask, poison, and how many operand bytes it carries. -/
structure VerbPut where
  line : Nat
  data : List Byte
  mask : Nat
  poison : Bool
  count : Nat
  deriving DecidableEq, Repr

/-- Lines are written for a verb, each a write in the sense of chapter 03 (R351). -/
def Mod.verbWrite (m : Mod) (n : Nat) (v : Verb) (ps : List VerbPut) : Mod :=
  let m := m.updVerb n v.ser fun v => { v with step := .write, got := [], wrote := [], puts := ps.map fun p => (p.line, p.count, p.poison) }
  ps.foldl (fun (a : Mod) p => let q := a.newReq (.verb n v.ser) p.line (.wr p.data p.mask p.poison) 0 none
                               q.1.arrive q.2) m

/-! ## Doorbells and entries (R343, R344) -/

/-- DOORBELL: the slice hands over the values of the oldest accepted write of the doorbell line (R343). -/
def execDoorbell (ring : Nat) (s : State) : Outcome State Fault Refusal :=
  s.onUnit (ringOk ring) fun m => match (m.pair ring).bells with
    | [] => m
    | (t, h) :: rest =>
      if !m.runs || m.saving || !m.ringOn ring then m
      else if decide (2 ^ m.rf ring RingEF.sqLog2 ≤ t) || decide (2 ^ m.rf ring RingEF.cqLog2 ≤ h) then m.ringError ring 1
      else (m.updPair ring fun p => { p with bells := rest, tail := t, head := h }).tally pgRng RngF.doorbells 0x103 1

/-- A verb just taken from the submission ring, its entry not yet read. -/
def Verb.new (ser idx : Nat) : Verb :=
  { ser := ser, idx := idx, entry := [], started := false, step := .entry, got := [], puts := [], wrote := [], bad := [], slot := 0,
    lex := none, outcome := none, order := 0 }

/-- A completion of the pair waits for room in its completion ring (R353). -/
def Mod.cqFull (m : Mod) (n : Nat) : Bool :=
  (m.rf n RingEF.cqTail + 1) % 2 ^ m.rf n RingEF.cqLog2 = (m.pair n).head

/-- The read of the next entry begins: one that waits in the ring, within MAX_INFLIGHT, while no completion waits (R344, R353,
R354). -/
def Mod.entryAsk (m : Mod) (n : Nat) : Mod :=
  let p := m.pair n
  let idx := m.rf n RingEF.sqHead
  if m.rf n RingEF.state != 1 || p.tail = idx || decide (m.rf n RingEF.maxInflight ≤ p.verbs.length) ||
     (m.cqFull n && p.verbs.any fun v => v.outcome.isSome) then m
  else
    let v := Verb.new p.taken idx
    let m := m.updPair n fun p => { p with verbs := p.verbs ++ [v], taken := p.taken + 1 }
    m.verbRead n v .entry [m.rf n RingEF.sqBase * 64 + idx]

/-- SQ_ENTRY_READ: the ring engine reads the entry at SQ_HEAD, advances SQ_HEAD and starts what may start (R344, R354); poison puts
the pair in ERROR. A read that waits for its line is finished by a later SQ_ENTRY_READ. -/
def execSqEntryRead (ring : Nat) (s : State) : Outcome State Fault Refusal :=
  s.onUnit (ringOk ring) fun m => if !m.runs || m.saving then m else
    let m := if (m.pair ring).verbs.any fun v => v.step = .entry then m else m.entryAsk ring
    match (m.pair ring).verbs.find? fun v => v.step = .entry with
    | none => m
    | some v => match v.got with
      | [] => m
      | (_, bs, poison) :: _ =>
        if poison then m.ringError ring 3
        else
          let m := m.updVerb ring v.ser fun v => { v with entry := bs, step := .taken, got := [] }
          (m.setRf ring RingEF.sqHead ((v.idx + 1) % 2 ^ m.rf ring RingEF.sqLog2)).startVerbs

/-! ## Completions (R353, R356) -/

/-- The pair notifies its owner (R356). -/
def Mod.notify (m : Mod) (n : Nat) : Mod :=
  let m := m.updPair n fun p => { p with unnotified := 0 }
  let k := m.rf n RingEF.notify
  if k = 1 then
    let r := m.wake (m.rf n RingEF.ownerCtx)
    if r.2 then r.1.add pgRng RngF.notifications 1 else r.1
  else if k = 2 then (m.signal (m.rf n RingEF.msixVector)).add pgRng RngF.notifications 1
  else m

/-- The next verb whose completion posts: the first that completed (R354). -/
def Mod.nextPost (m : Mod) (n : Nat) : Option Verb :=
  let done := (m.pair n).verbs.filter fun v => v.outcome.isSome
  done.find? fun v => done.all fun w => decide (v.order ≤ w.order)

/-- A completion entry (R353). -/
def Mod.cqEntry (m : Mod) (n : Nat) (v : Verb) : List Byte :=
  let o := v.outcome.getD (0, 0, 0)
  slice v.entry 4 4 ++ leBytes 2 v.idx ++ leBytes 2 (m.rf n RingEF.sqHead) ++ leBytes 1 o.1 ++ leBytes 1 v.op ++
  leBytes 1 (m.pair n).phase ++ zeros 5 ++ leBytes 8 o.2.1 ++ leBytes 8 o.2.2 ++ zeros 32

/-- The completion entry has been written (R353, R356): CQ_TAIL advances, PHASE inverts as it wraps, counts follow, and the pair may
notify. -/
def Mod.posted (m : Mod) (n : Nat) (v : Verb) : Mod :=
  let st := (v.outcome.getD (0, 0, 0)).1
  let t := (m.rf n RingEF.cqTail + 1) % 2 ^ m.rf n RingEF.cqLog2
  let m := (m.setRf n RingEF.cqTail t).tally pgRng RngF.verbsDone 0x101 1
  let m := if st = 0 then m else
    (((m.add pgRng RngF.verbsFailed 1).setRf n RingEF.verbsFailed (m.rf n RingEF.verbsFailed + 1)).setRf n RingEF.lastStatus st).setRf n
      RingEF.lastSqIndex v.idx
  let now := m.tick
  let m := m.updPair n fun p => { p with
    verbs := p.verbs.filter fun w => w.ser != v.ser, phase := if t = 0 then 1 - p.phase else p.phase,
    since := if p.unnotified = 0 then now else p.since, unnotified := p.unnotified + 1, waiting := false }
  let m := if v.notifyNow || decide (max 1 (m.rf n RingEF.coalesceCount) ≤ (m.pair n).unnotified) then m.notify n else m
  m.startVerbs

/-- The write of a completion entry has been answered. -/
def Mod.postDone (m : Mod) (n : Nat) (v : Verb) : Mod := match m.verb n v.ser with
  | some v => if v.wrote.isEmpty then m else m.posted n v
  | none => m

/-- VERB_COMPLETE: a completed verb whose turn it is posts its completion entry where the completion ring has room (R353, R354). An
entry whose line waits for snoops is finished by a later VERB_COMPLETE. -/
def execVerbComplete (ring idx : Nat) (s : State) : Outcome State Fault Refusal :=
  s.onUnit (ringOk ring) fun m => if !m.runs || m.saving || !m.ringOn ring then m else match m.nextPost ring with
    | none => m
    | some v =>
      if v.idx != idx then m
      else if v.step = .post then m.postDone ring v
      else if m.cqFull ring then
        (if (m.pair ring).waiting then m
         else (m.updPair ring fun p => { p with waiting := true }).add pgRng RngF.cqFullWaits 1)
      else
        let l := m.rf ring RingEF.cqBase * 64 + m.rf ring RingEF.cqTail
        let e := m.cqEntry ring v
        let m := m.updVerb ring v.ser fun v => { v with step := .post, wrote := [], bad := [] }
        let q := m.newReq (.verb ring v.ser) l (.wr e fullMask false) 0 none
        (q.1.arrive q.2).postDone ring v

/-- COALESCE_TIMER: COALESCE_TICKS after the oldest completion not yet notified, the pair notifies (R356). -/
def execCoalesceTimer (ring : Nat) (s : State) : Outcome State Fault Refusal :=
  s.onUnit (ringOk ring) fun m =>
    let p := m.pair ring
    let c := m.rf ring RingEF.coalesceTicks
    if !m.runs || m.saving || !m.ringOn ring || p.unnotified = 0 || c = 0 then m
    else (m.until_ (p.since + c)).notify ring

end Sys2Proof.Machine
end

