-- ==== Sys2Proof/Machine/Verbs.lean ====
section
/-!
DEFINITION. Machine/Verbs.lean: the verbs of ring pairs (R347 to R352). Each command carries its verb as far as it goes: a verb whose
lines wait (for snoops, tiers, holds, ledger entries) or whose block is at a lexicon engine goes on when its command comes again.
-/
namespace Sys2Proof.Machine

open Host

/-! ## Shared -/

/-- Operand bytes of a range that has been read. -/
def Verb.bytes (v : Verb) (a n : Nat) : List Byte :=
  (((linesOf a n).flatMap fun l => (mapGetD v.got l (zeros 64, false)).1).drop (a % 64)).take n

/-- The line was read with poison. -/
def Verb.poisoned (v : Verb) (l : Nat) : Bool := (mapGetD v.got l (zeros 64, false)).2

/-- Lines of a range read with poison. -/
def Verb.poisonIn (v : Verb) (a n : Nat) : List Nat := (linesOf a n).filter fun l => v.poisoned l

/-- Bytes of a range before its first poisoned line. -/
def Verb.sound (v : Verb) (a n : Nat) : Nat := match v.poisonIn a n with
  | [] => n
  | l :: _ => l * 64 - a

/-- Operand bytes have been read for a verb (R360, R450). -/
def Mod.verbBytesRead (m : Mod) (n : Nat) : Mod := m.tally pgRng RngF.bytesRead 0x102 n

/-- The lines of `n` bytes at `a`, the byte at index i being `f i`; `pois` says which of the bytes from an index on, so many, carry
poison. -/
def putsOf (a n : Nat) (f : Nat → Byte) (pois : Nat → Nat → Bool) : List VerbPut :=
  (linesOf a n).map fun l =>
    let lo := max (l * 64) a
    let hi := min (l * 64 + 64) (a + n)
    { line := l, data := (upto 64).map fun i => if lo ≤ l * 64 + i && l * 64 + i < hi then f (l * 64 + i - a) else 0#8,
      mask := 2 ^ (hi - l * 64) - 2 ^ (lo - l * 64), poison := pois (lo - a) (hi - lo), count := hi - lo }

/-- What was written before the first line turned away (R352). -/
def Verb.putsDone (v : Verb) : List (Nat × Nat × Bool) := v.puts.takeWhile fun p => !v.bad.contains p.1

/-- A verb's writes are all answered: what they carried is counted, and it ends, STALE where one was turned away (R346, R352).
`lines` says that RESULT0 counts lines, `st` and `r1` how it ends otherwise; lines with poison make POISON_COPIED. -/
def Mod.verbWritten (m : Mod) (n : Nat) (v : Verb) (lines : Bool) (st : Nat) (r1 : Option Nat) : Mod :=
  let done := v.putsDone
  let bytes := done.foldl (fun a p => a + p.2.1) 0
  let m := m.tally pgRng RngF.bytesWritten 0x102 ((v.puts.filter fun p => v.wrote.contains p.1).foldl (fun a p => a + p.2.1) 0)
  let r0 := if lines then done.length else bytes
  if v.bad != [] then m.verbEnd n v 0x18 r0 0
  else
    let poisoned := (done.filter fun p => p.2.2).length
    if 0 < poisoned then m.verbEnd n v 0x17 r0 poisoned else m.verbEnd n v st r0 (r1.getD 0)

/-- A verb goes on while it has something to do: `f` is its next stage; it stops with an outcome, or while sub-operations wait. -/
def Mod.verbLoop (f : Mod → Verb → Mod) (n ser : Nat) : Nat → Mod → Mod
  | 0, m => m
  | k + 1, m => match m.verb n ser with
    | none => m
    | some v => if v.outcome.isSome || m.verbWaits n ser then m else Mod.verbLoop f n ser k (f m v)

/-- The command of a verb: the first verb of the pair at this submission index that has started and not completed, if it has this
opcode, goes on (R354). -/
def State.onVerb (s : State) (ring idx op : Nat) (f : Mod → Verb → Mod) : Outcome State Fault Refusal :=
  s.onUnit (ringOk ring) fun m => if !m.runs || m.saving || !m.ringOn ring then m else
    let m := m.startVerbs
    match (m.pair ring).verbs.find? fun v => v.idx = idx && v.op = op && v.started && v.outcome.isNone with
    | some v => m.verbLoop f ring v.ser 6
    | none => m

/-! ## NOP, COPY, FILL, CHECKSUM, COMPARE (R347) -/

/-- VERB_NOP: nothing is done (R345). -/
def execVerbNop (ring idx : Nat) (s : State) : Outcome State Fault Refusal := s.onVerb ring idx 0 fun m v => m.verbEnd ring v 0 0 0

/-- A stage of COPY. -/
def Mod.copyStage (m : Mod) (n : Nat) (v : Verb) : Mod := match v.step with
  | .taken => m.verbRead n v .source (linesOf v.opA v.len)
  | .source =>
    if v.bad != [] then m.verbEnd n v 0x18 0 0
    else
      let bs := v.bytes v.opA v.len
      (m.verbBytesRead v.len).verbWrite n v (putsOf v.opB v.len (fun i => bs.getD i 0#8)
        fun i k => (v.poisonIn (v.opA + i) k) != [])
  | .write => m.verbWritten n v false 0 none
  | _ => m

/-- VERB_COPY: R347. -/
def execVerbCopy (ring idx : Nat) (s : State) : Outcome State Fault Refusal := s.onVerb ring idx 1 fun m v => m.copyStage ring v

/-- A stage of FILL: the byte at DPA a is byte a mod 8 of PATTERN. -/
def Mod.fillStage (m : Mod) (n : Nat) (v : Verb) : Mod := match v.step with
  | .taken => m.verbWrite n v (putsOf v.opA v.len (fun i => v.entry.getD (16 + (v.opA + i) % 8) 0#8) fun _ _ => false)
  | .write => m.verbWritten n v false 0 none
  | _ => m

/-- VERB_FILL: R347. -/
def execVerbFill (ring idx : Nat) (s : State) : Outcome State Fault Refusal := s.onVerb ring idx 2 fun m v => m.fillStage ring v

/-- A stage of CHECKSUM: the CRC of the source after SEED; poison ends it with the bytes before it as RESULT0. -/
def Mod.checksumStage (m : Mod) (n : Nat) (v : Verb) : Mod := match v.step with
  | .taken => m.verbRead n v .source (linesOf v.opA v.len)
  | .source =>
    if v.bad != [] then m.verbEnd n v 0x18 0 0
    else
      let m := m.verbBytesRead v.len
      if v.poisonIn v.opA v.len != [] then m.verbEnd n v 0x16 (v.sound v.opA v.len) 0
      else
        let bs := v.bytes v.opA v.len
        m.verbEnd n v 0 (if leAt v.entry 32 1 = 0 then crc32c v.opB bs else crc64 v.opB bs) 0
  | _ => m

/-- VERB_CHECKSUM: R347. -/
def execVerbChecksum (ring idx : Nat) (s : State) : Outcome State Fault Refusal := s.onVerb ring idx 3 fun m v => m.checksumStage ring v

/-- Offset of the first byte in which two lists differ. -/
def firstDiff : List Byte → List Byte → Nat
  | a :: s, b :: t => if a = b then firstDiff s t + 1 else 0
  | _, _ => 0

/-- A stage of COMPARE: both ranges are read whole, so poison in either ends it (log entry 40). -/
def Mod.compareStage (m : Mod) (n : Nat) (v : Verb) : Mod := match v.step with
  | .taken => m.verbRead n v .source ((linesOf v.opA v.len) ++ (linesOf v.opB v.len).filter fun l => !(linesOf v.opA v.len).contains l)
  | .source =>
    if v.bad != [] then m.verbEnd n v 0x18 0 0
    else
      let m := m.verbBytesRead (2 * v.len)
      let ok := min (v.sound v.opA v.len) (v.sound v.opB v.len)
      if (v.poisonIn v.opA v.len ++ v.poisonIn v.opB v.len) != [] then m.verbEnd n v 0x16 ok 0
      else m.verbEnd n v 0 (firstDiff (v.bytes v.opA v.len) (v.bytes v.opB v.len)) 0
  | _ => m

/-- VERB_COMPARE: R347. -/
def execVerbCompare (ring idx : Nat) (s : State) : Outcome State Fault Refusal := s.onVerb ring idx 4 fun m v => m.compareStage ring v

/-! ## Erasure coding (R348) -/

/-- The list of an erasure-coding verb. -/
structure EcList where
  ins : List Nat
  outs : List Nat
  inPos : List Nat
  outPos : List Nat
  matrix : List (List Nat)
  deriving DecidableEq, Repr

/-- The 256 bytes of a list, for the verb's counts (R348). -/
def ecList (v : Verb) (b : List Byte) : EcList :=
  { ins := (upto v.nIn).map fun i => leAt b (8 * i) 8, outs := (upto v.nOut).map fun i => leAt b (112 + 8 * i) 8,
    inPos := (upto v.nIn).map fun i => leAt b (144 + i) 1, outPos := (upto v.nOut).map fun i => leAt b (158 + i) 1,
    matrix := (upto v.nOut).map fun r => (upto v.nIn).map fun i => leAt b (168 + 14 * r + i) 1 }

/-- Bytes [lo, lo + n) are zero. -/
def zeroAt (b : List Byte) (lo n : Nat) : Bool := (slice b lo n).all fun x => decide (x = 0#8)

/-- No value occurs twice. -/
def distinct (l : List Nat) : Bool := l.eraseDups.length = l.length

/-- The rules of R348 for a list: unused inputs, outputs and positions are zero, and MODE 0 does not look at the matrix (log entry 40). -/
def Verb.listOk (v : Verb) (b : List Byte) : Bool :=
  let e := ecList v b
  zeroAt b (8 * v.nIn) (112 - 8 * v.nIn) && zeroAt b (112 + 8 * v.nOut) (32 - 8 * v.nOut) && zeroAt b (144 + v.nIn) (14 - v.nIn) &&
  zeroAt b (158 + v.nOut) (4 - v.nOut) && zeroAt b 162 6 && zeroAt b 224 32 && (e.ins ++ e.outs).all (fun a => a % 64 = 0) &&
  (if v.mode = 1 then zeroAt b 144 18
   else
    distinct e.outPos &&
    (if v.op = 5 then e.inPos = upto v.k && e.outPos.all fun p => decide (v.k ≤ p) && decide (p < v.k + v.mm)
     else distinct e.inPos && e.inPos.all (fun p => decide (p < v.k + v.mm)) &&
          e.outPos.all fun p => decide (p < v.k + v.mm) && !e.inPos.contains p))

/-- Coefficients of an output: the matrix's row, or the module's own code (R90, R348). -/
def Verb.coefs (v : Verb) (e : EcList) (r : Nat) : List Nat :=
  if v.mode = 1 then e.matrix.getD r [] else recoverCoefs v.k e.inPos (e.outPos.getD r 0)

/-- The lines of the outputs; poison carries over from every input line whose coefficient is not zero (R347). -/
def Verb.ecPuts (v : Verb) (e : EcList) : List VerbPut :=
  (upto v.nOut).flatMap fun r =>
    let cs := v.coefs e r
    (upto (v.unit / 64)).map fun o =>
      let src := List.zip cs (e.ins.map fun a => a / 64 + o)
      { line := e.outs.getD r 0 / 64 + o, data := gfSum 64 (src.map fun x => (x.1, (mapGetD v.got x.2 (zeros 64, false)).1)),
        mask := fullMask, poison := src.any fun x => x.1 != 0 && v.poisoned x.2, count := 64 }

/-- A stage of EC_ENCODE and EC_RECONSTRUCT: the list is read and checked, then the inputs; the outputs are written (R348). The list's
bytes travel with the verb in `lex`. -/
def Mod.ecStage (m : Mod) (n : Nat) (v : Verb) : Mod := match v.step with
  | .taken => m.verbRead n v .list (linesOf v.opA 256)
  | .list =>
    if v.bad != [] then m.verbEnd n v 0x18 0 0
    else if v.poisonIn v.opA 256 != [] then m.verbEnd n v 0x16 0 0
    else
      let b := v.bytes v.opA 256
      if !v.listOk b then m.verbEnd n v 0x11 0 0
      else
        let e := ecList v b
        match m.rangeStatus n (e.ins.map fun a => (a, v.unit)) (e.outs.map fun a => (a, v.unit)) false with
        | some st => m.verbEnd n v st 0 0
        | none => ((m.verbBytesRead 256).updVerb n v.ser fun v => { v with lex := some (0, b) }).verbRead n v .source
                    (e.ins.flatMap fun a => linesOf a v.unit).eraseDups
  | .source =>
    if v.bad != [] then m.verbEnd n v 0x18 0 0
    else (m.verbBytesRead (v.nIn * v.unit)).verbWrite n v (v.ecPuts (ecList v ((v.lex.getD (0, [])).2)))
  | .write => m.verbWritten n v true 0 none
  | _ => m

/-- VERB_EC_ENCODE: R348. -/
def execVerbEcEncode (ring idx : Nat) (s : State) : Outcome State Fault Refusal := s.onVerb ring idx 5 fun m v => m.ecStage ring v

/-- VERB_EC_RECONSTRUCT: R348. -/
def execVerbEcReconstruct (ring idx : Nat) (s : State) : Outcome State Fault Refusal := s.onVerb ring idx 6 fun m v => m.ecStage ring v

/-! ## COMPRESS and DECOMPRESS (R284, R349) -/

/-- An earlier verb of the pair that names the same stream has not completed: blocks of a stream run in ring order (R283). -/
def Mod.streamBusy (m : Mod) (n : Nat) (v : Verb) : Bool :=
  v.stream && !v.opens && ((m.pair n).verbs.takeWhile fun w => w.ser != v.ser).any fun w =>
    w.lexOp && w.started && w.stream && !w.opens && w.slotOp = v.slotOp && w.outcome.isNone

/-- The lowest free verb slot (R284). -/
def Mod.freeStream (m : Mod) : Option Nat := (List.range' 64 32704).find? fun i => (mapGet m.lex.streams i).isNone

/-- The lexicon or stream a block is to use (R276, R284, R346): the status the verb ends with, or the machine with the stream opened
and its slot. -/
def Mod.streamFor (m : Mod) (n : Nat) (v : Verb) : Mod × Except Nat Nat :=
  if !v.stream || v.opens then
    if !m.lexReady v.lexicon then (m, .error dcUnavailable)
    else if !v.stream then (m, .ok 0)
    else match m.freeStream with
    | none => (m.raise (pgLex (m.lexEngine 4)) 11 (lexDetail dcNoSlot 4 0 v.lexicon), .error dcNoSlot)
    | some i =>
      let x : Stream := { pair := n, compress := v.op = 7, seed := v.lexicon, hist := m.lexBytes v.lexicon, lost := false }
      ({ m with lex := { m.lex with streams := mapPut m.lex.streams i x, gone := m.lex.gone.filter fun g => g != i } }, .ok i)
  else match mapGet m.lex.streams v.slotOp with
  | none => (m, .error (if m.lex.gone.contains v.slotOp then dcLost else 0x19))
  | some x =>
    if x.pair != n || x.compress != decide (v.op = 7) then (m, .error 0x19)
    else if x.lost then (m, .error dcLost)
    else if !m.lexReady x.seed then (m, .error dcUnavailable)
    else (m, .ok v.slotOp)

/-- A verb's stream closes: asked for by CLOSE, or opened by a block that did not end OK (log entry 40). -/
def Mod.closeAfter (m : Mod) (v : Verb) (st : Nat) : Mod :=
  if v.stream && 64 ≤ v.slot && (v.closes || (v.opens && st != 0)) then
    { m with lex := { m.lex with streams := mapDel m.lex.streams v.slot } }
  else m

/-- A verb with a lexicon block ends. -/
def Mod.lexEnd (m : Mod) (n : Nat) (v : Verb) (st r0 r1 : Nat) : Mod := (m.closeAfter v st).verbEnd n v st r0 r1

/-- RESULT1 of a lexicon verb (R352). -/
def Verb.lexResult (v : Verb) : Nat := if v.stream then v.slot % 32768 + 32768 else 0

/-- A stage of COMPRESS and DECOMPRESS: the source is read, the block joins an engine's queue, and what the engine gave is written at
DST. -/
def Mod.lexStage (m : Mod) (n : Nat) (v : Verb) : Mod := match v.step with
  | .taken =>
    if m.streamBusy n v then m else
    let q := m.streamFor n v
    (match q.2 with
     | .error st => q.1.verbEnd n v st 0 0
     | .ok slot => (q.1.updVerb n v.ser fun v => { v with slot := slot }).verbRead n v .source (linesOf v.opA v.srcLen))
  | .source =>
    if v.bad != [] then m.lexEnd n v 0x18 0 0
    else if v.poisonIn v.opA v.srcLen != [] then m.lexEnd n v 0x16 0 0
    else
      let m := (m.verbBytesRead v.srcLen).updVerb n v.ser fun v => { v with step := .lexicon, got := [] }
      let lx := if v.stream && !v.opens then ((mapGet m.lex.streams v.slot).map Stream.seed).getD 0 else v.lexicon
      m.lexQueue (m.lexEngine 4) { cls := 4, compress := v.op = 7, owner := n * 2 ^ 32 + v.ser, slot := if v.stream then some v.slot else none,
                                   lexicon := lx, bytes := v.bytes v.opA v.srcLen, arrived := m.tick }
  | .lexicon => (match v.lex with
    | none => m
    | some (_, out) => m.verbWrite n v (putsOf v.opB out.length (fun i => out.getD i 0#8) fun _ _ => false))
  | .write =>
    let st := (v.lex.getD (0, [])).1
    let m := m.closeAfter v (if v.bad = [] then st else 0x18)
    m.verbWritten n v false st (if st = 0 then some v.lexResult else none)
  | _ => m

/-- VERB_COMPRESS: R349. -/
def execVerbCompress (ring idx : Nat) (s : State) : Outcome State Fault Refusal := s.onVerb ring idx 7 fun m v => m.lexStage ring v

/-- VERB_DECOMPRESS: R349. -/
def execVerbDecompress (ring idx : Nat) (s : State) : Outcome State Fault Refusal := s.onVerb ring idx 8 fun m v => m.lexStage ring v

/-! ## FULL_STOP (R350) -/

/-- A stage of FULL_STOP: the line at SRC is read and written to STOP as a full stop, which completes the verb at step 5 of R59. -/
def Mod.fullStopStage (m : Mod) (n : Nat) (v : Verb) : Mod := match v.step with
  | .taken => m.verbRead n v .source [v.opB / 64]
  | .source =>
    if v.bad != [] then m.verbEnd n v 0x18 0 0
    else
      let m := m.verbBytesRead 64
      if v.poisoned (v.opB / 64) then m.verbEnd n v 0x16 0 0
      else m.verbWrite n v [{ line := v.opA / 64, data := v.bytes v.opB 64, mask := fullMask, poison := false, count := 64 }]
  | .write => if v.bad != [] then m.verbEnd n v 0x18 0 0 else m
  | _ => m

/-- VERB_FULL_STOP: R350. -/
def execVerbFullStop (ring idx : Nat) (s : State) : Outcome State Fault Refusal := s.onVerb ring idx 9 fun m v => m.fullStopStage ring v

end Sys2Proof.Machine
end

