-- ==== Sys2Proof/Machine/Lexicon.lean ====
section
/-!
DEFINITION. Machine/Lexicon.lean: preset lexicons (R279 to R282) and the work of the lexicon engines for the tier mover and for
verbs (R254, R283, R287, R349).
-/
namespace Sys2Proof.Machine

open Host

/-- A lexicon a command may name (R281). -/
def lexOk (n : Nat) : Bool := decide (1 ≤ n) && decide (n < 16384)

/-- State codes of a lexicon (R279). -/
def lexCode : Option Lexicon → Nat
  | none => 0
  | some x => match x.st with
    | .loading => 1 | .ready => 2 | .faulty => 3

/-- PACKED pages, and moves to PACKED, whose LEXICON field names a lexicon. -/
def Mod.packedBy (m : Mod) (n : Nat) : Nat :=
  (m.tier.pages.filter fun e => match e.2.st with
    | .packed _ _ _ lx => lx = n
    | _ => false).length +
  (m.tier.moves.filter fun e => match e.2 with
    | .packed _ _ _ lx => lx = n
    | _ => false).length

/-- Open streams seeded by a lexicon. -/
def Mod.seededBy (m : Mod) (n : Nat) : Nat := (m.lex.streams.filter fun e => e.2.seed = n).length

/-- The reference count of a lexicon (R280). -/
def Mod.lexRefs (m : Mod) (n : Nat) : Nat := (m.lex.domains.filter fun e => e.2 = n).length + m.packedBy n + m.seededBy n

def Mod.setLexicon (m : Mod) (n : Nat) (x : Lexicon) : Mod := { m with lex := { m.lex with presets := mapPut m.lex.presets n x } }

/-- LEX_WRITE: R281. A FAULTY lexicon to which no page and no stream refers is loaded again (R280). -/
def execLexWrite (via : Via) (lex off : Nat) (data : List Byte) (s : State) : Outcome State Fault Refusal :=
  s.onM fun m => m.onMailbox via fun m =>
    if !lexOk lex || data.length = 0 || decide (16376 < data.length) || decide (32768 < off + data.length) then m.reply via .invalidInput []
    else
      let put := fun (bs : List Byte) =>
        let x : Lexicon := { st := .loading, bytes := patch (bs ++ zeros (off - bs.length)) off data, len := 0, crc := 0 }
        (m.setLexicon lex x).reply via .success []
      match mapGet m.lex.presets lex with
      | none => put []
      | some x => match x.st with
        | .loading => put x.bytes
        | .faulty => if m.packedBy lex = 0 && m.seededBy lex = 0 then put [] else m.reply via .busy []
        | .ready => m.reply via .busy []

/-- LEX_COMMIT: the CRC over the first bytes is checked (R281); a READY lexicon is copied to the vault's lexicon area (R398). A
lexicon that is not LOADING has nothing to commit (log entry 41). -/
def execLexCommit (via : Via) (lex len crc : Nat) (s : State) : Outcome State Fault Refusal :=
  s.onM fun m => m.onMailbox via fun m =>
    if !lexOk lex || len = 0 || decide (32768 < len) then m.reply via .invalidInput []
    else match mapGet m.lex.presets lex with
    | none => m.reply via .invalidInput []
    | some x =>
      if x.st != .loading then m.reply via .invalidInput []
      else
        let bs := (x.bytes ++ zeros (len - x.bytes.length)).take len
        if crc32c 0 bs != crc then m.reply via .invalidInput []
        else
          let y : Lexicon := { st := .ready, bytes := bs, len := len, crc := crc }
          let m := m.setLexicon lex y
          ({ m with vlt := { m.vlt with lexGen := m.vlt.lexGen + 1, lexArea := mapPut m.vlt.lexArea lex y } }).reply via .success []

/-- LEX_DELETE: Busy while the lexicon is referenced (R280); its copy in the vault is erased (R398). -/
def execLexDelete (via : Via) (lex : Nat) (s : State) : Outcome State Fault Refusal :=
  s.onM fun m => m.onMailbox via fun m =>
    if !lexOk lex then m.reply via .invalidInput []
    else if 0 < m.lexRefs lex then m.reply via .busy []
    else
      let m := { m with lex := { m.lex with presets := mapDel m.lex.presets lex } }
      ({ m with vlt := { m.vlt with lexGen := m.vlt.lexGen + 1, lexArea := mapDel m.vlt.lexArea lex } }).reply via .success []

/-- LEX_INFO: R281. -/
def execLexInfo (via : Via) (lex : Nat) (s : State) : Outcome State Fault Refusal :=
  s.onM fun m => m.onMailbox via fun m =>
    if !lexOk lex then m.reply via .invalidInput []
    else
      let x := mapGet m.lex.presets lex
      m.reply via .success (leBytes 1 (lexCode x) ++ zeros 3 ++ leBytes 4 ((x.map Lexicon.len).getD 0) ++
        leBytes 4 ((x.map Lexicon.crc).getD 0) ++ leBytes 4 (m.lexRefs lex))

/-- LEX_DOMAIN_SET: R281. -/
def execLexDomainSet (via : Via) (slot lex : Nat) (s : State) : Outcome State Fault Refusal :=
  s.onM fun m => m.onMailbox via fun m =>
    if !lexOk lex || slot = 0 || decide (4096 ≤ slot) || !m.lexReady lex then m.reply via .invalidInput []
    else ({ m with lex := { m.lex with domains := mapPut m.lex.domains slot lex } }).reply via .success []

/-- A seed line of a lexicon is uncorrectable (R282): it is FAULTY, and packs that use it are abandoned. Streams and pages meet it on
their next use. -/
def Mod.lexFaulty (m : Mod) (n : Nat) : Mod := match mapGet m.lex.presets n with
  | none => m
  | some x =>
    let m := m.setLexicon n { x with st := .faulty }
    let m := (m.raise (pgLex (m.lexEngine 5)) 12 (lexDetail 0 0 0 n)).event .failure .lexiconFault [n]
    (m.tier.moves.filter fun e => match e.2 with
      | .packing lx => lx = n
      | .packed _ _ _ lx => lx = n
      | _ => false).foldl (fun (a : Mod) e => a.abandonMove e.1) m

/-! ## The engines (R287, R289) -/

/-- The engine exists. -/
def lexEngOk (e : Nat) : Bool := decide (e < 32)

/-- A job's stream has a block running elsewhere (R283). -/
def Mod.slotRuns (m : Mod) (j : LexJob) : Bool := j.slot.isSome && m.lex.running.any fun e => e.2.slot = j.slot

/-- The job an engine starts: the lowest class, within it the earliest arrival (R287). -/
def Mod.nextJob (m : Mod) (e : Nat) : Option LexJob :=
  let ok := (mapGetD m.lex.waiting e []).filter fun j => !m.slotRuns j
  ok.foldl (fun (a : Option LexJob) j => match a with
    | none => some j
    | some b => if j.cls < b.cls then some j else some b) none

/-- The first occurrence of a job leaves a list. -/
def dropJob (j : LexJob) : List LexJob → List LexJob
  | [] => []
  | x :: t => if x = j then t else x :: dropJob j t

/-- CLASS, SLOT_VALID and SLOT of an engine (R290). -/
def Mod.lexShow (m : Mod) (e : Nat) (j : Option LexJob) : Mod :=
  let p := pgLex e
  ((m.set p LexF.class_ ((j.map LexJob.cls).getD 7)).set p LexF.slotValid (b2n ((j.bind LexJob.slot).isSome))).set p LexF.slot ((j.bind LexJob.slot).getD 0)

/-- LEX_BLOCK_START: a free engine that takes work starts its next block (R287). -/
def execLexBlockStart (engine : Nat) (s : State) : Outcome State Fault Refusal :=
  s.onUnit (lexEngOk engine) fun m =>
    if !m.runs || m.saving || !m.works (pgLex engine) || (mapGet m.lex.running engine).isSome then m
    else match m.nextJob engine with
    | none => m
    | some j =>
      let w := dropJob j (mapGetD m.lex.waiting engine [])
      ({ m with lex := { m.lex with waiting := mapPut m.lex.waiting engine w, running := mapPut m.lex.running engine j } }).lexShow engine (some j)

/-- A page's block is ready (R254): its grains are taken, or the page is refused and may go to a peer (R253, R282). -/
def Mod.packDone (m : Mod) (e : Nat) (j : LexJob) : Mod :=
  let p := j.owner
  if mapGet m.tier.moves p != some (.packing j.lexicon) then m
  else if !m.lexReady j.lexicon then m.abandonMove p
  else
    let c := compressBlock (m.lexBytes j.lexicon) false false j.bytes
    let m := m.lexCountC e 5 4096 c.1.length c.2
    let g := (c.1.length + 255) / 256
    if c.2 || decide (14 < g) then ((m.abandonMove p).add pgMov MovF.packReject 1).demotePeer p
    else match m.allocGrains (m.domainAt (p * 64)) g with
    | none => m.abandonMove p
    | some (m, f, a) => { m with tier := { m.tier with moves := mapPut m.tier.moves p (.packed f a g j.lexicon) } }

/-- The history a block of a verb starts from, and its seed (R274, R283, R284). -/
def Mod.jobHist (m : Mod) (j : LexJob) : List Byte × List Byte :=
  let seed := m.lexBytes j.lexicon
  match j.slot.bind fun i => mapGet m.lex.streams i with
  | some x => (x.hist, seed)
  | none => (seed, seed)

/-- A stream keeps the history after a block that ended OK (R283). -/
def Mod.keepHist (m : Mod) (j : LexJob) (h : List Byte) : Mod := match j.slot with
  | none => m
  | some i => { m with lex := { m.lex with streams := mapUpd m.lex.streams i fun x => { x with hist := h } } }

/-- A verb has what its engine gave: an outcome code and bytes. -/
def Mod.verbLex (m : Mod) (j : LexJob) (code : Nat) (out : List Byte) : Mod :=
  m.updVerb (j.owner / 2 ^ 32) (j.owner % 2 ^ 32) fun v => { v with lex := some (code, out) }

/-- A block of a verb is done (R276, R277, R349). -/
def Mod.verbBlock (m : Mod) (e : Nat) (j : LexJob) : Mod := match m.verb (j.owner / 2 ^ 32) (j.owner % 2 ^ 32) with
  | none => m
  | some v =>
    if !m.lexReady j.lexicon then m.verbLex j dcUnavailable []
    else
      let h := m.jobHist j
      if j.compress then
        let start := if v.resets then h.2 else h.1
        let c := compressBlock start v.stream v.resets j.bytes
        ((m.lexCountC e 4 j.bytes.length c.1.length c.2).keepHist j (histAdd start j.bytes)).verbLex j dcOk c.1
      else
        let r := decodeBlock { stream := v.stream, resetOk := true, hist := h.1, seed := h.2, cap := v.dstCap } j.bytes
        if r.1 = dcOk then
          let start := if bit (leAt j.bytes 0 4) 19 then h.2 else h.1
          ((m.lexCountD e 4 r.2.length).keepHist j (histAdd start r.2)).verbLex j dcOk r.2
        else (m.lexFail e r.1 4 (j.slot.getD 0) j.lexicon).verbLex j r.1 r.2

/-- LEX_BLOCK_DONE: the block running on an engine ends. -/
def execLexBlockDone (engine : Nat) (s : State) : Outcome State Fault Refusal :=
  s.onUnit (lexEngOk engine) fun m => if !m.runs || m.saving then m else match mapGet m.lex.running engine with
    | none => m
    | some j =>
      let m := ({ m with lex := { m.lex with running := mapDel m.lex.running engine } }).lexShow engine none
      if j.cls = 5 then m.packDone engine j else m.verbBlock engine j

/-- A job goes to the engine of its class with the fewest bytes waiting (R287). -/
def Mod.lexAgain (m : Mod) (j : LexJob) : Mod := m.lexQueue (m.lexEngine j.cls) j

/-- An engine is reset (R289): its block is abandoned, PACK work and what waited is taken up by other engines, and a verb's block
ends ABORTED with its stream unchanged. -/
def Mod.lexReset (m : Mod) (e : Nat) : Mod :=
  let run := mapGet m.lex.running e
  let waiting := mapGetD m.lex.waiting e []
  let m := ({ m with lex := { m.lex with running := mapDel m.lex.running e, waiting := mapDel m.lex.waiting e } }).lexShow e none
  let m := match run with
    | none => m
    | some j => if j.cls = 5 then m.lexAgain j else m.verbLex j 0x1A []
  waiting.foldl (fun (a : Mod) j => a.lexAgain j) m

/-- Waiting jobs of a class that their engine no longer accepts go to one that does (R287). -/
def Mod.lexRemask (m : Mod) (e : Nat) : Mod :=
  let mask := m.lexMask e
  let w := mapGetD m.lex.waiting e []
  let m := { m with lex := { m.lex with waiting := mapPut m.lex.waiting e (w.filter fun j => bit mask j.cls) } }
  (w.filter fun j => !bit mask j.cls).foldl (fun (a : Mod) j => a.lexAgain j) m

/-- A class accepted by no engine (R289). -/
def classLess (masks : List Nat) : Bool := (upto 6).any fun c => masks.all fun k => !bit k c

end Sys2Proof.Machine
end

