-- ==== Sys2Proof/Machine/Links.lean ====
section
/-!
DEFINITION. Machine/Links.lean: what a save, a reset, tamper or a change of the allowance does to ports, extents and caches, and the
sizes of what a save writes (R406).
-/
namespace Sys2Proof.Machine

/-- Every host and peer link goes down (R400, R463). -/
def Mod.linksDown (m : Mod) : Mod :=
  (upto 96).foldl (fun (a : Mod) n => if a.peerRole n then a.bfPortDown n else a.linkLoss n) m

/-- The durable extents follow the allowance in force (R70). -/
def Mod.settleAllowance (m : Mod) : Mod := m.followAllowance

/-- The extent is volatile: its region is not durable. -/
def Mod.volatileExt (m : Mod) (e : Extent) : Bool := !(m.extReg e).durable

/-- Volatile PLAIN pages (R406): those named one by one, and the rest of fully backed volatile extents. -/
def Mod.plainPages (m : Mod) : Nat :=
  (m.fab.extents.filter fun e => m.volatileExt e.2).foldl (fun (a : Nat) e =>
    let own := m.tier.pages.filter fun p => inPages e.2.base e.2.size p.1
    let plain := (own.filter fun p => match p.2.st with
      | .plain _ => true
      | _ => false).length
    if m.fullyBacked e.2 then a + (e.2.size / 4096 - own.length) + plain else a + plain) 0

/-- VOL_NEED of R406 in bytes. -/
def Mod.volNeed (m : Mod) : Nat :=
  4096 * m.plainPages +
  (m.tier.pages.foldl (fun (a : Nat) p => match p.2.st with
    | .packed _ _ g _ => a + 256 * g
    | .peer _ _ => a + 256
    | _ => a) 0) +
  4096 * m.tier.held.length

/-- Total size of the durable extents in bytes (D of R406). -/
def Mod.durableBytes (m : Mod) : Nat := m.durableSize

/-- Size of the parity store in bytes (P of R406). -/
def Mod.parityBytes (m : Mod) : Nat := 4096 * runsCount m.aux.parityRuns

/-- A durable extent exists (R442). -/
def Mod.hasDurable (m : Mod) : Bool := m.fab.extents.any fun e => (m.extReg e.2).durable

/-- Every extent is released (R442). -/
def Mod.releaseAll (m : Mod) : Mod := (m.fab.extents.map Prod.fst).foldl (fun (a : Mod) n => a.freeExtent n) m

/-- Every cipher key cache is wiped (R443). -/
def Mod.wipeKeyCaches (m : Mod) : Mod := { m with key := { m.key with caches := [] } }

/-- What fencing an on-die memory region does to its owner at once (R440): the work waiting at a lexicon engine goes to others. What the
region held elsewhere is smaller from then on: `fcWays`, `dieWays`, `nodeCacheMax`, `mapCacheMax`, `onDieFrames`. -/
def Mod.fenceOwner (m : Mod) (region : Nat) : Mod :=
  if 221184 ≤ region && region < 225280 then m.lexRemask ((region - 221184) / 128) else m

/-- The module belongs to a group (R77, R460). -/
def Mod.inGroup (m : Mod) : Bool := m.grp.map.isSome

end Sys2Proof.Machine
end

