-- ==== Sys2Proof/Machine/Barometer.lean ====
section
/-!
DEFINITION. Machine/Barometer.lean: the barometer (chapter 15): the ageing index, plans, the tracking loop, planned
capacity, retraining intervals, energy and the durable allowance; bank charging (R428).
-/
namespace Sys2Proof.Machine

open Host

/-- The delay target D_TGT = 1.05 × D_REF, rounded to the nearest ps (R384). -/
def Mod.dTgt (m : Mod) : Nat := (105 * m.age.dRef + 50) / 100

/-- A component of the index saturates at 1,000; a negative value counts as 0 (R385). -/
def comp (n d : Nat) : Nat := if d = 0 then 0 else min 1000 (n / d)

/-- DELAY: (d - 1) × 10,000 with d the median delay over D_REF (R385). -/
def Mod.compDelay (m : Mod) (d : Nat) : Nat := comp ((d - m.age.dRef) * 10000) m.age.dRef

/-- BANK: the larger of (1 - C / C0) × 2,500 and (ESR / ESR0 - 1) × 1,000 (R385). -/
def Mod.compBank (m : Mod) (c esr : Nat) : Nat :=
  max (comp ((m.age.c0 - c) * 2500) m.age.c0) (comp ((esr - m.age.esr0) * 1000) m.age.esr0)

/-- NAND: (tPROG / tPROG0 - 1) × 2,000 (R385). -/
def Mod.compNand (m : Mod) (t : Nat) : Nat := comp ((t - m.age.tProg0) * 2000) m.age.tProg0

/-- EYE of one channel or lane: (1 - m / m0) × 2,000 (R385). -/
def compEye (k margin : Nat) : Nat := comp ((Config.eye0 k - margin) * 2000) (Config.eye0 k)

/-- V_LOW in 10 mV units: 25 V + 7.2 A × max(0, ESR - ESR0) (R391). -/
def Mod.vLowOf (m : Mod) (esr : Nat) : Nat := 2500 + 72 * (esr - m.age.esr0) / 100

/-- Stored energy in mJ between two bank voltages in 10 mV units with capacitance in mF: ½ C (V² - V_LOW²) (R391). -/
def energyMj (c v vLow : Nat) : Nat := c * (v * v - vLow * vLow) / 20000

/-- SAVE_RATE in MB/s: 64 × 65,536 B over the slowest program time (R391), to the nearest 10 MB/s (log entry 114). -/
def saveRate (tprogNs : Nat) : Nat := if tprogNs = 0 then 0 else (64 * 65536 * 1000 / tprogNs + 5) / 10 * 10

/-- E_GIB in mJ: 6.7 J × max(1, 28.8 GB/s over SAVE_RATE) (R391). -/
def eGibMj (tprogNs : Nat) : Nat := max 6700 (if saveRate tprogNs = 0 then 0 else 6700 * 28800 / saveRate tprogNs)

/-- floor((E / 1.25 - 72 J) / E_GIB), capped at 64 GiB, 0 when negative (R391). -/
def allowanceOf (eMj gibMj : Nat) : Nat := if gibMj = 0 then 0 else min 64 ((eMj * 4 / 5 - 72000) / gibMj)

/-- Rate in Gbit/s of a rate code (R337). -/
def rateGbit : Nat → Nat
  | 1 => 16 | 2 => 18 | 3 => 20 | 4 => 22 | 5 => 24 | _ => 0

/-- MEM_CAP: over the channels not RETIRED, floor(29,440 × rate / 24) bytes per 1,024 ticks (R389). -/
def Mod.memCap (m : Mod) : Nat :=
  (upto 96).foldl (fun a c =>
    if m.blockState (pgMch c) = stRetired then a
    else a + 29440 * rateGbit (m.get (pgMch c) MchF.rate) / 24) 0

/-- The 10 mV steps of R388 as mV. -/
def stepMv (i : Nat) : Nat := 680 + 10 * i

/-- V_PLAN's step: the lowest at which the median delay is at most 0.97 × D_TGT; the last where none is (R388). -/
def Mod.planStep (m : Mod) (delays : List Nat) : Nat :=
  ((upto 21).find? fun i => decide (i < delays.length) && decide (delays.getD i 0 * 100 ≤ 97 * m.dTgt)).getD 20

/-- A plan starts (R386): absorbed by a running one; held while a save or a restore runs. -/
def Mod.startPlan (m : Mod) : Mod :=
  if m.age.plan.isSome then m
  else if m.saving || m.vlt.restoring then { m with age := { m.age with planHeld := true } }
  else ({ m with age := { m.age with plan := some 0 } }).progress pgAge 1 0 0

/-- REPLAN: R386. The bit clears when the plan ends. -/
def execReplan (s : State) : Outcome State Fault Refusal :=
  s.onM fun m => (m.set pgAge AgeF.replan 1).startPlan

/-- PLAN_TIMER: PLAN_HOURS after the previous plan ended, a plan starts (R386). -/
def execPlanTimer (s : State) : Outcome State Fault Refusal :=
  s.onM fun m =>
    (m.until_ (m.get pgAge AgeF.lastPlanTick + m.get pgAge AgeF.planHours * hour)).startPlan

/-- A barometer occasion: its event record and its PAGE_ERR bit (R392). INDEX stands in DETAIL (R395). -/
def Mod.ageEvent (m : Mod) (sev : Sev) (k : EvKind) (bitNo extra : Nat) (args : List Nat) : Mod :=
  (m.raise pgAge bitNo (m.get pgAge AgeF.index ||| (extra <<< 10))).event sev k args

/-- An occasion raised once in the life of the module (R392). -/
def Mod.ageOnce (m : Mod) (c : Bool) (sev : Sev) (k : EvKind) (bitNo : Nat) : Mod :=
  if c && !m.age.raised.contains bitNo then
    ({ m with age := { m.age with raised := m.age.raised ++ [bitNo] } }).ageEvent sev k bitNo 0 []
  else m

/-- The allowance in force is recomputed from E_STORED and E_USABLE (R391): an Informational record at a change,
ALLOWANCE_DOWN at a fall, and the durable extents follow (R70). -/
def Mod.allowNow (m : Mod) : Mod :=
  let c := m.get pgAge AgeF.cMf
  let vLow := m.get pgAge AgeF.vLow
  let v := m.get pgAge AgeF.vBank
  let usable := energyMj c 5000 vLow
  let stored := if v ≤ vLow then 0 else energyMj c v vLow
  let m := (m.set pgAge AgeF.eUsableJ (usable / 1000)).set pgAge AgeF.eStoredJ (stored / 1000)
  let new := allowanceOf (min usable stored) (m.get pgAge AgeF.eGibMj)
  let old := m.get pgAge AgeF.allowNow
  if new = old then m else
  let m := (m.set pgAge AgeF.allowNow new).event .info .allowance [old, new]
  let m := if new < old then m.raise pgAge 11 (m.get pgAge AgeF.index) else m
  m.settleAllowance

/-- Voltage set by a plan or the tracking loop; a step of the loop counts (R388, R450). -/
def Mod.setVNow (m : Mod) (mv : Nat) : Mod := (m.set pgAge AgeF.vNow mv).count pgAge 0x100 1

/-- A channel's new LULL_INTERVAL_US from its lowest eye margin (R390). -/
def lullInterval (margin old : Nat) : Nat :=
  let n := if 32 ≤ margin then 2 * old else if 16 ≤ margin then old else if 8 ≤ margin then old / 4 else 100
  min 100000 (max 100 n)

/-- Step 4 and 5 of a plan for the channels' eyes (R387, R390): RETIRED and FROZEN channels are left out (R383). -/
def Mod.planLulls (m : Mod) : Mod :=
  let m := m.age.lullEye.foldl (fun a e =>
    if a.blockState (pgMch e.1) = stRetired || a.blockState (pgMch e.1) = stFrozen then a else
    let n := lullInterval e.2 (a.get (pgMch e.1) MchF.lullIntervalUs)
    let a := { a with age := { a.age with lullNext := mapPut a.age.lullNext e.1 n } }
    if e.2 < 8 then a.ageEvent .warning .eyeLow 13 e.1 [e.1] else a) m
  { m with age := { m.age with lullEye := [] } }

/-- Lowest of a list of (number, margin) pairs. -/
def lowest : List (Nat × Nat) → Option (Nat × Nat)
  | [] => none
  | e :: t => match lowest t with
    | none => some e
    | some f => if f.2 < e.2 then some f else some e

/-- PLAN_CAP lowered until the projected core-rail power does not pass 177 W (R389): the power measured in the busiest
spell, scaled by the square of the voltage ratio and by PLAN_CAP over that spell's load. -/
def capByPower (cap railMw load vOld vNew : Nat) : Nat :=
  if load = 0 || railMw = 0 || vNew = 0 then cap
  else min cap (177000 * load * (vOld * vOld) / (railMw * (vNew * vNew)))

/-- PLAN_DONE: R383 to R392. -/
def Mod.planDone (m : Mod) (r : PlanMeas) : Mod :=
  if m.age.plan.isNone then m else
  let m := { m with age := { m.age with plan := none } }
  -- bank: C and ESR from the test load of 2.00 A; skipped where the test could not run
  let m := match r.bank with
    | some (v1, v10, st) =>
      if v10 < v1 then
        ((m.set pgAge AgeF.cMf (18000000 / (v1 - v10))).set pgAge AgeF.esrMohm (st / 2000)).set pgAge AgeF.bankStale 0
      else m.set pgAge AgeF.bankStale 1
    | none => m.set pgAge AgeF.bankStale 1
  let c := m.get pgAge AgeF.cMf
  let esr := m.get pgAge AgeF.esrMohm
  let m := ((m.set pgAge AgeF.tprogNs r.tprogNs).set pgAge AgeF.slowDie r.slowDie).set pgAge AgeF.saveRateMbs (saveRate r.tprogNs)
  let m := ((m.set pgAge AgeF.dMedPs r.dNow).set pgAge AgeF.dMaxPs r.dMax).set pgAge AgeF.worstPath r.worstPath
  let chans := m.age.lullEye.filter fun e =>
    !(m.blockState (pgMch e.1) = stRetired || m.blockState (pgMch e.1) = stFrozen)
  let m := match lowest chans with
    | some (n, e) => (m.set pgAge AgeF.dramEyeMin e).set pgAge AgeF.dramEyeCh n
    | none => m
  let m := match lowest r.lanes with
    | some (n, e) => (m.set pgAge AgeF.laneEyeMin e).set pgAge AgeF.laneEyeLane n
    | none => m
  -- the index
  let eye := (chans.map fun e => compEye e.1 e.2) ++ (r.lanes.map fun e => compEye (96 + e.1) e.2)
  let eyeC := eye.foldl max 0
  let dC := m.compDelay r.dRefPoint
  let bC := m.compBank c esr
  let nC := m.compNand r.tprogNs
  let idx := max (max dC bC) (max nC eyeC)
  let m := (((m.set pgAge AgeF.delay dC).set pgAge AgeF.bank bC).set pgAge AgeF.nand nC).set pgAge AgeF.eye eyeC
  let m := m.set pgAge AgeF.index idx
  -- voltage and capacity
  let i := m.planStep r.delays
  let vOld := m.get pgAge AgeF.vNow
  let m := (m.set pgAge AgeF.vPlan (stepMv i)).set pgAge AgeF.vNow (stepMv i)
  let d := r.delays.getD i 0
  let full := if d = 0 then m.memCap else m.memCap * min d m.dTgt / d
  let cap := capByPower full r.railMw r.load vOld (stepMv i)
  let before := m.age.capNext.getD (m.get pgSpl SplF.planCap)
  let m := { m with age := { m.age with capNext := some cap, load := r.load, railMw := r.railMw } }
  let m := if cap < full then m.ageEvent .warning .powerLimited 10 0 [full, cap] else m
  let m := if cap < before then m.ageEvent .warning .capLowered 9 0 [before, cap] else m
  let m := m.planLulls
  let m := r.lanes.foldl (fun a e =>
    if e.2 < 16 then a.ageEvent .warning .eyeLow 13 (e.1 ||| 256) [96 + e.1] else a) m
  -- energy
  let vLow := m.vLowOf esr
  let g := eGibMj r.tprogNs
  let m := (m.set pgAge AgeF.vLow vLow).set pgAge AgeF.eGibMj g
  let m := m.set pgAge AgeF.allowPlan (allowanceOf (energyMj c 5000 vLow) g)
  let m := if saveRate r.tprogNs < 28800 then m.ageEvent .warning .vaultSlow 12 0 [saveRate r.tprogNs] else m
  let m := if c * 100 < 30 * m.age.c0 || 3 * m.age.esr0 < esr then m.ageEvent .failure .bankFail 17 0 [c, esr] else m
  let m := m.allowNow
  let m := ((m.ageOnce (decide (500 ≤ idx)) .info .age500 14).ageOnce (decide (800 ≤ idx)) .warning .age800 15).ageOnce
    (decide (1000 ≤ idx)) .failure .ageEnd 16
  let m := (m.add pgAge AgeF.plans 1).count pgAge 0x101 1
  let m := (m.set pgAge AgeF.lastPlanTick m.tick).set pgAge AgeF.replan 0
  m.progress pgAge 0 10000 5

/-- PLAN_DONE: a plan's measurements end, and step 5 applies its results (R387). -/
def execPlanDone (r : PlanMeas) (s : State) : Outcome State Fault Refusal := s.onM fun m => m.planDone r

/-- TRACKING_TICK: every 1 ms the loop reads the median delay and steps the core voltage by 10 mV: up above D_TGT, down
below 0.97 × D_TGT but never below V_PLAN; reaching 0.88 V sets AVS_CEILING and triggers a plan (R388). -/
def execTrackingTick (delay temp : Nat) (s : State) : Outcome State Fault Refusal :=
  s.onM fun m =>
    let m := { m with age := { m.age with tempMax := max m.age.tempMax temp } }
    let m := m.set pgAge AgeF.dMedPs delay
    let v := m.get pgAge AgeF.vNow
    if m.dTgt < delay then
      if v < 880 then
        let m := m.setVNow (v + 10)
        if v + 10 = 880 then (m.ageEvent .warning .avsCeiling 8 0 [delay]).startPlan else m
      else m
    else if delay * 100 < 97 * m.dTgt && decide (m.get pgAge AgeF.vPlan < v) then m.setVNow (v - 10)
    else m

/-- START_PLAN_DONE: the start-up plan sets the core voltage from delay alone, and phase 3 begins (R386, R458). -/
def execStartPlanDone (delays : List Nat) (dNow : Nat) (s : State) : Outcome State Fault Refusal :=
  s.onM fun m =>
    if m.phase = 2 && m.runs then
      let v := stepMv (m.planStep delays)
      (((m.set pgAge AgeF.vPlan v).set pgAge AgeF.vNow v).set pgAge AgeF.dMedPs dNow).set pgGlb GlbF.phase 3
    else m

/-- VOL_COVER and VOL_NEED (R406): the image size the bank covers now, and VOLATILE_AT_RISK with a Warning record when
the volatile data needs more. -/
def Mod.volatileRisk (m : Mod) : Mod :=
  let g := m.get pgAge AgeF.eGibMj
  let c := m.get pgAge AgeF.cMf
  let vLow := m.get pgAge AgeF.vLow
  let v := m.get pgAge AgeF.vBank
  let stored := if v ≤ vLow then 0 else energyMj c v vLow
  let dp := (m.durableBytes + m.parityBytes) * g / gib
  let cover := if g = 0 then 0 else (stored * 4 / 5 - 72000 - dp) / g
  let need := m.volNeed
  let m := ((m.set pgVlt VltF.durableGib (m.durableBytes / gib)).set pgVlt VltF.parityGib
    ((m.parityBytes + gib - 1) / gib)).set pgVlt VltF.volCoverGib cover
  let m := m.set pgVlt VltF.volNeedGib ((need + gib - 1) / gib)
  if cover * gib < need then
    let was := m.is pgVlt VltF.atRisk
    let m := m.set pgVlt VltF.atRisk 1
    if was then m else (m.raise pgVlt 13 0).event .warning .volatileAtRisk [need, cover * gib]
  else m.set pgVlt VltF.atRisk 0

/-- The charger (R17, R428): it draws from the release of PG up to 50.0 V, tops up below 49.5 V, stays within
CHARGE_LIMIT and 560 W of input, and stops with BANK_IMBALANCE when a cell would exceed 2.15 V. -/
def Mod.chargeBank (m : Mod) (pg : Bool) (v : Nat) (r : PwrMeas) : Mod :=
  let on := pg && decide (r.cellMax ≤ 2150) &&
    (if m.is pgPwr PwrF.charging then decide (v < 5000) else decide (v < 4950))
  let watts10 := min (m.get pgPwr PwrF.chargeLimit * 10) ((560 - r.loadW) * 10)
  let byCurrent := 15 * v / 95
  let m := (m.set pgPwr PwrF.charging (b2n on)).set pgPwr PwrF.chargeP (if on then min watts10 byCurrent else 0)
  if pg && decide (2150 < r.cellMax) then m.raise pgPwr 17 0 else m

/-- ENERGY_POLL: every 10 ms the barometer reads V_BANK and computes E_STORED, the allowance in force and VOL_COVER
(R391, R406), and the charger follows (R17, R428). The bank first reaching 50.0 V starts a full plan (R460). -/
def execEnergyPoll (vBank : Nat) (r : PwrMeas) (s : State) : Outcome State Fault Refusal :=
  s.onM fun m =>
    let m := m.set pgAge AgeF.vBank vBank
    let m := (((m.set pgPwr PwrF.vin r.vin).set pgPwr PwrF.vout r.vout).set pgPwr PwrF.iin r.iin).set pgPwr PwrF.pin r.pin
    let m := ((m.set pgPwr PwrF.cellMax r.cellMax).set pgPwr PwrF.cellMin r.cellMin).set pgPwr PwrF.fetTemp r.fetTemp
    let m := (m.set pgPwr PwrF.iinPeak (max (m.get pgPwr PwrF.iinPeak) r.iin)).set pgPwr PwrF.pinPeak
      (max (m.get pgPwr PwrF.pinPeak) r.pin)
    let vLow := m.get pgAge AgeF.vLow
    let pct := if vBank ≤ vLow then 0 else min 10000 ((vBank * vBank - vLow * vLow) * 10000 / (5000 * 5000 - vLow * vLow))
    let m := m.progress pgPwr 1 pct vBank
    let m := (m.chargeBank s.pwr.pg vBank r).allowNow.volatileRisk
    if decide (5000 ≤ vBank) && !m.age.full then ({ m with age := { m.age with full := true } }).startPlan else m

end Sys2Proof.Machine
end

