-- ==== Sys2Proof/Machine/Keys.lean ====
section
/-!
DEFINITION. Machine/Keys.lean: key slots and fronts (R292 to R315), write-backs (R303), the recovery of internal lines (R309) and of
the lines below a lost counter node (R308).
-/
namespace Sys2Proof.Machine

open Host

/-! ## Key slots (R292 to R295) -/

/-- A slot no command may name (R295). -/
def slotBad (d : Nat) : Bool := d = 0 || decide (4096 ≤ d)

/-- Key material of a command (R295): generated, or the 96 bytes imported. -/
def Mod.keyOf (m : Mod) (src : KeySrc) : Mod × List Byte := match src with
  | .generate => m.randomBytes 96
  | .import_ k => (m, (k ++ zeros 96).take 96)

/-- Imported material whose K1 equals its K2 (R295). -/
def importTwins (src : KeySrc) : Bool := match src with
  | .generate => false
  | .import_ k => slice (k ++ zeros 96) 0 32 = slice (k ++ zeros 96) 32 32

/-- Regions that name a domain. -/
def Mod.regionsOf (m : Mod) (d : Nat) : List Region := (m.fab.regions.filter fun r => r.2.domain = d).map fun r => r.2

/-- Extents in regions naming a domain. -/
def Mod.extentsOf (m : Mod) (d : Nat) : Nat := (m.fab.extents.filter fun e => (m.extReg e.2).domain = d).length

/-- A front runs on the slot's domain or into the slot. -/
def Mod.frontOn (m : Mod) (d : Nat) : Bool := m.key.fronts.any fun e => e.2.domain = d || e.2.target = some d

/-- A mode that a DURABLE region naming the domain does not allow (R170, R295). -/
def Mod.modeBad (m : Mod) (d mode : Nat) : Bool := decide (2 < mode) || (mode != 2 && (m.regionsOf d).any fun r => r.durable)

/-- The lexicon of a domain goes with its key (R281). -/
def Mod.clearLexDomain (m : Mod) (d : Nat) : Mod := { m with lex := { m.lex with domains := mapDel m.lex.domains d } }

/-- KEY_DOMAIN_CREATE: R295. -/
def execKeyDomainCreate (via : Via) (slot mode : Nat) (src : KeySrc) (s : State) : Outcome State Fault Refusal :=
  s.onM fun m => m.onMailbox via fun m =>
    if slotBad slot || m.modeBad slot mode || importTwins src then m.reply via .invalidInput []
    else if (mapGet m.key.slots slot).isSome then m.reply via .busy []
    else
      let k := m.keyOf src
      let x : KeySlot := { target := false, mode := mode, g := 0, key := k.2, lost := false }
      let m := k.1.clearLexDomain slot
      ({ m with key := { m.key with slots := mapPut m.key.slots slot x } }).reply via .success []

/-- KEY_DOMAIN_DESTROY: R295, R315. -/
def execKeyDomainDestroy (via : Via) (slot : Nat) (s : State) : Outcome State Fault Refusal :=
  s.onM fun m => m.onMailbox via fun m =>
    if slotBad slot then m.reply via .invalidInput []
    else if m.regionsOf slot != [] || m.frontOn slot then m.reply via .busy []
    else
      let m := m.clearLexDomain slot
      let caches := m.key.caches.map fun c => (c.1, c.2.filter fun d => d != slot)
      ({ m with key := { m.key with slots := mapDel m.key.slots slot, caches := caches,
                                    deferred := m.key.deferred.filter fun d => d != slot } }).reply via .success []

/-- KEY_DOMAIN_MODE: R295, R315. A slot that is no DOMAIN has no mode to change (log entry 42). -/
def execKeyDomainMode (via : Via) (slot mode : Nat) (s : State) : Outcome State Fault Refusal :=
  s.onM fun m => m.onMailbox via fun m =>
    if slotBad slot || !m.isDomain slot || m.modeBad slot mode then m.reply via .invalidInput []
    else if 0 < m.extentsOf slot || m.frontOn slot then m.reply via .busy []
    else ({ m with key := { m.key with slots := mapUpd m.key.slots slot fun k => { k with mode := mode } } }).reply via .success []

/-! ## Commands on fronts (R295, R310, R313) -/

/-- KEY_FRONT_START: R295, R310. -/
def execKeyFrontStart (via : Via) (slot : Nat) (src : KeySrc) (s : State) : Outcome State Fault Refusal :=
  s.onM fun m => m.onMailbox via fun m =>
    if slotBad slot || !m.isDomain slot then m.reply via .invalidInput []
    else if (m.frontOf slot).isSome then m.reply via .busy []
    else match m.freeSlot, m.freeEngine with
    | some t, some e =>
      let k := m.keyOf src
      (k.1.frontBegin slot k.2 false (some t) e).reply via .success (leBytes 1 e ++ leBytes 2 t)
    | _, _ => m.reply via .busy []

/-- KEY_FRONT_STATUS: R295. -/
def execKeyFrontStatus (via : Via) (slot : Nat) (s : State) : Outcome State Fault Refusal :=
  s.onM fun m => m.onMailbox via fun m =>
    if slotBad slot || !m.isDomain slot then m.reply via .invalidInput []
    else match m.frontOf slot with
    | some (e, f) => m.reply via .success (leBytes 1 e ++ zeros 1 ++ leBytes 2 (f.target.getD 0) ++ zeros 4 ++
        leBytes 8 (m.pageReg (pgFrn e) HdrF.opState.off))
    | none => m.reply via .success (leBytes 1 0xFF ++ zeros 15)

/-- FRN_CTL.PAUSE of an engine (R313): OP_STATE of a front that runs says paused. -/
def Mod.setPause (m : Mod) (e : Nat) (b : Bool) : Mod :=
  let m := m.set (pgFrn e) FrnF.pause (b2n b)
  if (mapGet m.key.fronts e).isSome then m.set (pgFrn e) HdrF.opState (if b then 2 else 1) else m

/-- KEY_FRONT_PAUSE: R295. A domain without a front has nothing to pause (log entry 42). -/
def execKeyFrontPause (via : Via) (slot : Nat) (pause : Bool) (s : State) : Outcome State Fault Refusal :=
  s.onM fun m => m.onMailbox via fun m =>
    if slotBad slot then m.reply via .invalidInput []
    else match m.frontOf slot with
    | some (e, _) => (m.setPause e pause).reply via .success []
    | none => m.reply via .invalidInput []

/-- The front engine exists. -/
def frnOk (e : Nat) : Bool := decide (e < 16)

/-- FRN_PAUSE: R313, R318. -/
def execFrnPause (engine : Nat) (pause : Bool) (s : State) : Outcome State Fault Refusal :=
  s.onUnit (frnOk engine) fun m => m.when m.runs fun m => m.setPause engine pause

/-- FRONT_DEFERRED_START: the first automatic front that can start does (R307, R310). -/
def execFrontDeferredStart (s : State) : Outcome State Fault Refusal :=
  s.onM fun m => if !m.runs || m.saving then m else match m.key.deferred with
    | [] => m
    | d :: rest =>
      let drop := fun (m : Mod) => { m with key := { m.key with deferred := rest } }
      if d != 0 && !m.isDomain d then drop m else
      let r := m.autoFront d
      if r.2 then drop r.1 else m

/-! ## A front's step (R311, R312, R315, R336) -/

/-- A line at F is read under the old key and written under the new one (R311). -/
def Mod.frontLine (m : Mod) (u n d : Nat) : Mod := (m.chanRead u d 6).chanWrite u n d 6

/-- A front cannot touch a unit: its channel is frozen (R336), or its lines are unverifiable (R315). -/
def Mod.frontWaits (m : Mod) (u : Nat) : Bool := m.frozen (chanOf u) || m.unverifiable u

/-- The internal domain's front at line number l (R311): a counter node is MACed under its parent's counters (R304). -/
def Mod.frontInternal (m : Mod) (eng l : Nat) : Mod :=
  let code := l / 2 ^ 32
  let i := l % 2 ^ 32
  match m.internalPlace code i with
  | none => m.frontPass eng 1
  | some (u, n) =>
    if m.frontWaits u then m else
    let m := if code = 7 then
        (let p := parentOf i
         ((m.readTraffic (chanOf u) 0 6).writeTraffic (chanOf u) 0 6).bumpMinor p.1 p.2 0)
      else m.frontLine u n 0
    let m := if n = 63 && code != 7 then m.frontUnit eng 0 u else m
    m.frontPass eng 1

/-- A packed block is re-encrypted whole in its grains (R311). -/
def Mod.frontPacked (m : Mod) (eng : Nat) (f : Front) (frame first grains left : Nat) : Mod :=
  if m.frontWaits frame then m else
  let m := (List.range' (4 * first) (4 * grains)).foldl (fun (a : Mod) n => a.frontLine frame n f.domain) m
  let m := m.frontFrame eng { f with passed := f.passed + left } frame
  (m.add (pgFrn eng) FrnF.pagesWhole 1).frontPass eng left

/-- The step of a host domain's front at line l (R311): a demotion under way is abandoned, a promotion is waited for (R315). -/
def Mod.frontHost (m : Mod) (eng : Nat) (f : Front) (l : Nat) : Mod :=
  let p := pageOfLine l
  if m.promoting p then m else
  let m := m.abandonMove p
  let left := 64 - l % 64
  match (m.page p).st with
  | .plain fr =>
    if m.frontWaits fr then m else
    let m := (m.frontLine fr (l % 64) f.domain).chargeLines (masterFront eng) (sliceOf l) 2
    let m := if l % 64 = 63 then m.frontUnit eng f.domain fr else m
    m.frontPass eng 1
  | .packed fr a n _ => m.frontPacked eng f fr a n left
  | .peer mb slot => m.startFetch p mb slot
  | .unbacked => m.frontPass eng left
  | .lost => m.frontPass eng left

/-- FRONT_STEP: R311. A front whose walk is done, or empty, ends (R313). -/
def execFrontStep (engine : Nat) (s : State) : Outcome State Fault Refusal :=
  s.onUnit (frnOk engine) fun m =>
    if !m.runs || m.saving || m.is (pgFrn engine) FrnF.pause || !m.works (pgFrn engine) then m else
    match mapGet m.key.fronts engine with
    | none => m
    | some f => match f.next with
      | none => m.frontPass engine 0
      | some l => if f.domain = 0 then m.frontInternal engine l else m.frontHost engine f l

/-! ## Write-backs (R250, R303, R305) -/

/-- A dirty line of the front cache is written back and stays there clean. -/
def Mod.cleanLine (m : Mod) (l : Nat) : Mod := match m.fcGet l with
  | some e => if e.dirty then (m.writeBack l).setFc (fcKey l) ((m.fcSet l).map fun x => if x.line = l then { x with dirty := false } else x) else m
  | none => m

/-- A dirty node is written back, which advances its minor in its parent (R305). -/
def Mod.cleanNode (m : Mod) (x : Nat) : Mod :=
  if rootNode ≤ x || m.nodePinned x || !((m.nodeCache x).any fun e => e.1 = x && e.2) then m else
  let m : Mod := { m with key := { m.key with nodes := mapPut m.key.nodes (nodeSlice x) ((m.nodeCache x).map fun e => if e.1 = x then (x, false) else e) } }
  let p := parentOf x
  (m.writeTraffic (m.nodeChan x) 0 0).bumpMinor p.1 p.2 0

/-- Dirty entries of a map line in its slice's cache are written back (R248). -/
def Mod.cleanMapLine (m : Mod) (line : Nat) : Mod :=
  let sl := mapSlice (line * 8 % dpaPages)
  m.tier.mapCache.foldl (fun (a : Mod) c =>
    if c.2.any fun e => e.1 / 8 = line && e.2 then
      let l := c.2.map fun e => if e.1 / 8 = line then (e.1, false) else e
      let a : Mod := { a with tier := { a.tier with mapCache := mapPut a.tier.mapCache c.1 l } }
      (a.add (pgHsl sl) HslF.mapWritebacks 1).mapTraffic (line * 8) true
    else a) m

/-- LINE_WRITEBACK: a line that its cache holds dirty is written to its channel and its counter advances (R303). -/
def execLineWriteback (l : LineId) (s : State) : Outcome State Fault Refusal :=
  s.onM fun m => if !m.runs then m else match l with
    | .pool f n => (match m.lineAtPlace f n with
      | some x => m.cleanLine x
      | none => m)
    | .region 7 x => m.cleanNode x
    | .region 1 x => m.cleanMapLine x
    | .region _ _ => m

/-! ## Internal lines (R309) -/

/-- Lines of one copy of the key table: 4,096 entries of 128 B (R293; log entry 42 for their places). -/
def keyTableLines : Nat := 8192

/-- A line of the key table is lost: rewritten from the other copy, or, with that lost too, the key is (R309). -/
def Mod.keyEntryLost (m : Mod) (i : Nat) : Mod :=
  let d := i % keyTableLines / 2
  if (m.slot d).isNone then m else
  let other := (i + keyTableLines) % (2 * keyTableLines)
  let u := (m.regionUnit 6 other).1
  let ln := 6 * 2 ^ 32 + i
  if m.frozen (chanOf u) || m.unverifiable u then
    let upd := fun (k : KeySlot) => { k with lost := true }
    let m : Mod := { m with key := if d = 0 then { m.key with zero := upd m.key.zero } else { m.key with slots := mapUpd m.key.slots d upd } }
    (m.raise pgKey 12 (keyDetail d ln)).event .fatal .keyLost [d]
  else (m.raise pgKey 11 (keyDetail d ln)).event .info .keyRepaired [d]

/-- A line of the replay spill is lost: every bundle with traffic there resets (R149, R309). -/
def Mod.spillLost (m : Mod) : Mod :=
  (m.bfl.bundles.map Prod.fst).foldl (fun (a : Mod) id => if 0 < m.spillFor id then a.bundleReset id true else a) m

/-- A line of a stream slot's history is lost (R284, R309): a bundle's history restarts with its bundle, a verb's stream fails its next
block. -/
def Mod.streamLost (m : Mod) (slot : Nat) : Mod :=
  if slot < 32 then (if (m.grp.map.isSome && slot / 2 != m.own && decide (slot / 2 < m.groupN)) then m.bundleReset (m.idOf (slot / 2)) true else m)
  else { m with lex := { m.lex with streams := mapUpd m.lex.streams slot fun x => { x with lost := true } } }

/-- A line of the memory-directory set that a line of region 2 belongs to (R224). -/
def dirLineOf (i : Nat) : Nat :=
  let set := i / 2 % 524288
  let sl := i / 2 / 524288
  (set / 4) * 256 + sl * 4 + set % 4

/-- An internal line that cannot be verified, decoded or read is recovered as its region's row of R309 says. -/
def Mod.internalLost (m : Mod) (code i : Nat) : Mod :=
  let m := match code with
    | 0 => m.parityLost 0 i
    | 1 => m.mapUncorrectable i
    | 2 => m.dirSetLost (dirLineOf i)
    | 3 => m.spillLost
    | 4 => m.streamLost (i / 1024)
    | 5 => m.lexFaulty (i / 512)
    | 6 => if i < 2 * keyTableLines then m.keyEntryLost i else m
    | _ => if rootNode ≤ i then m else m.nodeLost i
  if code = 0 then m
  else if m.frozen (chanOf (m.regionUnit code i).1) then m.moveInternal (regionHome code i) else m

/-- Region and line of a line of the reserved units, by unit above the pool and line (log entry 25). -/
def regionLine (x : Nat) : Nat × Nat :=
  (List.range' 1 7).foldl (fun (a : Nat × Nat) c => if a.1 = 0 then (if a.2 < regionLines c then (c, a.2) else (0, a.2 - regionLines c)) else a) (0, x)

/-- The reserved unit whose lines lie in a unit, after those that were moved (R333, R335). -/
def Mod.reservedAt (m : Mod) (u : Nat) : Option Nat :=
  if u < poolFrames then (m.chn.internalFrames.find? fun e => e.2 = u).map Prod.fst
  else if (mapGet m.chn.internalFrames u).isSome then none else some u

/-! ## The recovery walk (R308) -/

/-- A line of a volatile page below a lost node is rewritten with POISON set and its page listed (R308); a dirty copy in the front cache is
the line's value still, a clean one goes (log entry 43). -/
def Mod.nodePoison (m : Mod) (l : Nat) : Mod := match m.fcGet l with
  | some e => if e.dirty then m else ((m.fcForget l).setPoison l true).listPoison (pageOfLine l * 4096) 4096
  | none => (m.setPoison l true).listPoison (pageOfLine l * 4096) 4096

/-- A line of an own durable extent below a lost node is reconstructed from peers (R308); in no group there is nobody to ask (R103). -/
def Mod.nodeDurable (m : Mod) (l : Nat) : Mod := match m.extAt (l * 64) with
  | none => m
  | some (_, e) =>
    if (m.fcGet l).isSome then m else
    let m : Mod := { m with grp := { m.grp with absent := if m.grp.absent.contains l then m.grp.absent else m.grp.absent ++ [l] } }
    let q := m.reconLine (.line l) l e
    if q.2 then q.1 else
    let m := q.1.beyond l
    ({ m with grp := { m.grp with absent := m.grp.absent.filter fun x => x != l } }).setPoison l true

/-- A page's lines below a lost node. -/
def Mod.nodePage (m : Mod) (p u act : Nat) : Mod :=
  let ls := (upto 64).map fun n => p * 64 + n
  let d := m.domainAt (p * 64)
  let m := (upto 64).foldl (fun (a : Mod) n => a.chanWrite u n d act) m
  if m.isDurable (p * 64) then ls.foldl (fun (a : Mod) l => a.nodeDurable l) m
  else (ls.foldl (fun (a : Mod) l => a.nodePoison l) m).add pgKey KeyF.linesPoisoned 64

/-- Packed blocks of a frame below a lost node are rewritten with POISON set (R308). -/
def Mod.nodePacked (m : Mod) (frame : Nat) : Mod :=
  (m.pagesIn frame).foldl (fun (a : Mod) p => match (a.page p).st with
    | .packed _ first n _ =>
      let a := (List.range' (4 * first) (4 * n)).foldl (fun (b : Mod) i => b.chanWrite frame i (b.domainAt (p * 64)) 5) a
      ((upto 64).foldl (fun (b : Mod) i => b.nodePoison (p * 64 + i)) a).add pgKey KeyF.linesPoisoned (4 * n)
    | _ => a) m

/-- The one record of a walk that names the range of pages poisoned (R308). -/
def Mod.nodeTell (m : Mod) (w : NodeWalk) : Mod :=
  if w.told then m else
  let m := m.event .failure .nodeLost [w.node, w.first, w.leaves]
  { m with key := { m.key with walks := match m.key.walks with
      | x :: t => { x with told := true } :: t
      | [] => [] } }

/-- The lines of unit u below a lost node are treated as R308's fourth step says; a line of a free unit is rewritten as zero, which
nothing reads. -/
def Mod.nodeUnit (m : Mod) (w : NodeWalk) (u : Nat) : Mod :=
  match m.reservedAt u with
  | some h => (upto 64).foldl (fun (a : Mod) n =>
      if h < poolFrames then (match runsIndex a.aux.parityRuns h with
        | some i => a.parityLost 0 (i * 64 + n)
        | none => a) else
      let r := regionLine ((h - poolFrames) * 64 + n)
      if r.1 = 0 || r.1 = 7 then a else a.internalLost r.1 r.2) m
  | none =>
    if poolFrames ≤ u then m else
    match runsIndex m.aux.parityRuns u, runsIndex m.aux.targetRuns u with
    | some i, _ => (upto 64).foldl (fun (a : Mod) n => a.parityLost 0 (i * 64 + n)) m
    | none, some i => (upto 64).foldl (fun (a : Mod) n => a.parityLost 1 (i * 64 + n)) m
    | none, none => match m.lineAtPlace u 0 with
      | some l =>
        let m := m.nodePage (pageOfLine l) u 5
        if m.isDurable l then m else m.nodeTell w
      | none => if m.pagesIn u = [] then m else (m.nodePacked u).nodeTell w

/-- Requests that waited at lines of a unit go on in their order (R308, step 5). -/
def Mod.wakeUnit (m : Mod) (u : Nat) : Mod :=
  (m.led.reqs.filter fun r => r.wait = .line && (match (m.page (pageOfLine r.line)).st with
    | .plain f => f = u
    | .packed f _ _ _ => f = u
    | _ => false)).foldl (fun (a : Mod) r => a.resume r.id) m

/-- NODE_RECOVERY_STEP: the next leaf of the walk is rebuilt and its lines treated; the walk ends, and the next one begins (R308). -/
def execNodeRecoveryStep (s : State) : Outcome State Fault Refusal :=
  s.onM fun m => if !m.runs || m.saving then m else match m.key.walks with
    | [] => m
    | w :: _ =>
      let u := w.first + w.done
      let m := if u = w.node then m else m.nodeRebuild u
      let m := m.nodeUnit w u
      let told := match m.key.walks with
        | x :: _ => x.told
        | [] => w.told
      let later := m.key.walks.drop 1
      let m : Mod := { m with key := { m.key with walks :=
        if w.leaves ≤ w.done + 1 then later else { w with done := w.done + 1, told := told } :: later } }
      let m := if w.leaves ≤ w.done + 1 then
          (if later = [] then m.progress pgKey 0 10000 w.leaves else m.progress pgKey 1 0 0)
        else m.progress pgKey 1 ((w.done + 1) * 10000 / w.leaves) (w.done + 1)
      m.wakeUnit u

end Sys2Proof.Machine
end

