-- ==== Sys2Proof/Machine/Channels.lean ====
section
/-!
DEFINITION. Machine/Channels.lean: the memory channels (chapter 12): reads and their checks (R301, R327, R328), refresh and temperature,
lulls, patrol scrub, freezing (R332), thaw (R334) and retirement (R335).
-/
namespace Sys2Proof.Machine

open Host

/-- The channel exists. -/
def chOk (c : Nat) : Bool := decide (c < 96)

/-! ## Freezing (R332, R338) -/

/-- What a freeze captures of the access that failed (R338): cause, activity, direction, command code, row and slot (28 the header, 31
none), successive EDC mismatches, and the codeword as read. -/
structure Capture where
  cause : Nat
  act : Nat
  write : Bool
  command : Nat
  row : Nat
  slot : Nat
  edc : Nat
  raw : List Byte
  deriving DecidableEq, Repr

/-- The capture of a freeze that no access raised. -/
def Capture.bare (cause act : Nat) : Capture :=
  { cause := cause, act := act, write := false, command := 8, row := 0, slot := 31, edc := 0, raw := [] }

/-- The column of a slot's first data byte (R324): 0 for the header. -/
def columnOf (slot : Nat) : Nat := if 28 ≤ slot then 0 else 1 + 9 * (slot / 4) + 2 * (slot % 4)

/-- Syndrome bytes S0 to S3 of a codeword, S0 lowest (R338). -/
def syndromes (raw : List Byte) : Nat :=
  let w := raw.map BitVec.toNat
  (upto 4).foldl (fun a i => a + (rsSyndrome i w <<< (8 * i))) 0

/-- ERR_BYTES of a codeword (R338). -/
def errBytesOf (raw : List Byte) : Nat := match eccDecode (raw.map BitVec.toNat) with
  | .clean => 0
  | .fixed _ n => n
  | .bad => 7

/-- DETAIL of an MCH error (R339). -/
def mchDetail (cause row slot : Nat) : Nat := cause ||| (row <<< 4) ||| (slot <<< 25)

/-- CAP_DATA0 to CAP_DATA8. -/
def capFields : List Fld := [MchF.capData0, MchF.capData1, MchF.capData2, MchF.capData3, MchF.capData4, MchF.capData5, MchF.capData6,
  MchF.capData7, MchF.capData8]

/-- The capture registers are written (R338). What was queued and which banks were open the spec's model does not give: free values (log
entry 4). -/
def Mod.capture (m : Mod) (c : Nat) (k : Capture) : Mod :=
  let p := pgMch c
  let x := 28 * k.row + k.slot
  let data := decide (k.slot < 28)
  let m := [(MchF.cause, k.cause), (MchF.activity, k.act), (MchF.valid, 1), (MchF.write, b2n k.write), (MchF.tick, m.tick),
    (MchF.command, k.command), (MchF.bank, k.row % 16), (MchF.rowAddr, k.row / 16), (MchF.column, columnOf k.slot),
    (MchF.edcFails, k.edc), (MchF.seqRule, 0), (MchF.rowIndex, k.row), (MchF.slot, k.slot),
    (MchF.localUnit, if data then x / 64 else 0), (MchF.line, if data then x % 64 else 0),
    (MchF.syndrome, if k.raw = [] then 0 else syndromes k.raw), (MchF.errBytes, if k.raw = [] then 0 else errBytesOf k.raw)].foldl
      (fun (a : Mod) e => a.set p e.1 e.2) m
  let m := (upto 9).foldl (fun (a : Mod) i => a.set p (capFields.getD i MchF.capData0) (leAt k.raw (8 * i) 8)) m
  [MchF.reads, MchF.writes, MchF.openBanks].foldl (fun (a : Mod) f => let r := a.fresh
                                                                     r.2.set p f r.1) m

/-- Moves that read or write a channel end, and their pages keep their places (R336). -/
def Mod.endMovesOn (m : Mod) (c : Nat) : Mod :=
  let on := fun (p : Nat) (t : MoveTo) =>
    (match (m.page p).st with
     | .plain f => chanOf f = c
     | .packed f _ _ _ => chanOf f = c
     | _ => false) ||
    (match t with
     | .plain f => chanOf f = c
     | .packed f _ _ _ => chanOf f = c
     | .peer _ slot => chanOf (slot / 16) = c
     | .packing _ => false)
  (m.tier.moves.filter fun e => on e.1 e.2).foldl (fun (a : Mod) e => a.abandonMove e.1) m

/-- Channels FROZEN at one time (R467). -/
def Mod.frozenCount (m : Mod) : Nat := ((upto 96).filter fun c => m.frozen c).length

/-- A channel freezes (R332): issue stops, the capture, the touched line, FROZEN with the cause's bit, self-refresh, a Failure record; with
more than MAX_FROZEN frozen a module fault follows (R464). -/
def Mod.freeze (m : Mod) (c : Nat) (k : Capture) : Mod :=
  let p := pgMch c
  if !m.works p then m else
  let m := m.capture c k
  let m := m.updChan c fun x => { x with lull := false, thawing := false, settling := false }
  let m := if k.slot < 28 then m.touch c (28 * k.row + k.slot) else m
  let m := (m.setState p stFrozen).set p MchF.selfRefresh 1
  let m := (m.raise p (7 + k.cause) (mchDetail k.cause k.row k.slot)).event .failure .channelFrozen [c, k.cause]
  let m := m.endMovesOn c
  if m.get pgGlb GlbF.maxFrozen < m.frozenCount then m.moduleFault 3 0 else m

/-! ## A read from a channel (R301, R327, R328) -/

/-- What a line is to the cipher engine (R296): its slot, LN and KIND, the line of DPA it is, and the page of a packed block. -/
structure LineAs where
  d : Nat
  ln : Nat
  kind : Nat
  dpa : Option Nat
  page : Option Nat
  deriving DecidableEq, Repr

/-- What a line of the channels is; none where its unit is free, or holds a peer's page or tag grains. -/
def Mod.lineAs (m : Mod) (l : LineId) : Option LineAs := match l with
  | .region c i => some { d := 0, ln := c * 2 ^ 32 + i, kind := if c = 7 then 2 else 3, dpa := none, page := none }
  | .pool f n => match m.lineAtPlace f n with
    | some x => some { d := m.domainAt x, ln := x, kind := 0, dpa := some x, page := none }
    | none => (m.pagesIn f).findSome? fun p => match (m.page p).st with
      | .packed _ first g _ => if 4 * first ≤ n && n < 4 * (first + g)
          then some { d := m.domainAt (p * 64), ln := p * 64 + (n - 4 * first), kind := 1, dpa := none, page := some p } else none
      | _ => none

/-- MAJOR and minor a line is MACed with (R303, R304): a counter node's are its parent's, another line's its leaf's; zero without
freshness. -/
def Mod.countersOf (m : Mod) (l : LineId) (d u n : Nat) : Nat × Nat :=
  if m.modeOf d != 2 then (0, 0) else
  match l with
  | .region 7 x => let p := parentOf x
                   (m.major p.1, m.minor p.1 p.2)
  | _ => (m.major u, m.minor u n)

/-- The tag word a line must carry, given its ciphertext and its POISON bit (R299 to R301). -/
def Mod.tagFor (m : Mod) (l : LineId) (a : LineAs) (u n : Nat) (cipher : List Byte) (poison : Bool) : Nat :=
  let k := m.keyFor a.d (match a.page with
    | some p => p * 64
    | none => a.ln)
  let c := m.countersOf l a.d u n
  let boot := if m.modeOf a.d = 2 then m.glb.sec.bootTag else 0
  let st := b2n poison + 2 * k.2 + 4 * a.kind
  tagWord (if m.modeOf a.d = 0 then 0 else lineMac k.1 a.ln st boot c.1 c.2 cipher) poison k.2 a.kind

/-- A line lies on the wrong side of a MAC: handled by what the line is (R301). -/
def Mod.macHandled (m : Mod) (l : LineId) (a : LineAs) : Mod := match l, a.dpa, a.page with
  | .region c i, _, _ => m.internalLost c i
  | _, some x, _ => if m.isDurable x then m.nodeDurable x else (m.fcForget x).macPoison x
  | _, none, some p => ((upto 64).foldl (fun (b : Mod) i => b.nodePoison (p * 64 + i)) m).add pgKey KeyF.linesPoisoned 1
  | _, none, none => m

/-- CE_LINES rises (R328): a warning once more than CE_THRESHOLD corrections fell within 24 h. -/
def Mod.corrected (m : Mod) (c row slot : Nat) : Mod :=
  let p := pgMch c
  let m := m.tally p MchF.ceLines 0x112 1
  let lim := m.get p MchF.ceThreshold
  let ts := ((m.chan c).ceTicks.filter fun t => decide (m.tick < t + 24 * hour)) ++ [m.tick]
  if lim = 0 then m
  else if lim < ts.length then
    ((m.updChan c fun k => { k with ceTicks := [] }).raise p 14 (mchDetail 0 row slot)).event .warning .ceThreshold [c]
  else m.updChan c fun k => { k with ceTicks := ts }

/-- A host's read of a line that its channel could not serve takes the way of R333 and R301: reconstruction, or poison. -/
def Mod.readAway (m : Mod) (req : Option HostSrc) (a : Option LineAs) : Mod := match req, a.bind LineAs.dpa with
  | some src, some x => (match m.ctxOf src with
    | some c => let q := m.newReq (.host src c) x .rdCur 0 none
                q.1.serve q.2
    | none => m)
  | _, _ => m

/-- A line that froze its channel, or lies on a frozen one: an internal line is recovered (R309, R333). -/
def Mod.lineAway (m : Mod) (l : LineId) (req : Option HostSrc) (a : Option LineAs) : Mod := match l with
  | .region c i => m.internalLost c i
  | .pool .. => m.readAway req a

/-- A line decoded by its channel is checked, decrypted and served (R301). -/
def Mod.lineDecoded (m : Mod) (ch : Nat) (l : LineId) (u n act : Nat) (w : List Byte) (req : Option HostSrc) : Mod :=
  match m.lineAs l with
  | none => m.tally (pgMch ch) MchF.linesRead 0x110 1
  | some a =>
    let m := if a.kind = 2 then m.readTraffic ch 0 act else m.chanRead u a.d act
    let cipher := w.take 64
    let tag := leAt w 64 4
    let poison := bit tag 28
    if m.modeOf a.d != 0 && tag != m.tagFor l a u n cipher poison then
      let m := m.macFailed ch a.d a.ln
      let m := if act = 6 then m.frontMacFail a.d a.ln else m
      (m.macHandled l a).readAway req (some a)
    else match req, a.dpa with
      | some src, some x =>
        let k := m.keyFor a.d x
        (m.fcUse x false false).hostTx src.port 64 (.memData src .i (xts true k.1 x cipher) poison)
      | _, _ => m

/-- MCH_READ_RETURN: a line read from its channel with its 72 bytes, after `edcFails` retries (R301, R327, R328). A read of a channel that
does not serve is served under R333. -/
def execMchReadReturn (ch : Nat) (l : LineId) (raw : List Byte) (edcFails act : Nat) (req : Option HostSrc) (s : State) :
    Outcome State Fault Refusal :=
  s.onUnit (chOk ch) fun m => if !m.runs then m else match m.linePlace l with
    | none => m
    | some (u, n) =>
      if chanOf u != ch then m
      else if m.frozen ch then m.lineAway l req (m.lineAs l)
      else if !m.works (pgMch ch) then m
      else
        let p := pgMch ch
        let x := chanLine (localUnit u) n
        let k : Capture := { cause := 1, act := act, write := false, command := 2, row := rowOf x, slot := slotOf x, edc := edcFails, raw := raw }
        let m := m.add p MchF.edcRetries (min edcFails (m.get p MchF.edcRetryLimit))
        if m.get p MchF.edcRetryLimit ≤ edcFails then
          let a := m.lineAs l
          (m.freeze ch { k with cause := 2 }).lineAway l req a
        else match eccDecode (raw.map BitVec.toNat) with
        | .clean => m.lineDecoded ch l u n act raw req
        | .fixed w _ => (m.corrected ch k.row k.slot).lineDecoded ch l u n act (toBytes w) req
        | .bad =>
          let a := m.lineAs l
          ((m.add p MchF.ueLines 1).freeze ch k).lineAway l req a

/-! ## Refresh and temperature (R329) -/

/-- Ticks charged for a refresh: 7.5 ns, as 7 and 8 in turn. -/
def refreshTicks (n : Nat) : Nat := 7 + n % 2

/-- A per-bank refresh is issued. -/
def Mod.refresh (m : Mod) (c : Nat) : Mod :=
  let n := m.get (pgMch c) MchF.refreshes
  (m.add (pgMch c) MchF.refreshes 1).charge c 1 (refreshTicks n)

/-- REFRESH_DUE: R329; during a lull it is held (R330). In self-refresh the devices refresh themselves (R332). -/
def execRefreshDue (ch : Nat) (s : State) : Outcome State Fault Refusal :=
  s.onUnit (chOk ch) fun m =>
    if !m.runs || !m.works (pgMch ch) || m.is (pgMch ch) MchF.selfRefresh then m
    else if (m.chan ch).lull then m.updChan ch fun k => { k with refreshHeld := k.refreshHeld + 1 }
    else m.refresh ch

/-- A channel takes the temperatures of its pair (R329): hot above 85 °C, not hot with both at 82 °C or less, THERM_HIGH as a device
comes to report more than 95 °C (log entry 45). -/
def Mod.takeTemps (m : Mod) (c ta tb : Nat) : Mod :=
  let p := pgMch c
  let old := max (m.get p MchF.tempA) (m.get p MchF.tempB)
  let m := (m.set p MchF.tempA ta).set p MchF.tempB tb
  let m := if 85 < max ta tb then (if m.is p MchF.hot then m else (m.set p MchF.hot 1).raise p 15 0)
           else if max ta tb ≤ 82 then m.set p MchF.hot 0 else m
  if 95 < max ta tb && old ≤ 95 then (m.raise p 16 0).event .warning .thermHigh [c, ta, tb] else m

/-- TEMP_POLL: R329. -/
def execTempPoll (pair ta tb : Nat) (s : State) : Outcome State Fault Refusal :=
  s.onUnit (decide (pair < 48)) fun m => m.when (m.runs && m.glb.dramUp) fun m =>
    (m.takeTemps (2 * pair) (min 255 ta) (min 255 tb)).takeTemps (2 * pair + 1) (min 255 ta) (min 255 tb)

/-! ## Lulls (R330) -/

/-- LULL_DUE: the channel stops issue and trains; one lull in a spell at most. -/
def execLullDue (ch : Nat) (s : State) : Outcome State Fault Refusal :=
  s.onUnit (chOk ch) fun m =>
    if !m.runs || m.saving || !m.works (pgMch ch) || (m.chan ch).lull || 0 < (m.chan ch).spellUse.getD 2 0 then m
    else m.updChan ch fun k => { k with lull := true }

/-- LULL_DONE: the margins are recorded, what was held is issued; a lull that fails freezes the channel. The plan takes the lowest margin
since the last one (R390). -/
def execLullDone (ch : Nat) (ok : Bool) (eyeRd eyeWr : Nat) (s : State) : Outcome State Fault Refusal :=
  s.onUnit (chOk ch) fun m =>
    if !m.runs || !(m.chan ch).lull then m
    else if !ok then m.freeze ch (Capture.bare 5 2)
    else
      let p := pgMch ch
      let held := (m.chan ch).refreshHeld
      let m := m.updChan ch fun k => { k with lull := false, refreshHeld := 0 }
      let m := ((m.set p MchF.eyeRd eyeRd).set p MchF.eyeWr eyeWr).add p MchF.lulls 1
      let low := min (min eyeRd eyeWr) (mapGetD m.age.lullEye ch 255)
      let m : Mod := { m with age := { m.age with lullEye := mapPut m.age.lullEye ch low } }
      (upto held).foldl (fun (a : Mod) _ => a.refresh ch) (m.charge ch 2 300)

/-! ## Patrol scrub (R331) -/

/-- A row header is what R325 says for its row and channel. -/
def headerOk (c row : Nat) (h : List Byte) : Bool :=
  decide (leAt h 28 4 = crc32c 0 (slice h 0 28)) && decide (leAt h 0 4 % 2 ^ 21 = row) && decide (leAt h 4 1 = c)

/-- Rows of a channel (R326). -/
def chanRows : Nat := 2097152

/-- The lines of a row that did not read clean, in slot order, until one cannot be corrected (R331, R336). -/
def Mod.scrubLines (m : Mod) (c row : Nat) : List (Nat × List Byte) → Mod
  | [] => (m.add (pgMch c) MchF.scrubLines 28).set (pgMch c) MchF.scrubRow ((row + 1) % chanRows)
  | (slot, raw) :: t => match eccDecode (raw.map BitVec.toNat) with
    | .clean => m.scrubLines c row t
    | .fixed _ _ => ((m.corrected c row slot).tally (pgMch c) MchF.linesWritten 0x111 1).scrubLines c row t
    | .bad =>
      let m := (m.add (pgMch c) MchF.scrubLines (slot + 1)).add (pgMch c) MchF.ueLines 1
      m.freeze c { cause := 1, act := 3, write := false, command := 2, row := row, slot := slot, edc := 0, raw := raw }

/-- SCRUB_ROW: the row at SCRUB_ROW is read, its header checked, corrected lines rewritten (R331). -/
def execScrubRow (ch : Nat) (header : List Byte) (found : List (Nat × List Byte)) (s : State) : Outcome State Fault Refusal :=
  s.onUnit (chOk ch) fun m =>
    let p := pgMch ch
    if !m.runs || m.saving || !m.works p || !m.is p MchF.scrubEn || (m.chan ch).lull then m else
    let row := m.get p MchF.scrubRow
    if !headerOk ch row header then
      m.freeze ch { cause := 4, act := 3, write := false, command := 2, row := row, slot := 28, edc := 0, raw := [] }
    else ((m.charge ch 3 (28 * lineTicks)).chargeLines masterScrub (ch % 64) 28).scrubLines ch row (found.filter fun e => decide (e.1 < 28))

/-! ## Thaw (R334) -/

/-- THAW is written (R33, R334): the frozen channel leaves self-refresh and trains; not during an evacuation. -/
def Mod.thaw (m : Mod) (c : Nat) : Mod :=
  if m.frozen c && (m.chan c).retiring.isNone then
    (m.updChan c fun k => { k with thawing := true }).set (pgMch c) MchF.selfRefresh 0
  else m

/-- THAW_TRAIN_DONE: the channel is READY and settles its touched lines, or stays FROZEN (R334). -/
def execThawTrainDone (ch : Nat) (ok : Bool) (s : State) : Outcome State Fault Refusal :=
  s.onUnit (chOk ch) fun m =>
    let p := pgMch ch
    if !m.runs || !m.frozen ch || !(m.chan ch).thawing then m
    else if ok then
      let n := (m.chan ch).touched.length
      let m := m.updChan ch fun k => { k with thawing := false, settling := true, settleTotal := n }
      (m.setState p (if m.is p HdrF.enable then stReady else stOff)).progress p 1 0 0
    else
      ((m.updChan ch fun k => { k with thawing := false }).set p MchF.selfRefresh 1).raise p 13
        (mchDetail (m.get p MchF.cause) (m.get p MchF.rowIndex) (m.get p MchF.slot))

/-- A touched line of a channel is no longer touched. -/
def Mod.untouchAt (m : Mod) (c x : Nat) : Mod := m.updChan c fun k => { k with touched := k.touched.filter fun y => y != x }

/-- Tags of peer pages whose tag grain a line is, are lost. -/
def Mod.dropTags (m : Mod) (f n : Nat) : Mod :=
  { m with tier := { m.tier with tags := m.tier.tags.filter fun e => e.1 != f * 16 + n / 4 } }

/-- A touched line of a thawed channel is settled (R334): a line that the front cache holds is written from it; a durable line is
reconstructed; a volatile one is written with POISON set and its page listed; an internal one is written back. -/
def Mod.settleAt (m : Mod) (c x : Nat) : Mod :=
  let u := x / 64 * 96 + c
  let n := x % 64
  match m.lineAtPlace u n with
  | some l =>
    if (m.fcGet l).isSome then (m.cleanLine l).untouchAt c x
    else if m.isDurable l then
      (match m.extAt (l * 64) with
       | some (_, e) =>
         let q := m.reconLine (.settle c x) l e
         if q.2 then q.1 else ((q.1.beyond l).setPoison l true).untouchAt c x
       | none => m)
    else m.settleVolatile l
  | none => match m.lineAs (.pool u n) with
    | some a => (match a.page with
      | some p => ((upto 64).foldl (fun (b : Mod) i => (b.setPoison (p * 64 + i) true).listPoison (p * 4096) 4096) m).untouchAt c x
      | none => m.untouchAt c x)
    | none => (m.dropTags u n).untouchAt c x

/-- A unit that was placed elsewhere during the freeze is written back (R333, R334). -/
def Mod.unitBack (m : Mod) (u : Nat) : Mod :=
  let m : Mod := { m with chn := { m.chn with internalFrames := mapDel m.chn.internalFrames u } }
  ((upto 64).foldl (fun (a : Mod) n => a.chanWrite u n 0 5) m).checkUse

/-- SETTLE_STEP: the next unit placed elsewhere returns, or the next touched line is settled, leaving those whose reconstruction waits
(R334, R336). -/
def execSettleStep (ch : Nat) (s : State) : Outcome State Fault Refusal :=
  s.onUnit (chOk ch) fun m =>
    let p := pgMch ch
    if !m.runs || m.saving || !m.works p || !(m.chan ch).settling then m else
    let m := match m.chn.internalFrames.find? fun e => chanOf e.1 = ch with
      | some e => m.unitBack e.1
      | none => match (m.chan ch).touched.find? fun x => !(m.grp.recons.any fun r => r.why = ReconFor.settle ch x) with
        | some x => m.settleAt ch x
        | none => m
    let left := (m.chan ch).touched.length
    let total := (m.chan ch).settleTotal
    let m := m.progress p 1 ((total - left) * 10000 / max 1 total) (total - left)
    if left = 0 && !(m.chn.internalFrames.any fun e => chanOf e.1 = ch) then
      (m.updChan ch fun k => { k with settling := false }).progress p 0 10000 total
    else m

/-! ## Retirement (R335) -/

/-- Reserved units that lie on a channel. -/
def Mod.internalOn (m : Mod) (c : Nat) : Nat :=
  (allUnits - poolFrames) / 96 + (if (allUnits - poolFrames) % 96 ≤ (c + 96 - poolFrames % 96) % 96 then 0 else 1) -
  (m.chn.internalFrames.filter fun e => decide (poolFrames ≤ e.1) && decide (chanOf e.1 = c)).length

/-- After the retirement, fully backed extents, the parity store and the frames owed to peers would exceed the remaining frames. -/
def Mod.retireShort (m : Mod) (c : Nat) : Bool :=
  decide (m.poolSize < runsCount m.runs_ + m.share * (m.groupN - 1) + chanFrames c + m.internalOn c)

/-- RETIRE is written (R335). -/
def Mod.retire (m : Mod) (ch : Nat) : Mod :=
  let p := pgMch ch
  if !m.runs then m
  else if !(m.works p || m.frozen ch) || (m.chan ch).retiring.isSome || m.retireShort ch then m.refuse p
  else
    let m := if m.frozen ch then m else m.freeze ch (Capture.bare 6 0)
    let m := m.updChan ch fun k => { k with retiring := some 0, thawing := false, settling := false }
    ((m.set p MchF.retire 1).set p MchF.selfRefresh 0).progress p 1 0 0

/-- MCH_RETIRE: R335. -/
def execMchRetire (ch : Nat) (s : State) : Outcome State Fault Refusal := s.onUnit (chOk ch) fun m => m.retire ch

/-- A frame for what an evacuated unit held: of a fully backed page, the parity store or an internal unit whatever the use; of another page
below the emergency reserve (R261), else the evacuation waits (log entry 47). -/
def Mod.evacFrame (m : Mod) (reserve : Bool) : Option Nat :=
  if reserve then (m.allocRuns 1).bind fun l => runsNth l 0 else m.allocFrame

/-- A line of an evacuated page that does not decode or was touched is settled at the new place (R335). -/
def Mod.evacLine (m : Mod) (l : Nat) : Mod :=
  if (m.fcGet l).isSome then m
  else if m.isDurable l then m.nodeDurable l
  else (m.setPoison l true).listPoison (pageOfLine l * 4096) 4096

/-- Traffic of a unit that moves: its lines are read and written with new MACs (R298). -/
def Mod.evacTraffic (m : Mod) (u f d : Nat) : Mod :=
  (upto 64).foldl (fun (a : Mod) n => a.chanWrite f n d 5) ((m.tally (pgMch (chanOf u)) MchF.linesRead 0x110 64).charge (chanOf u) 5 (64 * lineTicks))

/-- A packing frame moves: blocks keep their grains; a frame with tag grains keeps its number, which names its pages at their holders (log
entry 47). -/
def Mod.evacPack (m : Mod) (u f : Nat) (lost : List Nat) : Mod :=
  let d := ((mapGet m.tier.packs u).map Prod.fst).getD 0
  let ps := m.pagesIn u
  let hit := ps.filter fun p => match (m.page p).st with
    | .packed _ a g _ => lost.any fun n => decide (4 * a ≤ n) && decide (n < 4 * (a + g))
    | _ => false
  let m := m.evacTraffic u f d
  let m := hit.foldl (fun (a : Mod) p => (upto 64).foldl (fun (b : Mod) i => b.evacLine (p * 64 + i)) a) m
  let m := lost.foldl (fun (a : Mod) n => a.dropTags u n) m
  if m.tier.pages.any fun e => (match e.2.st with
    | .peer _ slot => slot / 16 = u
    | _ => false) then { m with chn := { m.chn with internalFrames := mapPut m.chn.internalFrames u f } }
  else
    let m := ps.foldl (fun (a : Mod) p => match (a.page p).st with
      | .packed _ x g lx => (a.setPage p { a.page p with st := .packed f x g lx }).mapChanged p
      | _ => a) m
    match mapGet m.tier.packs u with
    | some e => { m with tier := { m.tier with packs := mapPut (mapDel m.tier.packs u) f e } }
    | none => m

/-- What an evacuated unit holds goes to another channel (R335); none while it has to wait for a frame. -/
def Mod.evacUnit (m : Mod) (u : Nat) (lost : List Nat) : Option Mod :=
  let moveTo := fun (key : Nat) => (m.evacFrame true).map fun f =>
    ({ m with chn := { m.chn with internalFrames := mapPut m.chn.internalFrames key f } }).evacTraffic u f 0
  let internal := fun (h : Nat) (m : Mod) => lost.foldl (fun (a : Mod) n =>
    if h < poolFrames then (match runsIndex a.aux.parityRuns h with
      | some i => a.parityLost 0 (i * 64 + n)
      | none => a)
    else let r := regionLine ((h - poolFrames) * 64 + n)
         if r.1 = 0 then a else a.internalLost r.1 r.2) m
  match m.reservedAt u with
  | some h => (moveTo h).map (internal h)
  | none =>
    if poolFrames ≤ u || (mapGet m.chn.internalFrames u).isSome then some m
    else if (runsIndex m.aux.parityRuns u).isSome || (runsIndex m.aux.targetRuns u).isSome then (moveTo u).map (internal u)
    else match m.lineAtPlace u 0 with
    | some l =>
      let p := pageOfLine l
      let m := m.abandonMove p
      (m.evacFrame (m.backedBy p).isSome).map fun f =>
        let m := (m.evacTraffic u f (m.domainAt l)).setPage p { m.page p with st := .plain f }
        lost.foldl (fun (a : Mod) n => a.evacLine (p * 64 + n)) (m.mapChanged p)
    | none =>
      if (mapGet m.tier.packs u).isSome then (m.evacFrame false).map fun f => m.evacPack u f lost
      else match m.tier.heldFrames.find? fun e => e.2 = u with
        | some e => (m.evacFrame false).map fun f =>
            ({ m with tier := { m.tier with heldFrames := mapPut m.tier.heldFrames e.1 f } }).evacTraffic u f 0
        | none => some m

/-- Local units of a channel (R326). -/
def chanUnits : Nat := 917504

/-- A channel is RETIRED (R335). -/
def Mod.retireNow (m : Mod) (c : Nat) : Mod :=
  let p := pgMch c
  let m := m.updChan c fun k => { k with retiring := none, touched := [] }
  let m : Mod := { m with chn := { m.chn with retired := if m.chn.retired.contains c then m.chn.retired else m.chn.retired ++ [c] } }
  (((m.setState p stRetired).set p MchF.selfRefresh 1).set p MchF.retire 0).checkUse

/-- EVACUATE_STEP: the next local unit is evacuated, `bad` being its lines that do not decode; after the last the channel is RETIRED
(R335). -/
def execEvacuateStep (ch : Nat) (bad : List Nat) (s : State) : Outcome State Fault Refusal :=
  s.onUnit (chOk ch) fun m =>
    let p := pgMch ch
    match (m.chan ch).retiring with
    | none => m
    | some v =>
      if !m.runs || m.saving then m else
      let touched := (upto 64).filter fun n => (m.chan ch).touched.contains (chanLine v n)
      match m.evacUnit (v * 96 + ch) (touched ++ (bad.filter fun n => decide (n < 64) && !touched.contains n)) with
      | none => m
      | some m =>
        let m := m.updChan ch fun k => { k with retiring := some (v + 1), touched := k.touched.filter fun x => x / 64 != v }
        if chanUnits ≤ v + 1 then ((m.retireNow ch).progress p 0 10000 chanUnits).raise p 17 0
        else m.progress p 1 ((v + 1) * 10000 / chanUnits) (v + 1)

end Sys2Proof.Machine
end

