-- ==== Sys2Proof/Machine/Quads.lean ====
section
/-!
DEFINITION. Machine/Quads.lean: the role of a lane quad (R8, R154, R155, R161, R191).
-/
namespace Sys2Proof.Machine

open Host

/-- Lane quads (R7). -/
def quadCount : Nat := 32

/-- The configuration LNQ_ROLE_CTL asks for (R155). -/
def Mod.askedQuad (m : Mod) (q : Nat) : QuadCfg :=
  let p := pgLnq q
  { role := m.get p LnqF.roleReq, split := m.get p LnqF.peerSplit, cfg := m.get p LnqF.hostCfg, base := m.get p LnqF.portBase }

/-- SHAPE and MODE of HOST_CFG (R161). -/
def QuadCfg.shape (c : QuadCfg) : Nat := c.cfg % 4
def QuadCfg.mode (c : QuadCfg) : Nat := c.cfg / 4

/-- Member quads of a lead with this configuration (R161). -/
def QuadCfg.members (c : QuadCfg) (q : Nat) : List Nat :=
  if c.role != 1 then [] else if c.shape = 1 then [q + 1] else if c.shape = 2 then [q + 1, q + 2, q + 3] else []

/-- The quad is, or asks to be, a member of a wide port (R161): an APPLY written to it is refused. -/
def Mod.isMemberQuad (m : Mod) (q : Nat) : Bool :=
  let c := m.askedQuad q
  (c.role = 1 && c.shape = 3) || (upto quadCount).any fun l => ((m.quad l).members l).contains q

/-- The quads an APPLY changes with what each asks for: a lead and its members. -/
def Mod.applySet (m : Mod) (q : Nat) : List (Nat × QuadCfg) :=
  let c := m.askedQuad q
  (q, c) :: (c.members q).map fun x => (x, m.askedQuad x)

/-- One configuration is well formed (R155, R161). -/
def quadOk (q : Nat) (c : QuadCfg) : Bool :=
  decide (c.role ≤ 2) && (c.role != 2 || decide (c.split ≤ 2)) &&
  (c.role != 1 || (decide (c.mode ≤ 1) && (c.shape != 1 || q % 2 = 0) && (c.shape != 2 || q % 4 = 0))) &&
  decide (c.base + c.count ≤ 96)

/-- Members ask for the host role, SHAPE 3 and the lead's MODE (R161). -/
def Mod.membersOk (m : Mod) (q : Nat) : Bool :=
  let c := m.askedQuad q
  (c.members q).all fun x =>
    let d := m.askedQuad x
    decide (x < quadCount) && d.role = 1 && d.shape = 3 && d.mode = c.mode

/-- The quads' configurations with some of them replaced. -/
def Mod.quadsWith (m : Mod) (l : List (Nat × QuadCfg)) : List (Nat × QuadCfg) :=
  (upto quadCount).map fun q => match l.find? fun e => e.1 = q with
    | some e => e
    | none => (q, m.quad q)

/-- R8's limits: at most 96 ports and 32 host ports, each driven by an engine of its own (R126). -/
def limitsOk (l : List (Nat × QuadCfg)) : Bool :=
  let ports := l.flatMap fun e => e.2.ports
  decide (ports.length ≤ 96) && decide ((l.flatMap fun e => if e.2.role = 1 then e.2.ports else []).length ≤ 32) &&
  ports.eraseDups.length = ports.length

/-- The steward port stays in the host role and direct mode on the engine that leads it (R191). -/
def Mod.stewardKept (m : Mod) (l : List (Nat × QuadCfg)) : Bool :=
  if !m.is pgStw StwF.valid then true else
  let sp := m.get pgStw StwF.stewardPort
  match m.quadOf sp with
  | none => true
  | some q => match l.find? fun e => e.1 = q with
    | none => true
    | some e => e.2.role = 1 && e.2.mode = 0 && e.2.ports.contains sp

/-- A quad changes role: its ports stop; peer ports go down and host ports drain (R154, steps 1 and 2). -/
def Mod.stopQuad (m : Mod) (q : Nat) : Mod :=
  let c := m.quad q
  c.ports.foldl (fun (a : Mod) n => if c.role = 2 then a.bfPortDown n else a.drainStart n .role) m

/-- APPLY is written (R154, R161): the change starts, or is refused as a whole. -/
def Mod.lnqApply (m : Mod) (q : Nat) : Mod :=
  let l := m.applySet q
  let busy := m.bfl.changing.any fun e => (l.any fun x => x.1 = e.1) || e.1 = q
  if m.isMemberQuad q || busy || !(l.all fun e => quadOk e.1 e.2) || !m.membersOk q || !limitsOk (m.quadsWith l) || !m.stewardKept l
  then m.refuse (pgLnq q)
  else
    let m := l.foldl (fun (a : Mod) e => a.stopQuad e.1) m
    let m : Mod := { m with bfl := { m.bfl with changing := l.foldl (fun (c : Map QuadCfg) e => mapPut c e.1 e.2) m.bfl.changing } }
    let m := m.set (pgLnq q) LnqF.apply 1
    l.foldl (fun (a : Mod) e => a.set (pgLnq e.1) LnqF.changing 1) m

/-- LNQ_APPLY: R154. -/
def execLnqApply (quad : Nat) (s : State) : Outcome State Fault Refusal :=
  s.onUnit (decide (quad < quadCount)) fun m => m.when m.runs fun m => m.lnqApply quad

/-- A port engine takes a role (R154): a change of it advances the engine's role epoch. -/
def Mod.portRole (m : Mod) (n role : Nat) : Mod := if m.get (pgPrt n) HdrF.roleCode = role then m else m.newRole (pgPrt n) role

/-- The ports of a quad's new role train (R154, steps 4 and 5). -/
def Mod.startQuad (m : Mod) (old : List Nat) (c : QuadCfg) : Mod :=
  let gone := old.filter fun n => !c.ports.contains n
  let m := gone.foldl (fun (a : Mod) n => (a.set (pgPrt n) PrtF.hostLinkState 0).portRole n 0) m
  c.ports.foldl (fun (a : Mod) n =>
    let p := pgPrt n
    let a := a.portRole n c.role
    if c.role = 2 then (a.set p PrtF.hostLinkState 0).setBState n bsTraining
    else
      let a := a.set p PrtF.hostMode c.mode
      if a.is p PrtF.hostLinkDisable then a.set p PrtF.hostLinkState 0 else a.set p PrtF.hostLinkState 1) m

/-- The old ports of a change have stopped: no host port of it is up or draining. -/
def Mod.quadStopped (m : Mod) (q : Nat) : Bool := (m.quad q).role != 1 || (m.quad q).ports.all fun n =>
  let st := m.get (pgPrt n) PrtF.hostLinkState
  st != 2 && st != 3

/-- LNQ_ROLE_CHANGE_DONE: the new configuration is in force, role epochs advance, and APPLY clears (R154, step 5). -/
def execLnqRoleChangeDone (quad : Nat) (s : State) : Outcome State Fault Refusal :=
  s.onUnit (decide (quad < quadCount)) fun m => match mapGet m.bfl.changing quad with
    | none => m
    | some c =>
      let qs := quad :: c.members quad
      if !m.runs || !m.is (pgLnq quad) LnqF.apply || !(qs.all m.quadStopped) then m
      else
        let old := qs.flatMap fun q => (m.quad q).ports
        let news := qs.filterMap fun q => (mapGet m.bfl.changing q).map fun c => (q, c)
        let m : Mod := { m with bfl := { m.bfl with quads := news.foldl (fun (a : Map QuadCfg) e => mapPut a e.1 e.2) m.bfl.quads,
                                                    changing := news.foldl (fun (a : Map QuadCfg) e => mapDel a e.1) m.bfl.changing } }
        let m := news.foldl (fun (a : Mod) e =>
          let p := pgLnq e.1
          ((a.set p LnqF.role e.2.role).set p LnqF.changing 0).newRole p e.2.role) m
        (m.set (pgLnq quad) LnqF.apply 0).startQuad old c

end Sys2Proof.Machine
end

