-- ==== Sys2Proof/Machine/OnDie.lean ====
section
/-!
DEFINITION. Machine/OnDie.lean: the on-die memories (chapter 18): the drizzle tester, repairs, the secure store, the
lifecycle fuses and the lid.
-/
namespace Sys2Proof.Machine

open Host

/-- Regions of the on-die memories (R433). -/
def regionCount : Nat := 229376

/-- First regions of the classes 0 to 9 (R433). -/
def classFirst : List Nat :=
  [0, 131072, 163840, 180224, 196608, 221184, 225280, 227328, 227904, 228928]

/-- The class of a region (R433). -/
def regionClass (r : Nat) : Nat := (classFirst.filter fun f => decide (f ≤ r)).length - 1

/-- DETAIL of a DRZ error: the region and its class (R446). -/
def drzDetail (r : Nat) : Nat := r ||| (regionClass r <<< 18)

/-- Spares used of a macro of 64 KiB (64 regions): rows under key 2n, column groups under 2n + 1 (R434). -/
def spareKey (region : Nat) (column : Bool) : Nat := region / 64 * 2 + b2n column

/-- Spares a macro carries: 4 rows, 2 column groups (R434). -/
def spareMax (column : Bool) : Nat := if column then 2 else 4

/-- Spares free in the least-provided macro (R445). -/
def Mod.sparesFree (m : Mod) : Nat :=
  m.drz.used.foldl (fun a e =>
    let row := mapGetD m.drz.used (e.1 / 2 * 2) 0
    let col := mapGetD m.drz.used (e.1 / 2 * 2 + 1) 0
    min a (6 - (row + col))) 6

/-- DRIZZLE_REGION_START: GAP_US after the previous region, while the DRZ page is enabled and no save pauses it, the next
region is copied to the shadow, redirection starts and the March test runs (R437, R438). -/
def execDrizzleRegionStart (s : State) : Outcome State Fault Refusal :=
  s.onM fun m =>
    if m.works pgDrz && m.is pgDrz HdrF.enable && m.drz.under.isNone && !m.drz.paused && m.restored then
      let m := m.until_ (m.drz.lastEnd + m.get pgDrz DrzF.gapUs * us)
      let r := m.get pgDrz DrzF.region
      let m := { m with drz := { m.drz with under := some r } }
      m.progress pgDrz 1 (r * 10000 / regionCount) r
    else m

/-- The spares cannot cure a region (R440): UNREPAIRABLE, a Failure record, the region fenced with its class's effect;
classes 6 to 9 are a module fault of cause 2. -/
def Mod.unrepairable (m : Mod) (r : Nat) : Mod :=
  let m := (m.raise pgDrz 9 (drzDetail r)).event .failure .unrepairable [r]
  let m := if m.drz.fenced.contains r then m else { m with drz := { m.drz with fenced := m.drz.fenced ++ [r] } }
  let c := regionClass r
  if 6 ≤ c && c ≤ 9 then m.moduleFault 2 (pageSlot pgDrz) else m.fenceOwner r

/-- One faulty row or column group of region `r` (R439): mapped to a free spare of the macro and retested; a pass is
logged once and sets REPAIRED, a full log sets LOG_FULL; no spare or no cure is R440's. -/
def Mod.repairCell (m : Mod) (r : Nat) (f : CellFault) : Mod :=
  if !m.is pgDrz DrzF.repairEn then m else
  let k := spareKey r f.column
  let used := mapGetD m.drz.used k 0
  if spareMax f.column ≤ used then m.unrepairable r else
  let m := { m with drz := { m.drz with used := mapPut m.drz.used k (used + 1) } }
  let m := m.add pgDrz DrzF.repairs 1
  if !f.cured then m.unrepairable r
  else if m.boot.repairs.any fun e => e.region = r && e.column = f.column && e.position = f.position then m
  else if m.boot.repairs.length < 256 then
    let e : Repair := { column := f.column, region := r, position := f.position, spare := used, pass := m.boot.passes }
    ({ m with boot := { m.boot with repairs := m.boot.repairs ++ [e] } }).raise pgDrz 8 (drzDetail r)
  else m.raise pgDrz 13 (drzDetail r)

/-- The region under test ends (R437): repairs, copy back, the next region; the last one ends a pass. How many accesses went to the
shadow (R438, R450) is free (log entry 4). -/
def Mod.regionEnd (m : Mod) (r : Nat) (found : List CellFault) : Mod :=
  let q := m.fresh
  let m := q.2.count pgDrz 0x101 q.1
  let m := found.foldl (fun a f => a.repairCell r f) m
  let m := { m with drz := { m.drz with under := none, lastEnd := m.tick } }
  let m := (m.add pgDrz DrzF.regionsTested 1).count pgDrz 0x100 1
  let next := if r + 1 < regionCount then r + 1 else 0
  let m := (m.set pgDrz DrzF.region next).set pgDrz DrzF.class_ (regionClass next)
  let m := if next = 0 then
      (({ m with boot := { m.boot with passes := m.boot.passes + 1 } }).add pgDrz DrzF.passes 1).progress pgDrz 0 10000
        (regionCount - 1)
    else m
  m.drained pgDrz

/-- The secure store's words are wiped (R442, R443). -/
def Mod.wipeSecure (m : Mod) : Mod :=
  ({ m with glb := { m.glb with
      sec := { devKey := 0#256, root := 0, majorHigh := 0, bootTag := 0, spareKey := none, measure := 0 } } }).raise pgDrz 12 0

/-- KEY_GEN advances with a wipe; one that would need a 65th value leaves the module in DECOMMISSIONED (R442). -/
def Fuses.advance (f : Fuses) : Fuses :=
  if f.keyGen < 63 then { f with keyGen := f.keyGen + 1, wipes := f.wipes + 1 }
  else { f with lifecycle := 3, wipes := f.wipes + 1 }

/-- A lifecycle move of R442's table. -/
def legalMove (a b : Nat) : Bool := (a = 0 && b = 1) || (a = 1 && (b = 2 || b = 3)) || (a = 2 && b = 3)

/-- Fuses after a legal lifecycle move: the new state, KEY_GEN advanced (R442). -/
def Fuses.move (f : Fuses) (target : Nat) : Fuses := ({ f with lifecycle := target, half := none }).advance

/-- Tamper (R441, R443): the secure store and the key caches are wiped, TAMPER and a Fatal record, the durable extents fenced,
a running save abandoned without a seal (R444). -/
def Mod.tamper (m : Mod) : Mod :=
  let m := { m with glb := { m.glb with tampered := true } }
  let m := (m.wipeSecure).wipeKeyCaches
  let m := (m.set pgDrz DrzF.tamper 1).raise pgDrz 11 0
  let m := (m.event .fatal .tamper []).fence .tamper
  match m.vlt.save with
  | none => m
  | some v =>
    let m := { m with vlt := { m.vlt with save := none } }
    let m := m.showVlt.set pgVlt HdrF.opState 3
    if v.after = .powerDown then { m with glb := { m.glb with powered := false } } else m

/-- The break element is found open (R443). -/
def Mod.lidFound (m : Mod) : Mod := ({ m with glb := { m.glb with lidOpen := true } }.set pgDrz DrzF.lidOk 0).tamper

/-- LID_OPEN: while the die has power, the first time the break element is found open (R443). -/
def execLidOpen (s : State) : Outcome State Fault Refusal :=
  if s.m.glb.powered && !s.m.glb.lidOpen then .next { s with fuse := s.fuse.advance, m := s.m.lidFound } else .next s

/-- Every block is erased from the vault: both images and the lexicon area (R442). -/
def Mod.eraseVault (m : Mod) : Mod :=
  { m with vlt := { m.vlt with areaA := none, areaB := none, lexGen := m.vlt.lexGen + 1, lexArea := [], erased := true } }

/-- LIFECYCLE_SET: R442. A move of the table wipes the secure store, advances KEY_GEN and derives a new device key; to
DECOMMISSIONED it is refused with Busy while a durable extent exists, unless FORCE, and releases every extent and
erases the vault. Leaving MANUFACTURE needs the signed token. -/
def execLifecycleSet (via : Via) (target : Nat) (force tokenOk : Bool) (s : State) : Outcome State Fault Refusal :=
  if !s.m.mailbox via then .next s
  else if !legalMove s.fuse.lifecycle target || (s.fuse.lifecycle = 0 && !tokenOk) then
    s.onM fun m => m.reply via .invalidInput []
  else if target = 3 && s.m.hasDurable && !force then s.onM fun m => m.reply via .busy []
  else
    let f := s.fuse.move target
    let m := s.m.wipeSecure
    let m := { m with glb := { m.glb with sec := { m.glb.sec with devKey := Config.deviceKey f.keyGen } } }
    let m := if f.lifecycle = 3 then m.releaseAll.eraseVault else m
    .next { s with fuse := f, m := m.reply via .success [] }

/-- LIFECYCLE_GET: the state and KEY_GEN (R442). -/
def execLifecycleGet (via : Via) (s : State) : Outcome State Fault Refusal :=
  s.onM fun m => m.onMailbox via fun m =>
    m.reply via .success (leBytes 1 s.fuse.lifecycle ++ leBytes 1 s.fuse.keyGen)

/-- DIE_WAKE: phase 0 (R458). Without reference-clock pair 0 the module stays there (R476). The lid is checked before
the secure store is loaded (R443); SRAM is clear, and after a power-on the repair log is applied (R436, R439); a half-written move is
completed (R442); the device key is derived and BOOT_TAG drawn (R441). -/
def execDieWake (lidOpen clk0 : Bool) (s : State) : Outcome State Fault Refusal :=
  if s.m.glb.powered && decide (s.m.phase = 0) && clk0 then
    let open_ := lidOpen || s.m.glb.lidOpen
    let f := match s.fuse.half with
      | some t => s.fuse.move t
      | none => s.fuse
    let f := if open_ then f.advance else f
    let m := if open_ then s.m.lidFound else s.m
    let m := { m with drz := { m.drz with
      under := none, paused := true,
      used := if m.get pgGlb GlbF.lastReset != 0 then m.drz.used else m.boot.repairs.foldl (fun (a : Map Nat) (e : Repair) =>
        mapPut a (spareKey e.region e.column) (mapGetD a (spareKey e.region e.column) 0 + 1)) ([] : Map Nat) } }
    let r := m.fresh
    let m := { r.2 with glb := { r.2.glb with
      clkStopped := r.2.glb.clkStopped.filter fun k => k != 0,
      sec := { devKey := Config.deviceKey f.keyGen, root := 0, majorHigh := 0, bootTag := r.1 % 2 ^ 24, spareKey := none,
               measure := 0 } } }
    .next { s with fuse := f, m := (m.fence .startup).set pgGlb GlbF.phase 1 }
  else .next s

end Sys2Proof.Machine
end

