-- ==== Sys2Proof/Machine/Startup.lean ====
section
/-!
DEFINITION. Machine/Startup.lean: start-up and resets (chapter 20): firmware authentication, the end of start-up, the
module reset and its arming, the watchdog.
-/
namespace Sys2Proof.Machine

open Host

/-- An image authenticates: present, signature and version good (R459). -/
def FwSlot.ok (f : FwSlot) : Bool := f.image && f.good

/-- A boot-flash slot. -/
def Mod.bootSlot (m : Mod) (slot : Nat) : FwSlot := if slot = 1 then m.boot.slot1 else m.boot.slot2

/-- FW_AUTH_DONE: the boot ROM starts the slot the last Activate FW named, or slot 1; else the other slot with
FW_FALLBACK; with neither, MODULE_FAULT cause FIRMWARE in phase 1 (R459). Blocks come into service (R33). -/
def execFwAuthDone (s : State) : Outcome State Fault Refusal :=
  s.onM fun m =>
    if m.phase = 1 && m.runs then
      let first := m.boot.named.getD 1
      let other := 3 - first
      let run (m : Mod) (slot : Nat) : Mod :=
        let m := (m.set pgGlb GlbF.fwSlot slot).set pgGlb GlbF.phase 2
        { m with glb := { m.glb with pagesUp := true,
                                     sec := { m.glb.sec with measure := (m.bootSlot slot).version } } }
      if (m.bootSlot first).ok then run (m.set pgGlb GlbF.fwFallback 0) first
      else if (m.bootSlot other).ok then (run (m.set pgGlb GlbF.fwFallback 1) other).raise pgGlb 9 0
      else m.moduleFault 5 0
    else m

/-- STARTUP_DONE: links are up and the module is reconciled, or in no group: MODULE_STATE becomes SERVING and PHASE DONE;
after a module reset RESET_DONE is set (R458, R460, R468). -/
def execStartupDone (s : State) : Outcome State Fault Refusal :=
  s.onM fun m =>
    if m.runs && !m.saving && (m.phase = 5 || m.phase = 6) && !m.aux.reconciling then
      let m := (m.set pgGlb GlbF.phase 7).setModState msServing
      let m := m.set pgGlb GlbF.toServiceMs (min 65535 ((m.tick - m.glb.pgTick) / ms))
      if m.get pgGlb GlbF.lastReset = 0 then m else m.raise pgGlb 11 0
    else m

/-- RESET_ARM is written (R463): it stands for 1 ms. -/
def Mod.armReset (m : Mod) : Mod :=
  ({ m with glb := { m.glb with armUntil := some (m.tick + ms) } }).set pgGlb GlbF.resetArm 1

/-- RESET_ARM: R463. -/
def execResetArm (s : State) : Outcome State Fault Refusal := s.onM fun m => m.armReset

/-- RESET_ARM_EXPIRE: 1 ms after it was written, RESET_ARM clears (R463). -/
def execResetArmExpire (s : State) : Outcome State Fault Refusal :=
  s.onM fun m => match m.glb.armUntil with
    | some t => (({ m with glb := { m.glb with armUntil := none } }).set pgGlb GlbF.resetArm 0).until_ t
    | none => m

/-- GLB_CTL.MODULE_RESET is written (R463): with RESET_ARM standing a module reset starts, else it is refused. -/
def Mod.glbReset (m : Mod) : Mod :=
  match m.glb.armUntil with
  | some t =>
    if m.tick ≤ t then
      let m := ({ m with glb := { m.glb with armUntil := none } }).set pgGlb GlbF.resetArm 0
      (m.set pgGlb GlbF.moduleReset 1).requestReset 1
    else m.refuse pgGlb
  | none => m.refuse pgGlb

/-- GLB_MODULE_RESET: R463. -/
def execGlbModuleReset (s : State) : Outcome State Fault Refusal := s.onM fun m => m.glbReset

/-- MODULE_RESET: the command completes, then a module reset with a trigger 5 save starts (R463); in HALTED, whose save
is made, the module starts again from phase 0 at once (R459, R464). -/
def execModuleReset (via : Via) (reason : Nat) (s : State) : Outcome State Fault Refusal :=
  s.onM fun m => m.when (m.mailboxRom via && decide (reason < 256)) fun m =>
    let m := m.reply via .success []
    if m.glb.halted then m.moduleResetNow 3 else m.requestReset 3

/-- WATCHDOG_EXPIRE: the management core failed its watchdog for 100 ms: a module fault of cause 4 (R464). -/
def execWatchdogExpire (s : State) : Outcome State Fault Refusal :=
  s.onM fun m => m.when m.runs fun m => m.moduleFault 4 0

end Sys2Proof.Machine
end

