-- ==== Sys2Proof/Machine/Clocks.lean ====
section
/-!
DEFINITION. Machine/Clocks.lean: resets of host ports (R461, R473) and the reference clocks (R476, R477).
-/
namespace Sys2Proof.Machine

open Host

/-- A port reset (R461): link loss, and on the steward port an FLR also where no link was up; then the port trains. -/
def Mod.portReset (m : Mod) (port : Nat) : Mod :=
  if !m.hostRole port then m else
  let up := m.portUp port
  ((m.linkLoss port).when (!up && m.isSteward port) Mod.flr).hostTrains port

/-- PORT_RESET: R461. -/
def execPortReset (port : Nat) (s : State) : Outcome State Fault Refusal :=
  s.onUnit (portOk port) fun m => m.when m.runs fun m => m.portReset port

/-- PERST_N: a conventional reset of every host port (R473). -/
def execPerstN (s : State) : Outcome State Fault Refusal :=
  s.onM fun m => m.when m.runs fun m => (upto 96).foldl (fun (a : Mod) n => a.portReset n) m

/-- Port engines on the quads of a reference-clock pair (R476). -/
def Mod.pairPorts (m : Mod) (pair : Nat) : List Nat := (List.range' (4 * pair) 4).flatMap fun q => (m.quad q).ports

/-- A port goes down with its clock (R477). -/
def Mod.clockLost (m : Mod) (port : Nat) : Mod :=
  if m.peerRole port then m.bfPortDown port
  else if m.hostRole port then
    let m := m.linkLoss port
    if m.get (pgPrt port) PrtF.hostLinkState = 4 then m else m.set (pgPrt port) PrtF.hostLinkState 0
  else m

/-- REFCLK_STOP: the pair's ports go down; with pair 0 the timebase holds over, and a Fatal record is raised (R477). -/
def execRefclkStop (pair : Nat) (s : State) : Outcome State Fault Refusal :=
  s.onUnit (decide (pair < 8)) fun m =>
    if m.glb.clkStopped.contains pair then m else
    let m := { m with glb := { m.glb with clkStopped := m.glb.clkStopped ++ [pair] } }
    m.when m.runs fun m =>
      let m := (m.pairPorts pair).foldl (fun (a : Mod) n => a.clockLost n) m
      if pair = 0 then ({ m with glb := { m.glb with holdover := true } }).event .fatal .refclk [0] else m

/-- A port trains again once its clock has returned (R477). -/
def Mod.clockBack (m : Mod) (port : Nat) : Mod :=
  if m.peerRole port then (if m.mayTrain port then m.setBState port bsTraining else m)
  else if m.hostRole port then m.hostTrains port
  else m

/-- REFCLK_RETURN: R477. -/
def execRefclkReturn (pair : Nat) (s : State) : Outcome State Fault Refusal :=
  s.onUnit (decide (pair < 8)) fun m =>
    if !m.glb.clkStopped.contains pair then m else
    let m := { m with glb := { m.glb with clkStopped := m.glb.clkStopped.filter fun k => k != pair,
                                          holdover := m.glb.holdover && pair != 0 } }
    m.when m.runs fun m => (m.pairPorts pair).foldl (fun (a : Mod) n => a.clockBack n) m

end Sys2Proof.Machine
end

