-- ==== Sys2Proof/Machine/Mailbox.lean ====
section
/-!
DEFINITION. Machine/Mailbox.lean: the standard mailbox and FM-API commands that read or set the management core's own
state (R184, R201 to R203). Where the payload layout is the standard's, the completion carries the values.
-/
namespace Sys2Proof.Machine

open Host

/-- Raw memory in bytes: 384 GiB (R1). -/
def rawBytes : Nat := 384 * gib

/-- IDENTIFY_MEMORY_DEVICE: vendor and device ID, stepping, raw memory, maximum host-visible capacity (R1, R201). -/
def execIdentifyMemoryDevice (via : Via) (s : State) : Outcome State Fault Refusal :=
  s.onM fun m => m.when (m.mailboxRom via) fun m =>
    m.replyVals via .success [Config.vendorId.toNat, 0x5348, 0xB0, rawBytes, dpaBytes, Config.serial.toNat]

/-- FM_IDENTIFY: the module identity, FM-API's form (R1, R184). -/
def execFmIdentify (via : Via) (s : State) : Outcome State Fault Refusal :=
  s.onM fun m => m.when (m.mailboxRom via) fun m =>
    m.replyVals via .success [Config.vendorId.toNat, 0x5348, Config.vendorId.toNat, 1, Config.serial.toNat, rawBytes, dpaBytes]

/-- GET_SUPPORTED_LOGS: the command effects log and the vendor debug log (R201). -/
def execGetSupportedLogs (via : Via) (s : State) : Outcome State Fault Refusal :=
  s.onM fun m => m.onMailbox via fun m => m.replyVals via .success [0, 1]

/-- GET_LOG: bytes of the command effects log or the vendor debug log; what they hold is the standard's and the vendor's,
so the bytes are free values (log entry 4). -/
def execGetLog (via : Via) (debug : Bool) (off len : Nat) (s : State) : Outcome State Fault Refusal :=
  s.onM fun m => m.onMailbox via fun m =>
    m.reply via .success ((upto len).map fun i => BitVec.ofNat 8 (Config.freeOf 201 [b2n debug, off + i]))

/-- The timestamp now: what was set, and the time passed since (R201). -/
def Mod.timestampNow (m : Mod) : Nat := m.mgmt.timestamp + m.tick

/-- GET_TIMESTAMP: R201. -/
def execGetTimestamp (via : Via) (s : State) : Outcome State Fault Refusal :=
  s.onM fun m => m.onMailbox via fun m => m.reply via .success (leBytes 8 m.timestampNow)

/-- SET_TIMESTAMP: R201. The store holds the value less the tick count, modulo 2^64. -/
def execSetTimestamp (via : Via) (t : Nat) (s : State) : Outcome State Fault Refusal :=
  s.onM fun m => m.onMailbox via fun m =>
    ({ m with mgmt := { m.mgmt with timestamp := (t + (2 ^ 64 - m.tick % 2 ^ 64)) % 2 ^ 64 } }).reply via .success []

/-- GET_EVENT_INTERRUPT_POLICY: the setting of each log (R195, R201). -/
def execGetEventInterruptPolicy (via : Via) (s : State) : Outcome State Fault Refusal :=
  s.onM fun m => m.onMailbox via fun m =>
    m.reply via .success ((upto 4).map fun i => BitVec.ofNat 8 (m.mgmt.policy.getD i 0))

/-- SET_EVENT_INTERRUPT_POLICY: one setting byte for each log (R195, R201). -/
def execSetEventInterruptPolicy (via : Via) (policy : List Nat) (s : State) : Outcome State Fault Refusal :=
  s.onM fun m => m.onMailbox via fun m =>
    ({ m with mgmt := { m.mgmt with policy := (upto 4).map fun i => policy.getD i 0 % 256 } }).reply via .success []

/-- The severity a log number names: 0 Informational, 1 Warning, 2 Failure, 3 Fatal (R203). -/
def sevOf : Nat → Option Sev
  | 0 => some .info | 1 => some .warning | 2 => some .failure | 3 => some .fatal | _ => none

/-- GET_EVENT_RECORDS: the records of a log, and how many were lost to a full log (R203). -/
def execGetEventRecords (via : Via) (log : Nat) (s : State) : Outcome State Fault Refusal :=
  s.onM fun m => m.onMailbox via fun m => match sevOf log with
    | none => m.reply via .invalidInput []
    | some v =>
      -- the host has now read the log: a repeated violation is recorded afresh (R176)
      let m := if v = .warning then { m with fab := { m.fab with seen := [] } } else m
      (m.count pgGlb 0x101 1).send (.records via (m.mgmt.logs.recs.filter fun r => r.sev = v) (mapGetD m.mgmt.logs.lost log 0))

/-- CLEAR_EVENT_RECORDS: removes the named records, or every one with the overflow count, for both interfaces; a handle
the log does not hold is refused and nothing is removed (R203). -/
def execClearEventRecords (via : Via) (log : Nat) (all : Bool) (handles : List Nat) (s : State) :
    Outcome State Fault Refusal :=
  s.onM fun m => m.onMailbox via fun m => match sevOf log with
    | none => m.reply via .invalidInput []
    | some v =>
      let l := m.mgmt.logs
      if all then
        ({ m with mgmt := { m.mgmt with logs := { l with
            recs := l.recs.filter fun r => r.sev != v, lost := mapDel l.lost log } } }).reply via .success []
      else if handles.all fun h => l.recs.any fun r => r.handle = h && r.sev = v then
        ({ m with mgmt := { m.mgmt with logs := { l with
            recs := l.recs.filter fun r => !(r.sev = v && handles.contains r.handle) } } }).reply via .success []
      else m.reply via .invalidHandle []

/-- SET_EVENT_RECORDS: the standard's command to add a record to a log (R184): a record with the values given is
appended, or lost to a full log (log entry 13). -/
def execSetEventRecords (via : Via) (log : Nat) (args : List Nat) (s : State) : Outcome State Fault Refusal :=
  s.onM fun m => m.onMailbox via fun m => match sevOf log with
    | none => m.reply via .invalidInput []
    | some v => (m.event v .hostSet args).reply via .success []

/-- EVENT_NOTIFICATION: completes; the standard gives it no effect on the module (R184). -/
def execEventNotification (via : Via) (s : State) : Outcome State Fault Refusal :=
  s.onM fun m => m.onMailbox via fun m => m.reply via .success []

/-- BACKGROUND_OPERATION_STATUS: whether a background command of this interface runs, and its opcode (R184, R202). -/
def execBackgroundOperationStatus (via : Via) (s : State) : Outcome State Fault Refusal :=
  s.onM fun m => m.onMailbox via fun m =>
    match m.mgmt.bg.find? fun b => b.via = via with
    | some b => m.replyVals via .success [1, b.opcode]
    | none => m.replyVals via .success [0, 0]

/-- GET_RESPONSE_MESSAGE_LIMIT: R184. -/
def execGetResponseMessageLimit (via : Via) (s : State) : Outcome State Fault Refusal :=
  s.onM fun m => m.onMailbox via fun m => m.reply via .success (leBytes 1 m.mgmt.rspLimit)

/-- SET_RESPONSE_MESSAGE_LIMIT: R184. -/
def execSetResponseMessageLimit (via : Via) (limit : Nat) (s : State) : Outcome State Fault Refusal :=
  s.onM fun m => m.onMailbox via fun m =>
    ({ m with mgmt := { m.mgmt with rspLimit := limit % 256 } }).reply via .success (leBytes 1 limit)

/-- GET_LD_INFO: memory size and the number of logical devices of each port, 16 (R167, R184). -/
def execGetLdInfo (via : Via) (s : State) : Outcome State Fault Refusal :=
  s.onM fun m => m.onMailbox via fun m => m.replyVals via .success [dpaBytes, 16]

/-- GET_LD_ALLOCATIONS: the allocations (R184). -/
def execGetLdAllocations (via : Via) (s : State) : Outcome State Fault Refusal :=
  s.onM fun m => m.onMailbox via fun m => m.replyVals via .success m.mgmt.ldAlloc

/-- SET_LD_ALLOCATIONS: the allocations from logical device `start` on take the values given (R184). -/
def execSetLdAllocations (via : Via) (start : Nat) (vals : List Nat) (s : State) : Outcome State Fault Refusal :=
  s.onM fun m => m.onMailbox via fun m =>
    if 16 < start + vals.length then m.reply via .invalidInput []
    else
      let old := (upto 16).map fun i => m.mgmt.ldAlloc.getD i 0
      let new := old.take start ++ vals ++ old.drop (start + vals.length)
      ({ m with mgmt := { m.mgmt with ldAlloc := new } }).replyVals via .success vals

/-- UNSUPPORTED_COMMAND: Sanitize, Secure Erase and every other standard command are answered with Unsupported (R201). -/
def execUnsupportedCommand (via : Via) (s : State) : Outcome State Fault Refusal :=
  s.onM fun m => m.onMailbox via fun m => m.reply via .unsupported []

end Sys2Proof.Machine
end

