-- ==== Sys2Proof/Machine/Sram.lean ====
section
/-!
DEFINITION. Machine/Sram.lean: words of the on-die memories that are corrected or lost (R435), and the two commands that meet them: a
host's read and the end of a drizzle region.
-/
namespace Sys2Proof.Machine

open Host

/-- DETAIL of SRAM_UE: the class, and a region the spec cannot name for the model, free (log entry 4). -/
def sramDetail (cls what : Nat) : Nat := Config.freeOf 501 [cls, what] % 2 ^ 18 ||| (cls <<< 18)

/-- A front-cache line is lost (R435): a clean one is dropped, to be read again; a dirty one of a durable page is reconstructed from peers,
of a volatile page written to its channel with POISON set. -/
def Mod.fcLineLost (m : Mod) (l : Nat) : Mod := match m.fcGet l with
  | none => m
  | some e =>
    if !e.dirty then m.fcForget l
    else if m.isDurable l then (m.fcForget l).nodeDurable l
    else (((m.fcForget l).writeBack l).setPoison l true).listPoison (l * 64) 64

/-- A cached counter node is lost (R435): a clean one is read again, a dirty one is lost under R308. -/
def Mod.nodeWordLost (m : Mod) (x : Nat) : Mod := match (m.nodeCache x).find? fun e => e.1 = x with
  | none => m
  | some e => if e.2 then (m.nodeDrop x).nodeLost x else Mod.nodeUse 6 (m.nodeDrop x) x

/-- A page-map cache entry is lost (R435): a clean one is read again, a dirty one is recovered with its map line (R265). -/
def Mod.mapWordLost (m : Mod) (p : Nat) : Mod :=
  let sl := mapSlice p
  let c := mapGetD m.tier.mapCache sl []
  match c.find? fun e => e.1 = p with
  | none => m
  | some e =>
    let m := { m with tier := { m.tier with mapCache := mapPut m.tier.mapCache sl (c.filter fun x => x.1 != p) } }
    if e.2 then m.mapUncorrectable (p / 8) else m.mapRead sl p

/-- A word of a port's replay buffer is lost (R435): the port goes down, and its bundle resets (R149). -/
def Mod.replayWordLost (m : Mod) (n : Nat) : Mod :=
  if !m.peerRole n then m else
  match (m.pp n).peer with
  | some id => (m.bfPortDown n).bundleReset id true
  | none => m.bfPortDown n

/-- A word of a cipher key cache is lost (R435): the slot is dropped, and fetched and unwrapped at its next use (R293). -/
def Mod.keyWordLost (m : Mod) (c slot : Nat) : Mod :=
  { m with key := { m.key with caches := m.key.caches.map fun e => if e.1 = c then (e.1, e.2.filter fun x => x != slot) else e } }

/-- An uncorrectable word of a class below 10 (R435). `what` names the line (DPA over 64), node, page, port or engine it belongs to; for
class 7 it is channel × 4,096 + slot. -/
def Mod.wordLost (m : Mod) (cls what : Nat) : Mod :=
  let m := (m.add pgDrz DrzF.sramUe 1).raise pgDrz 10 (sramDetail cls what)
  match cls with
  | 0 => m.fcLineLost what
  | 1 => m.loseSet what true
  | 2 => m.nodeWordLost what
  | 3 => m.mapWordLost what
  | 4 => m.replayWordLost what
  | 5 => m.lexReset what
  | 7 => m.keyWordLost (what / 4096) (what % 4096)
  | _ => m.moduleFault 2 (pageSlot pgDrz)

/-- Corrected words are counted (R435). -/
def Mod.wordsCorrected (m : Mod) (n : Nat) : Mod := m.tally pgDrz DrzF.sramCe 0x102 n

/-- What the on-die memories met (R435). A word of the secure store whose three copies all differ is a tamper (R441), and KEY_GEN
advances. -/
def State.sram (s : State) : SramHit → State
  | .clean => s
  | .corrected n => { s with m := s.m.wordsCorrected n }
  | .lost cls what =>
    if cls < 10 then { s with m := s.m.wordLost cls what }
    else if cls = 10 && s.m.glb.powered then { s with fuse := s.fuse.advance, m := s.m.tamper }
    else s

/-- MEMRD: a host's read (R169, R218), with what its on-die words hold met first (R435). -/
def execMemrd (src : HostSrc) (hpa : Nat) (want : MetaVal) (sram : SramHit) (s : State) : Outcome State Fault Refusal :=
  State.onUnit (if s.m.runs then s.sram sram else s) (portOk src.port) fun m => m.hostRead src hpa want

/-- DRIZZLE_REGION_END: R437 to R440. An uncorrectable word of the region is handled from the shadow, and the test continues (R444). -/
def execDrizzleRegionEnd (found : List CellFault) (sram : SramHit) (s : State) : Outcome State Fault Refusal :=
  match s.m.drz.under with
  | some r =>
    if s.m.runs then State.onM (s.sram sram) fun m => if m.drz.under = some r then m.regionEnd r found else m else .next s
  | none => .next s

end Sys2Proof.Machine
end

