-- ==== Sys2Proof/Machine/PageCtl.lean ====
section
/-!
DEFINITION. Machine/PageCtl.lean: the common header's commands (chapter 02): ENABLE, BLOCK_RESET, FREEZE and THAW (R33, R34), PAGE_ERR
(R35, R37), PAGE_LOCK (R41), and what a block reset makes of the blocks that honour it (R267, R289, R444, R465).
-/
namespace Sys2Proof.Machine

open Host

/-- A write to a page's header, then the signal of R40 where it let ERR_PENDING rise. -/
def Mod.headerWrite (m : Mod) (p : PageId) (f : Mod → Mod) : Mod :=
  let was := m.errPending p
  let m := f m
  if !was && m.errPending p && m.is p HdrF.signalEn then m.signal (m.get p HdrF.vector) else m

/-! ## ENABLE (R33, R34) -/

/-- ENABLE is written (R33, R34): a change is refused where PAGE_CAP.RESET is 0; 1 takes an OFF block to READY; 0 lets the block drain
into OFF, in FROZEN after THAW (R43). A block in FAULT stays there. -/
def Mod.enableWrite (m : Mod) (p : PageId) (on : Bool) : Mod :=
  if m.is p HdrF.enable = on then m
  else if !capReset p.ty then m.refuse p
  else
    let m := m.set p HdrF.enable (b2n on)
    if on then (if m.blockState p = stOff then m.setState p stReady else m) else m.drained p

/-! ## BLOCK_RESET (R33, R462) -/

/-- A block reset returns the field to its reset value (R28, R33): RW and RW1S fields and counters, but for ENABLE, PAGE_LOCK, the event
selectors and the event counters. -/
def blockResets (f : Fld) : Bool :=
  (f.acc = .rw || f.acc = .rw1s || f.acc = .cnt) && f != HdrF.enable && !(decide (0x58 ≤ f.off) && decide (f.off < 0x100))

/-- The register store after a block reset of a page. -/
def Mod.blockRegs (m : Mod) (p : PageId) : Mod :=
  { m with regs := m.regs.filter fun e => match fieldAt e.1 with
      | some (q, f) => !(q = p && blockResets f)
      | none => true }

/-- The tier mover's functional state (R267): running moves are abandoned, and the cooling walk with what it has noted. -/
def Mod.resetMover (m : Mod) : Mod :=
  let m := (m.tier.moves.map Prod.fst).foldl (fun (a : Mod) p => a.abandonMove p) m
  { m with tier := { m.tier with walked := [] } }

/-- The drizzle tester's (R444): the region under test is restored, and the pass restarts at region 0. -/
def Mod.resetDrizzle (m : Mod) : Mod :=
  let m := { m with drz := { m.drz with under := none } }
  ((m.set pgDrz DrzF.region 0).set pgDrz DrzF.class_ (regionClass 0)).progress pgDrz (m.get pgDrz HdrF.opState) 0 0

/-- BLOCK_RESET (R33): refused where PAGE_CAP.RESET is 0. A long operation is abandoned (R38). A block in FAULT goes to OFF with ENABLE 0,
and enabling it ends the recovery (R465); any other keeps ENABLE. -/
def Mod.blockReset (m : Mod) (p : PageId) : Mod :=
  if !capReset p.ty then m.refuse p
  else
    let op := m.get p HdrF.opState
    let m := if op = 1 || op = 2 then m.set p HdrF.opState 3 else m
    let m := match p.ty with
      | .lex => m.lexReset p.inst
      | .mov => m.resetMover
      | .drz => m.resetDrizzle
      | _ => m
    let m := m.blockRegs p
    if m.blockState p = stFault then (m.set p HdrF.enable 0).setState p stOff
    else m.setState p (if m.is p HdrF.enable then stReady else stOff)

/-! ## FREEZE and THAW -/

/-- FREEZE is written (R33, R332): honoured on the memory channels, where it is a freeze of cause SOFTWARE. -/
def Mod.freezeWrite (m : Mod) (p : PageId) : Mod := if capFreeze p.ty then m.freeze p.inst (Capture.bare 6 0) else m

/-- THAW is written (R33, R334). -/
def Mod.thawWrite (m : Mod) (p : PageId) : Mod := if capFreeze p.ty then m.thaw p.inst else m

/-! ## PAGE_ERR (R35, R37) -/

/-- 1s are written to PAGE_ERR: those bits clear, and PAGE_ERR_INFO is armed again once the captured bit has cleared. -/
def Mod.errClear (m : Mod) (p : PageId) (ones : Nat) : Mod :=
  let old := m.get p HdrF.err
  let m := m.set p HdrF.err (old ^^^ (old &&& ones))
  let i := m.get p HdrF.errIndex
  if m.is p HdrF.valid && bit old i && bit ones i then
    [HdrF.errIndex, HdrF.valid, HdrF.multiple, HdrF.detail].foldl (fun (a : Mod) f => a.set p f 0) m
  else m

/-! ## The commands -/

/-- A command of a page's header: it needs the page, and a die that runs. -/
def State.onPage (s : State) (p : PageId) (f : Mod → Mod) : Outcome State Fault Refusal :=
  s.onUnit (pageOk p) fun m => m.when m.runs f

/-- PAGE_ENABLE_SET: R34. -/
def execPageEnableSet (p : PageId) (s : State) : Outcome State Fault Refusal := s.onPage p fun m => m.enableWrite p true

/-- PAGE_ENABLE_CLEAR: R34. -/
def execPageEnableClear (p : PageId) (s : State) : Outcome State Fault Refusal := s.onPage p fun m => m.enableWrite p false

/-- BLOCK_DRAINED: a block whose ENABLE was cleared and whose work in flight has drained enters OFF; with ENABLE 1 it is READY as soon
as nothing is in flight (R34). -/
def execBlockDrained (p : PageId) (s : State) : Outcome State Fault Refusal := s.onPage p fun m => m.drained p

/-- BLOCK_RESET: R33. -/
def execBlockReset (p : PageId) (s : State) : Outcome State Fault Refusal := s.onPage p fun m => m.blockReset p

/-- PAGE_FREEZE: R33. -/
def execPageFreeze (p : PageId) (s : State) : Outcome State Fault Refusal := s.onPage p fun m => m.freezeWrite p

/-- PAGE_THAW: R33. -/
def execPageThaw (p : PageId) (s : State) : Outcome State Fault Refusal := s.onPage p fun m => m.thawWrite p

/-- PAGE_LOCK_SET: R41; a page without RWL fields has no lock (R32). -/
def execPageLockSet (p : PageId) (s : State) : Outcome State Fault Refusal :=
  s.onPage p fun m => if capLock p.ty then m.set p HdrF.lock 1 else m

/-- PAGE_ERR_CLEAR: R35, R37. -/
def execPageErrClear (p : PageId) (ones : Nat) (s : State) : Outcome State Fault Refusal := s.onPage p fun m => m.errClear p ones

end Sys2Proof.Machine
end

