-- ==== Sys2Proof/Machine/Pmu.lean ====
section
/-!
DEFINITION. Machine/Pmu.lean: the performance-counter block (chapter 19): the gate, the snapshot, a counter's wrap.
-/
namespace Sys2Proof.Machine

open Host

/-- PMU_GATE is written (R453): FREEZE_ON_OVF is stored; MODE 0 opens the gate, MODE 2 closes it, MODE 1 opens it from
START_TICK to STOP_TICK and is refused when STOP_TICK is not above START_TICK or has passed; MODE 3 is refused. -/
def Mod.pmuGate (m : Mod) (mode : Nat) (freeze : Bool) : Mod :=
  let m := m.set pgPmu PmuF.freezeOnOvf (b2n freeze)
  let start := m.get pgPmu PmuF.startTick
  let stop := m.get pgPmu PmuF.stopTick
  match mode with
  | 0 => (m.set pgPmu PmuF.mode 0).set pgPmu PmuF.open_ 1
  | 1 =>
    if stop ≤ start || stop ≤ m.tick then m.refuse pgPmu
    else (m.set pgPmu PmuF.mode 1).set pgPmu PmuF.open_ (b2n (decide (start ≤ m.tick)))
  | 2 => (m.set pgPmu PmuF.mode 2).set pgPmu PmuF.open_ 0
  | _ => m.refuse pgPmu

/-- PMU_GATE_MODE: R453, R456. -/
def execPmuGateMode (mode : Nat) (freezeOnOvf : Bool) (s : State) : Outcome State Fault Refusal :=
  s.onM fun m => m.pmuGate mode freezeOnOvf

/-- GATE_START_TICK: in MODE 1 the gate opens at START_TICK, unless STOP_TICK has passed (R453). -/
def execGateStartTick (s : State) : Outcome State Fault Refusal :=
  s.onM fun m =>
    if m.get pgPmu PmuF.mode = 1 && decide (m.tick < m.get pgPmu PmuF.stopTick) then
      (m.until_ (m.get pgPmu PmuF.startTick)).set pgPmu PmuF.open_ 1
    else m

/-- GATE_STOP_TICK: in MODE 1 the gate closes at STOP_TICK (R453). -/
def execGateStopTick (s : State) : Outcome State Fault Refusal :=
  s.onM fun m =>
    if m.get pgPmu PmuF.mode = 1 then
      let m := m.when (decide (m.tick < m.get pgPmu PmuF.startTick)) fun m =>
        (m.until_ (m.get pgPmu PmuF.startTick)).set pgPmu PmuF.open_ 1
      (m.until_ (m.get pgPmu PmuF.stopTick)).set pgPmu PmuF.open_ 0
    else m

/-- A key of the register store is a COUNT or OVF field of a page. -/
def isCounterKey (key : Nat) : Bool :=
  match pageAt (key / 64) with
  | none => false
  | some p => (upto 4).any fun k => fldKey (pageAddr p) (evtCount k) = key || fldKey (pageAddr p) (evtOvf k) = key

/-- SNAP is written (R454): every counter is sampled at this tick and the sample held; SNAP reads 0 again. -/
def Mod.takeSnap (m : Mod) : Mod :=
  let m := { m with snap := m.regs.filter fun e => isCounterKey e.1 }
  let m := ((m.set pgPmu PmuF.snapTick m.tick).set pgPmu PmuF.snapValid 1).set pgPmu PmuF.snap 0
  m.count pgPmu 0x100 1

/-- SNAP: R454, R455. -/
def execSnap (s : State) : Outcome State Fault Refusal := s.onM fun m => m.takeSnap

/-- COUNTER_WRAP: one more event of the kind selected happens on a counter that stands at 2^48 - 1 and counts: it wraps
to 0, sets OVF and COUNTER_WRAP, and with FREEZE_ON_OVF closes the gate (R42, R453, R457). -/
def execCounterWrap (p : PageId) (n : Nat) (s : State) : Outcome State Fault Refusal :=
  s.onUnit (pageOk p && decide (n < 4)) fun m =>
    if m.counts p n (m.get p (evtEvent n)) && decide (m.get p (evtEvent n) ≠ 0) &&
        decide (m.get p (evtCount n) = 2 ^ 48 - 1) then
      (m.bumpCounter p n 1).1.wrapped p n
    else m

end Sys2Proof.Machine
end

