-- ==== Sys2Proof/Machine/PowerEntry.lean ====
section
/-!
DEFINITION. Machine/PowerEntry.lean: the power entry stage (chapter 17): insertion, the ramp, the electronic fuse,
presence, enable and the warning input; thermal trip and leak (R479).
-/
namespace Sys2Proof.Machine

open Host

/-- Latch cause codes (R431). -/
def cShort : Nat := 1
def cInrush : Nat := 2
def cOver : Nat := 3
def cFast : Nat := 4
def cTemp : Nat := 5
def cFetShort : Nat := 6
def cFetDegraded : Nat := 7

/-- The conditions under which the insertion delay runs (R419): seated, enabled, valid input, no latch-off, no FET
failure; and no hold after a save or a thermal trip (R427, R479). -/
def Pwr.ready (p : Pwr) : Bool :=
  p.present && p.en && p.vinValid && p.latch.isNone && !p.fetShort && !p.postSave && !p.tripHold

/-- With the stage off, the insertion delay starts as soon as its conditions hold together (R419). -/
def Pwr.arm (p : Pwr) : Pwr := if p.st = .off && p.ready then { p with st := .delay } else p

/-- The gate is pulled off and PG falls; timers stop (R421, R427). A delay or a ramp is abandoned, nothing is latched. -/
def Pwr.gateOff (p : Pwr) : Pwr :=
  { p with st := if p.fetShort then .fetFail else if p.latch.isSome then .latched else .off, pg := false, qualify := false,
           timer := none }

/-- A fault-log entry is written: the 16 newest are kept (R429). -/
def Pwr.logIt (p : Pwr) (cause vin iin : Nat) : Pwr :=
  { p with log := ({ cause := cause, vinAt := vin, iinAt := iin, rampNo := p.ramps } :: p.log).take 16,
           fresh := min 16 (p.fresh + 1) }

/-- A latch-off (R424): the gate off, PG low, FAULT_N low, a log entry, a cool-down of 1,000 ms. -/
def Pwr.latchOff (p : Pwr) (cause vin iin : Nat) : Pwr :=
  let p := { p with latch := some cause, coolDown := true, latches := p.latches + 1 }
  (p.gateOff).logIt cause vin iin

/-- The stage feeds the die's converters: the ramp is complete and PG released. -/
def Pwr.feeds (p : Pwr) : Bool := p.st = .on && p.pg

/-- The PAGE_ERR bit of a latch cause (R432). -/
def causeBit (c : Nat) : Nat := 7 + c

/-- An entry made while the die runs sets its bit at once (R429, R432). -/
def Mod.pwrErr (m : Mod) (cause ramp : Nat) : Mod := if m.glb.powered then m.raise pgPwr (causeBit cause) (cause ||| (ramp <<< 4)) else m

/-- Presence loss or input loss while the die runs (R418, R427): a save with that trigger on the bank, every link down
(R400). A running save goes on and powers down after its seal (R412). Where no save is made, the module
powers down. -/
def Mod.supplyLost (m : Mod) (trigger : Nat) : Mod :=
  if !m.glb.powered then m else
  let m := m.abandonPlan
  let m := m.startSave trigger .powerDown []
  let m := m.set pgPwr PwrF.charging 0
  if m.saving then m.linksDown
  else { m with glb := { m.glb with powered := false } }

/-- The gate goes off for a reason that is input loss while the die runs (R418). -/
def State.inputLoss (s : State) (p : Pwr) (trigger : Nat) : State :=
  { s with pwr := p, m := s.m.supplyLost trigger }

/-- The stage ends a save that ran on the bank (R427): 100 ms later the input counts as a fresh insertion. -/
def Pwr.afterSeal (p : Pwr) : Pwr := { (p.gateOff) with postSave := true }

/-- PRSNT_N_ASSERT: DLY is read, and the insertion delay starts once every condition holds (R419). -/
def execPrsntNAssert (dly : Nat) (s : State) : Outcome State Fault Refusal :=
  .next { s with pwr := ({ s.pwr with present := true, dly := dly % 4, bias := true }).arm }

/-- INSERTION_DELAY_EXPIRE: VOUT is checked (R420): above 30 V for 100 ms with the gate off records FET_SHORT (R426);
otherwise the ramp and its fault timer of 80 ms start. -/
def execInsertionDelayExpire (voutHigh : Bool) (vin iin : Nat) (s : State) : Outcome State Fault Refusal :=
  let p := s.pwr
  if p.st = .delay then
    if p.ready then
      if voutHigh then
        .next { s with pwr := (({ p with fetShort := true }).gateOff).logIt cFetShort vin iin }
      else .next { s with pwr := { p with st := .ramping, timer := some .ramp } }
    else .next { s with pwr := { p with st := .off } }
  else .next s

/-- RAMP_COMPLETE: VIN - VOUT below 0.5 V with the gate enhanced: the fault timer stops, and the qualify interval of
2 ms begins (R420, R421). -/
def execRampComplete (s : State) : Outcome State Fault Refusal :=
  let p := s.pwr
  if p.st = .ramping && p.timer = some .ramp then
    .next { s with pwr := { p with st := .on, timer := none, qualify := true, ramps := p.ramps + 1 } }
  else .next s

/-- PG_QUALIFY_EXPIRE: the qualify interval passed without the fault timer: PG is released, and the converters and the
charger start (R421, R428). The die's start-up is DIE_WAKE's. -/
def execPgQualifyExpire (s : State) : Outcome State Fault Refusal :=
  let p := s.pwr
  if p.qualify && p.timer.isNone && p.vinValid then
    let m := s.m
    let m := if m.glb.powered then m else
      let r := m.dieReset 0
      { r with glb := { r.glb with powered := true, pgTick := r.tick, faultTicks := [] } }
    .next { s with pwr := { p with pg := true, qualify := false }, m := (m.set pgPwr PwrF.charging 1) }
  else .next s

/-- FAULT_TIMER_EXPIRE: the ramp's or the circuit breaker's timer expires and the fuse latches off (R422, R424): in the
ramp with SHORT_AT_START when VOUT is below 10 V, else INRUSH_TIMEOUT; in service with OVERCURRENT, an input loss. -/
def execFaultTimerExpire (vout vin iin : Nat) (s : State) : Outcome State Fault Refusal :=
  let p := s.pwr
  match p.timer with
  | none => .next s
  | some k =>
    let cause := if k = .breaker then cOver else if vout < 1000 then cShort else cInrush
    let s1 := { s with m := (s.m.pwrErr cause p.ramps) }
    .next (s1.inputLoss (p.latchOff cause vin iin) 1)

/-- OVERCURRENT_START: IIN above 14 A after the ramp starts the fault timer with a limit of 5 ms; before PG is released
the qualify interval starts again when it stops (R421, R422). CB_STARTS counts it. -/
def execOvercurrentStart (iin : Nat) (s : State) : Outcome State Fault Refusal :=
  let p := s.pwr
  if p.st = .on && p.timer.isNone && decide (14000 < iin) then
    .next { s with pwr := { p with timer := some .breaker, qualify := false }, m := s.m.count pgPwr 0x100 1 }
  else .next s

/-- OVERCURRENT_END: IIN back at 14 A or below stops and resets the breaker timer (R422); with PG not yet released a new
qualify interval begins (R421). -/
def execOvercurrentEnd (iin : Nat) (s : State) : Outcome State Fault Refusal :=
  let p := s.pwr
  if p.timer = some .breaker && decide (iin ≤ 14000) then
    .next { s with pwr := { p with timer := none, qualify := !p.pg } }
  else .next s

/-- The gate is on: ramping or on. -/
def Pwr.gateOn (p : Pwr) : Bool := p.st = .ramping || p.st = .on

/-- FAST_TRIP: IIN above 45 A, the ramp included, pulls the gate off and latches off with FAST_TRIP (R422). -/
def execFastTrip (vin iin : Nat) (s : State) : Outcome State Fault Refusal :=
  if s.pwr.gateOn && decide (45000 < iin) then
    let s1 := { s with m := (s.m.pwrErr cFast s.pwr.ramps) }
    .next (s1.inputLoss (s.pwr.latchOff cFast vin iin) 1)
  else .next s

/-- FET_OVERTEMP: a pass-FET temperature above 150 °C latches off, with the gate on or off; a fuse that is latched off stays so with its
cause (R423). -/
def execFetOvertemp (vin iin : Nat) (s : State) : Outcome State Fault Refusal :=
  if s.pwr.bias && s.pwr.latch.isNone then
    let s1 := { s with m := (s.m.pwrErr cTemp s.pwr.ramps) }
    .next (s1.inputLoss (s.pwr.latchOff cTemp vin iin) 1)
  else .next s

/-- A clear of the latch-off (R425): held during the cool-down; afterwards FAULT_N is released and R419 applies again.
FET_SHORT is not cleared (R426). -/
def Pwr.clear (p : Pwr) : Pwr :=
  if p.latch.isNone then p
  else if p.coolDown then { p with clearHeld := true }
  else ({ p with latch := none, clearHeld := false, st := if p.fetShort then .fetFail else .off }).arm

/-- COOL_DOWN_EXPIRE: the cool-down of 1,000 ms ends, and a held clear is acted upon (R425). -/
def execCoolDownExpire (s : State) : Outcome State Fault Refusal :=
  let p := { s.pwr with coolDown := false }
  .next { s with pwr := if p.clearHeld then p.clear else p }

/-- RESTART: written on the PWR page (the die runs) or through the sideband mirror, it clears a latch-off (R425, R429). -/
def execRestart (sideband : Bool) (s : State) : Outcome State Fault Refusal :=
  if sideband || s.m.glb.powered then .next { s with pwr := if s.pwr.bias then s.pwr.clear else s.pwr } else .next s

/-- FET_SHORT: VOUT above 30 V for 100 ms with the gate off: recorded, converters and charger held off, no ramp; while the
die runs the converter shut-off is an input loss (R426). -/
def execFetShort (vin iin : Nat) (s : State) : Outcome State Fault Refusal :=
  if s.pwr.gateOn || s.pwr.fetShort then .next s
  else
    let s1 := { s with m := (s.m.pwrErr cFetShort s.pwr.ramps) }
    .next (s1.inputLoss ((({ s.pwr with fetShort := true }).gateOff).logIt cFetShort vin iin) 1)

/-- FET_DEGRADED: VIN - VOUT above 1 V for 10 ms at load: a log entry, its bit and a Failure record, nothing else (R426,
R429). -/
def execFetDegraded (vin iin : Nat) (s : State) : Outcome State Fault Refusal :=
  if s.pwr.st = .on then
    let m := if s.m.glb.powered then (s.m.pwrErr cFetDegraded s.pwr.ramps).event .failure .fetDegraded [vin, iin] else s.m
    .next { s with pwr := { (s.pwr.logIt cFetDegraded vin iin) with fetDegraded := true }, m := m }
  else .next s

/-- INPUT_LOSS: undervoltage, reverse current or overvoltage (R418): the input is no longer valid; while the die runs, a
save of trigger 1; during the ramp, the ramp is abandoned (R427). An overvoltage sets INPUT_OV (R432). -/
def execInputLoss (cause : InputCause) (s : State) : Outcome State Fault Refusal :=
  let m := if cause = .overvoltage && s.m.glb.powered then s.m.raise pgPwr 15 0 else s.m
  let p := { s.pwr with vinValid := false }
  .next (({ s with m := m }).inputLoss p.gateOff 1)

/-- VIN_VALID: VIN is valid within the window (R418): a ramp is allowed again; during a save for trigger 1 or 2 the gate
stays off until the seal (R427). -/
def execVinValid (s : State) : Outcome State Fault Refusal :=
  let p := { s.pwr with vinValid := true, bias := true }
  .next { s with pwr := if s.m.saving then p else p.arm }

/-- PRSNT_N_DEASSERT: the gate is pulled off; while the die runs this is presence loss, trigger 2 (R427). -/
def execPrsntNDeassert (s : State) : Outcome State Fault Refusal :=
  let p := { s.pwr with present := false }
  .next (s.inputLoss p.gateOff 2)

/-- PWR_EN_LOW: the gate is pulled off; while the die runs this is input loss, trigger 1; a low of 10 ms begins a latch
clear (R425, R427). -/
def execPwrEnLow (s : State) : Outcome State Fault Refusal :=
  let p := { s.pwr with en := false, enLow := true }
  .next (s.inputLoss p.gateOff 1)

/-- PWR_EN_HIGH: after at least 10 ms low, a latch-off is cleared and a new ramp allowed (R425). -/
def execPwrEnHigh (s : State) : Outcome State Fault Refusal :=
  let p := { s.pwr with en := true, enLow := false }
  let p := if s.pwr.enLow then p.clear else p
  .next { s with pwr := if s.m.saving then p else p.arm }

/-- PFW_N_FALL: with PF_WARN_EN set the falling edge sets PF_WARN and is trigger 3, with service resuming (R427). -/
def execPfwNFall (s : State) : Outcome State Fault Refusal :=
  let s := { s with pwr := { s.pwr with pfwLow := true } }
  if s.m.glb.powered && s.m.is pgPwr PwrF.pfWarnEn then
    .next { s with m := (s.m.raise pgPwr 16 0).startSave 3 .resume [] }
  else .next s

/-- POST_SAVE_REINSERT: 100 ms after a seal with input returned, the stage treats the input as a fresh insertion (R427). -/
def execPostSaveReinsert (s : State) : Outcome State Fault Refusal :=
  if s.m.glb.powered then .next s
  else .next { s with pwr := ({ s.pwr with postSave := false }).arm }

/-- CONTROLLER_BIAS_LOSS: the blades lose voltage: the latch-off and the FET_SHORT hold are lost, the fault log stays
(R425, R426). Without input the gate is off. -/
def execControllerBiasLoss (s : State) : Outcome State Fault Refusal :=
  let p := { s.pwr with bias := false, latch := none, coolDown := false, clearHeld := false, fetShort := false,
                        vinValid := false, tripHold := false }
  .next (s.inputLoss p.gateOff 1)

/-- THERM_WARN: a die sensor above 100 °C or a device above 95 °C drives THERM_N low, released below the lower limits
(R479). -/
def execThermWarn (hot : Bool) (s : State) : Outcome State Fault Refusal :=
  s.onM fun m => ({ m with glb := { m.glb with thermLow := hot } })

/-- THERMAL_TRIP: a Fatal record names the sensor, then the pass FET is turned off as PWR_EN low would; the save runs on
the bank, and the gate stays off until the die has been unpowered for 60 s (R479). -/
def execThermalTrip (sensor : Nat) (s : State) : Outcome State Fault Refusal :=
  if s.m.glb.powered then
    let s1 := { s with m := s.m.event .fatal .thermalTrip [sensor] }
    let p := { s.pwr with tripHold := true }
    .next (s1.inputLoss p.gateOff 1)
  else .next s

/-- THERMAL_TRIP_COOLOFF: the die has been unpowered for 60 s; the stage proceeds as for a fresh insertion (R479). -/
def execThermalTripCooloff (s : State) : Outcome State Fault Refusal :=
  if s.m.glb.powered then .next s
  else .next { s with pwr := ({ s.pwr with tripHold := false, postSave := false }).arm }

/-- LEAK_DETECT: LEAK_N low until power-off, a Failure record, service continues (R479). -/
def execLeakDetect (s : State) : Outcome State Fault Refusal :=
  s.onM fun m => m.when (m.glb.powered && !m.glb.leakLow) fun m =>
    (({ m with glb := { m.glb with leakLow := true } }).event .failure .leak [])

end Sys2Proof.Machine
end

