-- ==== Sys2Proof/Machine/Spells.lean ====
section
/-!
DEFINITION. Machine/Spells.lean: the spell boundary (R365 to R377) and the floor-table commands (R379, R380).
-/
namespace Sys2Proof.Machine

open Host

/-! ## Activity budgets (R367 to R369) -/

/-- Ticks of the lull budget of a spell in which a lull fell due (R369). -/
def lullUnits (spell : Nat) : Nat := (300 * 256 + spell - 1) / spell

/-- Budgets of a channel in 1/256 units for the spell that ends, host's apart (R367): refresh by the heat in force, lull if one ran. -/
def Mod.budgetUnits (m : Mod) (c act : Nat) : Nat := match act with
  | 1 => m.get (pgMch c) MchF.refreshShare
  | 2 => if 0 < (m.chan c).spellUse.getD 2 0 then lullUnits m.spl.ticks else 0
  | 3 => m.get pgSpl SplF.budgetScrub
  | 4 => m.get pgSpl SplF.budgetMover
  | 5 => m.get pgSpl SplF.budgetRebuild
  | 6 => m.get pgSpl SplF.budgetRekey
  | 7 => m.get pgSpl SplF.budgetVerb
  | 8 => m.get pgSpl SplF.budgetParityIn
  | _ => 0

/-- Budgets of a channel in ticks, with what the others left passed to host (R368). -/
def Mod.budgetsOf (m : Mod) (c : Nat) : List Nat :=
  let unit := m.spl.ticks / 256
  let use := (m.chan c).spellUse
  let others := (List.range' 1 8).map fun a => m.budgetUnits c a * unit
  let taken := (List.range' 1 8).foldl (fun s a => s + min (use.getD a 0) (others.getD (a - 1) 0)) 0
  (m.spl.ticks - taken) :: others

/-- A channel's spell ends: use and budgets are kept for SPL_CHAN_USE; an activity that used more than its budget in a spell without
spare time counts in BUDGET_EXHAUSTED (log entry 49). -/
def Mod.endChanSpell (m : Mod) (c : Nat) : Mod :=
  let use := (m.chan c).spellUse
  let bud := m.budgetsOf c
  let full := decide (m.spl.ticks ≤ use.foldl (· + ·) 0)
  let n := ((List.range' 3 6).filter fun a => full && decide (bud.getD a 0 < use.getD a 0)).length
  let m := if n = 0 then m else m.tally pgSpl SplF.budgetExhausted 0x102 n
  m.updChan c fun k => { k with spellUse := [], useLast := use, budLast := bud }

/-- USED_LAST, BUDGET_LAST and SPARE_LAST of a channel and activity (R381), in 1/256 units of the spell. -/
def Mod.chanUse (m : Mod) (c act : Nat) : Nat × Nat × Nat :=
  let unit := max 1 (m.spl.ticks / 256)
  let k := m.chan c
  let bud := if k.budLast = [] then (m.budgetsOf c) else k.budLast
  let u := k.useLast.getD act 0
  (u / unit, bud.getD act 0 / unit, (u - bud.getD act 0) / unit)

/-! ## Floors (R373 to R377) -/

/-- The master a register of the floor table belongs to, by its key in the store. -/
def floorMaster (key : Nat) : Option Nat :=
  let off := key / 64
  if 0x400000 ≤ off && off < 0x400000 + 64 * 4128 then some ((off - 0x400000) / 64) else none

/-- Masters with a floor, a gust level, bytes or requests: every other has nothing to settle at a boundary. -/
def Mod.liveMasters (m : Mod) : List Nat :=
  let l := (m.regs.filterMap fun e => floorMaster e.1) ++ m.spl.masters.map Prod.fst ++ List.range' 4096 21
  l.foldl (fun (a : List Nat) n => if a.contains n then a else a ++ [n]) []

/-- Slices at which a master fell short in the spell that ends (R376): it has requests waiting there and bytes below its share. -/
def Mod.shortAt (m : Mod) (n : Nat) : List Nat := (upto 64).filter fun sl =>
  (m.led.reqs.any fun r => r.wait = .ingress && sliceOf r.line = sl && m.masterOf r = n) &&
  decide (mapGetD (m.master n).bytes sl 0 / 64 < m.floorShareOf n sl)

/-- A master falls short (R376). -/
def Mod.fallShort (m : Mod) (n : Nat) : Mod := match m.shortAt n with
  | [] => m
  | sl :: _ =>
    let m := m.setAt (floorAt n) FloorEF.shortSpells (m.floorFld n FloorEF.shortSpells + 1)
    (m.tally pgSpl SplF.shortfalls 0x100 1).raise pgSpl 9 (n ||| (sl <<< 13))

/-- Bytes of a master in the spell. -/
def Master.total (x : Master) : Nat := x.bytes.foldl (fun a e => a + e.2) 0

/-- A master's spell ends: what it moved is recorded, and the floor it did not use joins its gust level (R374, R379). -/
def Mod.endMasterSpell (m : Mod) (n : Nat) : Mod :=
  let x := m.master n
  let b := floorAt n
  let m := m.fallShort n
  let lines := x.total / 64
  let gust := min (m.floorFld n FloorEF.gustMax) (m.floorFld n FloorEF.gustLevel + (m.floorFld n FloorEF.effFloor - lines))
  ((m.setAt b FloorEF.gustLevel gust).setAt b FloorEF.bytesLast x.total).setAt b FloorEF.reqsLast x.reqs

/-- A share in proportion to a master's bytes at its slices, rounded up to whole lines (R375). -/
def splitShare (bytes : Map Nat) (lines : Nat) : Map Nat :=
  let total := bytes.foldl (fun a e => a + e.2) 0
  if total = 0 then [] else bytes.map fun e => (e.1, (lines * e.2 + total - 1) / total)

/-- A master's shares for the spell that begins (R375). -/
def Mod.beginMasterSpell (m : Mod) (n : Nat) : Mod :=
  let x := m.master n
  m.setMaster n { bytes := [], floorShare := splitShare x.bytes (m.floorFld n FloorEF.effFloor),
                  gustShare := splitShare x.bytes (m.floorFld n FloorEF.gustLevel), drawn := 0, reqs := 0, deficit := 0 }

/-- The floor sum in bytes (R377): internal masters, and hosts whose context is enabled. -/
def Mod.floorSum (m : Mod) : Nat :=
  (m.liveMasters.filter fun n => decide (4096 ≤ n) || m.fab.ctxOn.contains n).foldl (fun a n => a + 64 * m.floorFld n FloorEF.floor) 0

/-- CAP_SPELL (R381). -/
def Mod.capSpell (m : Mod) : Nat := m.get pgSpl SplF.planCap * m.spl.ticks / 1024

/-- The overcommit check (R377). -/
def Mod.checkFloors (m : Mod) : Mod :=
  let sum := m.floorSum
  let lim := m.capSpell * 9 / 10
  let tooMuch := decide (lim < sum)
  let m := ((m.set pgSpl SplF.capSpell m.capSpell).set pgSpl SplF.floorSum sum).set pgSpl SplF.floorLimit lim
  let m := m.set pgSpl SplF.scale (if tooMuch then lim * 65536 / sum else 65536)
  let m := m.liveMasters.foldl (fun (a : Mod) n =>
    let f := a.floorFld n FloorEF.floor
    a.setAt (floorAt n) FloorEF.effFloor (if tooMuch then f * lim / sum else f)) m
  let m := if tooMuch then (m.raise pgSpl 8 0).event .warning .floorOvercommit [sum, lim]
           else if m.spl.tooMuch then m.event .info .floorOvercommit [sum, lim] else m
  { m with spl := { m.spl with tooMuch := tooMuch, check := false } }

/-! ## The boundary -/

/-- Event counters anywhere that count an event are advanced by one. -/
def Mod.countAll (m : Mod) (ev : Nat) : Mod := m.regs.foldl (fun (a : Mod) e => match enableKey e.1 with
  | none => a
  | some (p, k) => if a.counts p k ev then
      (let r := a.bumpCounter p k 1
       if r.2 then r.1.wrapped p k else r.1)
    else a) m

/-- What takes effect with a boundary (R366, R369, R387, R390): SPELL_TICKS, a plan's PLAN_CAP and lull intervals, the refresh budgets. -/
def Mod.spellChanges (m : Mod) : Mod :=
  let t := m.get pgSpl SplF.spellTicks
  let chk := m.spl.check || decide (t ≠ m.spl.ticks) || m.age.capNext.isSome
  let m : Mod := { m with spl := { m.spl with ticks := t, check := chk } }
  let m := match m.age.capNext with
    | some c => m.set pgSpl SplF.planCap c
    | none => m
  let m := m.age.lullNext.foldl (fun (a : Mod) e => a.set (pgMch e.1) MchF.lullIntervalUs e.2) m
  let m : Mod := { m with age := { m.age with capNext := none, lullNext := [] } }
  (upto 96).foldl (fun (a : Mod) c =>
    let v := if a.is (pgMch c) MchF.hot then 33 else 17
    if a.get (pgMch c) MchF.refreshShare = v then a else a.set (pgMch c) MchF.refreshShare v) m

/-- The spell's accounts are closed and the next one's opened. -/
def Mod.turnSpell (m : Mod) : Mod :=
  let m := (m.chn.chans.map Prod.fst).foldl (fun (a : Mod) c => a.endChanSpell c) m
  let ms := m.liveMasters
  let m := ms.foldl (fun (a : Mod) n => a.endMasterSpell n) m
  let m := m.spellChanges
  let m := if m.spl.check then m.checkFloors else m
  let m := ms.foldl (fun (a : Mod) n => a.beginMasterSpell n) m
  let m := (m.add pgSpl SplF.spellCount 1).countAll evSpells
  if m.spl.tooMuch then m.count pgSpl 0x101 1 else m

/-- SPELL_BOUNDARY: the spell ends SPELL_TICKS after it began (R365). During a save budgets and floors are suspended (R378). -/
def execSpellBoundary (s : State) : Outcome State Fault Refusal :=
  s.onM fun m => if !m.glb.powered then m else
    let at_ := m.spl.began + m.spl.ticks
    let m := m.until_ at_
    let m := if m.saving || !m.runs then m else m.turnSpell
    { m with spl := { m.spl with began := at_ } }

/-! ## The floor table's commands (R380) -/

/-- A floor-table entry is written (R378, R379): what R377 makes of it takes effect at the next boundary. -/
def Mod.setFloor (m : Mod) (n floor gust weight : Nat) : Mod :=
  let b := floorAt n
  let m := ((m.setAt b FloorEF.effFloor (m.floorFld n FloorEF.effFloor)).setAt b FloorEF.floor floor).setAt b FloorEF.gustMax gust
  let m := m.setAt b FloorEF.weight weight
  { m with spl := { m.spl with check := true } }

/-- FLOOR_SET: R380. -/
def execFloorSet (via : Via) (master floor gust weight : Nat) (s : State) : Outcome State Fault Refusal :=
  s.onM fun m => m.onMailbox via fun m =>
    if !masterOk master then m.reply via .invalidInput []
    else (m.setFloor master floor gust weight).reply via .success []

/-- The 8 bytes of a floor-table entry at an offset. -/
def Mod.floorWord (m : Mod) (n off : Nat) : Nat :=
  (FloorEF.all.filter fun f => f.off = off).foldl (fun a f => a + (m.floorFld n f <<< f.lo)) 0

/-- FLOOR_GET: R380. -/
def execFloorGet (via : Via) (master : Nat) (s : State) : Outcome State Fault Refusal :=
  s.onM fun m => m.onMailbox via fun m =>
    if !masterOk master then m.reply via .invalidInput []
    else m.reply via .success ((upto 8).flatMap fun i => leBytes 8 (m.floorWord master (8 * i)))

end Sys2Proof.Machine
end

