-- ==== Sys2Proof/Machine/Vault.lean ====
section
/-!
DEFINITION. Machine/Vault.lean: saves and restores (chapter 16), and the start-up phases around a restore (R323, R458).
-/
namespace Sys2Proof.Machine

open Host

/-- DETAIL of a VLT error: trigger, restore kind, die (R414). -/
def vltDetail (trigger kind die : Nat) : Nat := trigger ||| (kind <<< 3) ||| (die <<< 6)

/-! ## The image areas (R398, R399) -/

/-- An image area: A, or B. -/
def Mod.area (m : Mod) (b : Bool) : Option Image := if b then m.vlt.areaB else m.vlt.areaA

/-- Write an image area. -/
def Mod.setArea (m : Mod) (b : Bool) (i : Option Image) : Mod :=
  { m with vlt := if b then { m.vlt with areaB := i } else { m.vlt with areaA := i } }

/-- SAVE_SEQ of a sealed image in an area; none where it holds none. -/
def sealedSeq (i : Option Image) : Option Nat := match i with
  | some i => if i.sealed_ then some i.seq else none
  | none => none

/-- The target is area B: area A holds the newest sealed image (R399). With none the target is A (log entry 52). -/
def Mod.targetB (m : Mod) : Bool := match sealedSeq m.vlt.areaA, sealedSeq m.vlt.areaB with
  | some a, some b => decide (b < a)
  | some _, none => true
  | none, _ => false

/-- One more than the highest SAVE_SEQ on the vault (R404). -/
def Mod.nextSeq (m : Mod) : Nat := 1 + max ((m.vlt.areaA.map Image.seq).getD 0) ((m.vlt.areaB.map Image.seq).getD 0)

/-- The vault is ready, or the target's erase begins in the background (R399). -/
def Mod.eraseTarget (m : Mod) : Mod :=
  let ready := (m.area m.targetB).isNone
  let m : Mod := { m with vlt := { m.vlt with erased := ready } }
  let m := (m.set pgVlt VltF.target (b2n m.targetB)).showVlt
  if ready then m else m.progress pgVlt 1 0 0

/-- VAULT_ERASE_DONE: the target is wholly erased and the vault is ready (R399). -/
def execVaultEraseDone (s : State) : Outcome State Fault Refusal :=
  s.onM fun m => m.when (m.runs && m.restored && !m.saving && !m.vlt.erased) fun m =>
    let m := m.setArea m.targetB none
    (({ m with vlt := { m.vlt with erased := true } }).showVlt).progress pgVlt 0 10000 0

/-! ## What a save reads (R401 to R403) -/

/-- The page's data lies somewhere: it is PLAIN, PACKED or PEER. -/
def PageSt.holds : PageSt → Bool
  | .plain _ => true
  | .packed .. => true
  | .peer .. => true
  | _ => false

/-- Extents for which `f` holds, in ascending DPA. -/
def Mod.extsByBase (m : Mod) (f : Extent → Bool) : List (Nat × Extent) :=
  (m.fab.extents.filter fun e => f e.2).foldl (fun (a : List (Nat × Extent)) e =>
    (a.filter fun x => decide (x.2.base < e.2.base)) ++ [e] ++ a.filter fun x => decide (e.2.base < x.2.base)) []

/-- Pages of an extent that hold data, in ascending page number. -/
def Mod.extPages (m : Mod) (e : Extent) : List Nat :=
  if m.fullyBacked e then (List.range' (e.base / 4096) (e.size / 4096)).filter fun p => (m.page p).st.holds
  else (m.tier.pages.filter fun x => inPages e.base e.size x.1 && x.2.st.holds).map Prod.fst

/-- Volatile pages in the order in which they are saved (R402). -/
def Mod.volPages (m : Mod) : List Nat := (m.extsByBase m.volatileExt).flatMap fun e => m.extPages e.2

/-- Places whose channel copy is out of date or did not decode, as (unit, line) (R333). -/
def Mod.touchedPlaces (m : Mod) : List (Nat × Nat) := m.chn.chans.flatMap fun c => c.2.touched.map fun x => (x / 64 * 96 + c.1, x % 64)

/-- Lines of pages that the save cannot read: touched and not in the front cache (R401). -/
def Mod.unread (m : Mod) : List Nat := m.touchedPlaces.filterMap fun e => match m.lineAtPlace e.1 e.2 with
  | some l => if (m.fcGet l).isSome then none else some l
  | none => none

/-- Packed pages a stored line of which does not decode: they are not saved (R403). -/
def Mod.deadPacks (m : Mod) : List Nat :=
  (m.touchedPlaces.filterMap fun e => if (mapGet m.chn.internalFrames e.1).isSome then none else
    (m.lineAs (.pool e.1 e.2)).bind fun a => a.page).eraseDups

/-- Parity units that hold a line that does not decode (R403, R411). -/
def Mod.deadParity (m : Mod) : List Nat :=
  (m.touchedPlaces.filterMap fun e => if (mapGet m.chn.internalFrames e.1).isSome then none else runsIndex m.aux.parityRuns e.1).eraseDups

/-- A walk as the sequence ledger keeps it: its boundary (R402). -/
def Walk.atBoundary (w : Walk) : Walk := { w with left := [], stepping := false, held := [], asked := [], holds := [], bad := [] }

/-- The group's state as an image keeps it (R402): the map and any accepted proposal, pair states, stages, boundaries. -/
def Mod.savedGrp (m : Mod) (absent : List Nat) : Grp :=
  { Grp.reset with map := m.grp.map, highTerm := m.grp.highTerm, accepted := m.grp.accepted, ownId := m.grp.ownId, outs := m.grp.outs,
                   ins := m.grp.ins, parity := m.grp.parity, bounds := m.grp.bounds, walk := m.grp.walk.map Walk.atBoundary,
                   absent := m.grp.absent ++ absent.filter fun l => !m.grp.absent.contains l }

/-- The rest of the group's state as an image keeps it. -/
def Mod.savedAux (m : Mod) : GrpAux :=
  { GrpAux.reset with restripeB := m.aux.restripeB, promotedStops := m.aux.promotedStops, wasReb := m.aux.wasReb,
                      staleEpoch := m.aux.staleEpoch,
                      targetRuns := m.aux.targetRuns,
                      resyncUnits := m.aux.resyncUnits ++ m.deadParity.filter fun u => !m.aux.resyncUnits.contains u }

/-- The home slices' books as an image keeps them (R402): windows, unprotected writes, held full stops; a full stop's completion goes to
nobody after a restore (R64). -/
def Mod.savedLed (m : Mod) : Led :=
  { Led.reset with dws := m.led.dws, wins := m.led.wins, mirrors := m.led.mirrors,
                   stops := m.led.stops.map fun (x : FullStop) => { x with mute := true } }

/-- Hosts, extents and grants as an image keeps them; running changes end without an answer. -/
def Mod.savedFab (m : Mod) : Fab :=
  { m.fab with changes := m.fab.changes.map fun c => { c with via := none }, hdm := [], snoopPort := [], seen := [], ports := [] }

/-- What an image carries, taken as preparation ends (R400 to R403). -/
def Mod.snapshot (m : Mod) : Saved :=
  let dead := m.unread
  let absent := dead.filter fun l => m.isDurable l && m.grp.map.isSome
  let m' := m.deadPacks.foldl (fun (a : Mod) p => a.setPage p { a.page p with st := .lost }) m
  { cfg := m.config, logs := m.mgmt.logs, poisonList := m.mgmt.poisonList, saves := m.get pgVlt VltF.saves + 1,
    restores := m.get pgVlt VltF.restores, mem := m.mem,
    poison := (dead.filter fun l => !absent.contains l).foldl (fun (a : Map Nat) l => mapPut a l 1) m.poison,
    fab := m.savedFab, led := m.savedLed, tier := m'.tier, grp := m.savedGrp absent, aux := m.savedAux, inc0 := m.bfl.inc0,
    bundles := m.bfl.bundles.map fun (e : Nat × Bundle) => (e.1, { Bundle.empty with ownInc := e.2.ownInc, peerInc := e.2.peerInc }),
    quads := m.bfl.quads,
    ringEpochs := (upto 8192).filterMap fun n => let e := m.rf n RingEF.ringEpoch
                                                 if e = 0 then none else some (n, e),
    lex := { m.lex with presets := m.lex.presets.filter fun e => e.2.st != .loading, waiting := [], running := [] },
    key := { m.key with deferred := [], majors := [], minors := [], walks := [], caches := [], nodes := [] } }

/-- The header of an image: what a save has written when its preparation ends (R404). -/
def Mod.imageOf (m : Mod) (v : Save) (keyGen : Nat) : Image :=
  { seq := m.nextSeq, trigger := v.trigger, keyGen := keyGen, mapGen := m.mapGen, sealed_ := false, durableComplete := false,
    truncated := false, parityCut := 0, volCut := 0, deadPacks := m.deadPacks.length, durationMs := 0, energyJ := 0, vEnd := 0,
    saved := m.snapshot }

/-! ## A save -/

/-- The running save changes. -/
def Mod.updSave (m : Mod) (v : Save) : Mod := { m with vlt := { m.vlt with save := some v } }

/-- TEST_SAVE is written (R397, R413): a save with trigger 6. -/
def Mod.testSave (m : Mod) : Mod :=
  if m.saving || m.restored && !m.glb.tampered then (m.set pgVlt VltF.testSave 1).startSave 6 .resume [] else m

/-- TEST_SAVE: R397. -/
def execTestSave (s : State) : Outcome State Fault Refusal := s.onM fun m => m.when m.runs Mod.testSave

/-- Page-map caches are flushed (R400): dirty entries are written to the map. -/
def Mod.flushMaps (m : Mod) : Mod :=
  let dirty := m.tier.mapCache.flatMap fun s => (s.2.filter fun e => e.2).map fun e => (s.1, e.1)
  let m := dirty.foldl (fun (a : Mod) e => (a.add (pgHsl e.1) HslF.mapWritebacks 1).mapTraffic e.2 true) m
  { m with tier := { m.tier with mapCache := m.tier.mapCache.map fun s => (s.1, s.2.map fun e => (e.1, false)) } }

/-- SAVE_PREPARED: preparation ends (R400); caches are flushed, the header goes to the target, and the sections begin. A die that stops
responding has its share taken by the others of its stream (R412). With VOLATILE_EN at 0 section 4 is not written (R413). -/
def execSavePrepared (deadDie : Option Nat) (s : State) : Outcome State Fault Refusal :=
  s.onM fun m => match m.vlt.save with
    | none => m
    | some v =>
      if v.step != SaveStep.prepare || !m.glb.powered then m else
      let m := m.flushCounters.flushMaps
      let m := match deadDie with
        | some d => if d < 64 then m.raise pgVlt 14 (vltDetail v.trigger 0 d) else m
        | none => m
      let cut := if m.is pgVlt VltF.volatileEn then 0 else m.volPages.length + m.tier.held.length
      let m := m.setArea m.targetB (some (m.imageOf v s.fuse.keyGen))
      let m : Mod := { m with vlt := { m.vlt with erased := false } }
      m.updSave { v with step := .writing, volCut := cut }

/-- Size of sections 5 to 7 in bytes, at most 128 MiB (R402): the spec gives no layout for them, so a free value (log entry 4). -/
def sectionBytes (seq : Nat) : Nat := Config.freeOf 402 [seq] % (128 * 1048576 + 1)

/-- E_RESERVE in mJ (R405). -/
def Mod.reserveMj (m : Mod) (seq : Nat) : Nat := (18000 + sectionBytes seq * m.get pgAge AgeF.eGibMj / gib) * 5 / 4

/-- Energy in mJ that the bank holds above V_LOW at a voltage in 10 mV units. -/
def Mod.storedMj (m : Mod) (v : Nat) : Nat :=
  let vLow := m.get pgAge AgeF.vLow
  if v ≤ vLow then 0 else energyMj (m.get pgAge AgeF.cMf) v vLow

/-- 4 KiB units that sections 2 to 4 hold in all, for PAGE_PROGRESS. -/
def Mod.savePages (m : Mod) : Nat :=
  m.durableSize / 4096 + runsCount m.aux.parityRuns + m.volPages.length + m.tier.held.length

/-- VAULT_ENERGY_POLL: V_BANK is read; at the reserve the writing of sections 2 to 4 stops, and what is left is recorded (R405). `parityLeft`,
`volLeft` and `durableLeft` count the unit records of sections 3, 4 and 2 still to be written. -/
def execVaultEnergyPoll (vBank parityLeft volLeft durableLeft : Nat) (s : State) : Outcome State Fault Refusal :=
  s.onM fun m => match m.vlt.save with
    | none => m
    | some v =>
      if v.step != .writing || !m.glb.powered then m else
      let m := m.set pgAge AgeF.vBank vBank
      let left := durableLeft + parityLeft + volLeft
      let all := m.savePages
      let done := all - left
      let m := m.progress pgVlt 1 (if all = 0 then 10000 else min 10000 (done * 10000 / all)) (done / 256)
      if v.truncated || left = 0 || m.reserveMj (m.nextSeq - 1) < m.storedMj vBank then m
      else
        let m := m.raise pgVlt 9 (vltDetail v.trigger 0 0)
        m.updSave { v with truncated := true, parityCut := parityLeft, volCut := max v.volCut volLeft, durable := durableLeft = 0 }

/-- Volatile pages of an image that were not saved (R413): those cut, after the pages held for others, and packed pages left out. -/
def Image.volUnsaved (i : Image) : Nat := i.volCut - i.saved.tier.held.length + i.deadPacks

/-- The VLT registers show an image (R413). -/
def Mod.showImage (m : Mod) (i : Image) : Mod :=
  [(VltF.saveSeq, i.seq), (VltF.lastTrigger, i.trigger), (VltF.durationMs, i.durationMs), (VltF.energyJ, i.energyJ), (VltF.vEnd, i.vEnd),
   (VltF.durableComplete, b2n i.durableComplete), (VltF.parityUnsaved, i.parityCut), (VltF.volUnsaved, i.volUnsaved),
   (VltF.saves, i.saved.saves), (VltF.restores, i.saved.restores)].foldl (fun (a : Mod) e => a.set pgVlt e.1 e.2) m

/-- Drizzle goes on (R444). -/
def Mod.resumeDrizzle (m : Mod) : Mod :=
  { m with drz := { m.drz with paused := false } }.set pgDrz HdrF.opState 1

/-- A plan held by a save or a restore starts (R386). -/
def Mod.heldPlan (m : Mod) : Mod := if m.age.planHeld then ({ m with age := { m.age with planHeld := false } }).startPlan else m

/-- Service resumes after the seal (R397, R399, R414). -/
def Mod.resumeService (m : Mod) (i : Image) : Mod :=
  let m := (m.showImage i).raise pgVlt 8 (vltDetail i.trigger 0 0)
  let m := m.setModState (if m.phase = 7 then msServing else msJoining)
  (m.progress pgVlt 0 10000 0).resumeDrizzle.eraseTarget.heldPlan

/-- The image of the running save, sealed (R404): the save ran at 180 W from its trigger. -/
def Mod.sealImage (m : Mod) (v : Save) (vBank : Nat) (i : Image) : Image :=
  { i with sealed_ := true, durableComplete := v.durable, truncated := v.truncated, parityCut := v.parityCut, volCut := v.volCut,
           durationMs := min 65535 ((m.tick - v.start) / ms), energyJ := min 65535 ((m.tick - v.start) * 180 / second), vEnd := vBank }

/-- What follows the seal (R397, R412, R463, R464); GPF Phase 2 is complete (R68). -/
def Mod.sealed (m : Mod) (v : Save) (i : Image) : Mod :=
  let m := v.gpf.foldl (fun (a : Mod) p => if a.portUp p then a.send (.gpf p 2) else a) m
  let m : Mod := { m with vlt := { m.vlt with save := none } }
  let m := m.set pgVlt VltF.testSave 0
  match v.after with
  | .resume => m.resumeService i
  | .powerDown => { m with glb := { m.glb with powered := false } }
  | .reset code => m.linksDown.moduleResetNow code
  | .halt => (m.linksDown.showImage i).enterHalted

/-- SAVE_SEAL: the seal page is programmed; once it verifies, the image is sealed (R404) and the machine goes on as the trigger lays down. A
page that does not verify is written again in a spare block (R412). A module that powers down leaves its power entry stage to treat the
input as a fresh insertion 100 ms later (R427). -/
def execSaveSeal (verified : Bool) (vBank : Nat) (s : State) : Outcome State Fault Refusal :=
  match s.m.vlt.save with
  | none => .next s
  | some v =>
    if v.step != .writing || !verified || !s.m.glb.powered then .next s
    else match s.m.area s.m.targetB with
      | none => .next s
      | some i =>
        let b := s.m.targetB
        let i := s.m.sealImage v vBank i
        .next { s with pwr := if v.after = .powerDown then s.pwr.afterSeal else s.pwr, m := (s.m.setArea b (some i)).sealed v i }

/-- BANK_CONVERTER_SHUTDOWN: the bank falls below V_LOW and its converter shuts down (R396); a die that has no input loses power. A save
that has not sealed leaves its image unsealed, so that the next start-up is STALE or FAILED (R412). -/
def execBankConverterShutdown (s : State) : Outcome State Fault Refusal :=
  if s.pwr.feeds || !s.m.glb.powered then .next s
  else
    let m := match s.m.vlt.save with
      | some v => if v.step = SaveStep.prepare then s.m.setArea s.m.targetB (some (s.m.imageOf v s.fuse.keyGen)) else s.m
      | none => s.m
    .next { s with pwr := s.pwr.afterSeal, m := { m with glb := { m.glb with powered := false }, vlt := { m.vlt with save := none } } }

/-! ## Choosing an image (R407) -/

/-- Restore kinds (R413). -/
inductive RestoreKind where
  | current | stale | empty | failed
  deriving DecidableEq, Repr

/-- RESTORE_KIND codes (R413). -/
def RestoreKind.code : RestoreKind → Nat
  | .current => 1 | .stale => 2 | .empty => 3 | .failed => 4

/-- The image of an area whose header verifies under the device key (R407). -/
def Mod.header (m : Mod) (keyGen : Nat) (b : Bool) : Option Image := (m.area b).filter fun i => i.keyGen = keyGen

/-- The image with the highest SAVE_SEQ among headers that verify, and the other area's. -/
def Mod.heads (m : Mod) (keyGen : Nat) : Option Image × Option Image := match m.header keyGen false, m.header keyGen true with
  | some a, some b => if a.seq < b.seq then (some b, some a) else (some a, some b)
  | some a, none => (some a, none)
  | none, b => (b, none)

/-- The restore kind and image of R407's table, and whether a newer unsealed image was found (R414). -/
def Mod.restoreChoice (m : Mod) (f : Fuses) : RestoreKind × Option Image × Bool :=
  let none_ := if f.lifecycle = 2 then RestoreKind.failed else RestoreKind.empty
  match m.heads f.keyGen with
  | (none, _) => (none_, none, false)
  | (some n, other) =>
    if n.sealed_ && n.durableComplete then (.current, some n, false)
    else match other with
      | some o => if o.sealed_ then (.stale, some o, !n.sealed_) else (none_, none, !n.sealed_)
      | none => (none_, none, !n.sealed_)

/-! ## Placing what is restored (R408) -/

/-- Free frames of the pool on channels in service. -/
def Mod.freeFrames (m : Mod) : Nat :=
  (gapsFrom 0 m.spans).foldl (fun (a : Nat) g => a + ({ start := g.1, len := g.2, skip := m.shutChans } : Run).count) 0

/-- Frames are given up, but for packing frames that hold tag grains, whose numbers their pages' holders know (log entry 47). -/
def Mod.unplaced (m : Mod) : Mod :=
  let tags := m.tier.pages.filterMap fun e => match e.2.st with
    | .peer _ slot => some (slot, m.domainAt (e.1 * 64))
    | _ => none
  let packs := tags.foldl (fun (a : Map (Nat × List (Nat × Nat))) t =>
    let old := mapGetD a (t.1 / 16) (t.2, [])
    mapPut a (t.1 / 16) (old.1, old.2 ++ [(t.1 % 16, 1)])) []
  let pages := m.tier.pages.filter fun e => match e.2.st with
    | .plain _ => false
    | .packed .. => false
    | _ => true
  { m with fab := { m.fab with extents := m.fab.extents.map fun e => (e.1, { e.2 with runs := [] }) },
           aux := { m.aux with parityRuns := [], targetRuns := [] },
           tier := { m.tier with pages := pages.map fun (e : Nat × PageEnt) => (e.1, { e.2 with keep := false, moving := false, heat := 0 }),
                                 packs := packs, heldFrames := [], moves := [], fetches := [], puts := [], fc := [], mapCache := [],
                                 clearing := [], walked := [], limbo := [], demoting := false, lostSince := 0 } }

/-- Frames for the parity store, and for the target's during a re-stripe; none where they do not fit. -/
def Mod.placeParity (m : Mod) (target : Bool) : Option Mod := match m.grp.map with
  | none => some m
  | some g => do
    let rs ← m.allocRuns (parityUnits g.units g.k g.m)
    let m : Mod := { m with aux := { m.aux with parityRuns := rs } }
    if g.restripe && target then do
      let ts ← m.allocRuns (parityUnits g.units g.tk g.tm)
      some { m with aux := { m.aux with targetRuns := ts } }
    else some m

/-- Frames for the own durable extents. -/
def Mod.placeDurables (m : Mod) : Option Mod :=
  (m.extsByBase fun e => (m.extReg e).durable && e.adopted.isNone).foldl (fun (a : Option Mod) e => do
    let m ← a
    let rs ← m.allocRuns (e.2.size / 4096)
    some (m.updExt e.1 fun x => { x with runs := rs })) (some m)

/-- Grains for a restored block: in a packing frame of its domain, else in a free frame. -/
def Mod.placeGrains (m : Mod) (d n : Nat) : Option (Mod × Nat × Nat) :=
  let take := fun (f a : Nat) (l : List (Nat × Nat)) =>
    (({ m with tier := { m.tier with packs := mapPut m.tier.packs f (d, l ++ [(a, n)]) } } : Mod), f, a)
  match m.tier.packs.findSome? fun e => if e.2.1 = d && !m.chanShut (chanOf e.1) then (grainGap e.2.2 n).map fun a => (e.1, a, e.2.2) else none with
  | some (f, a, l) => some (take f a l)
  | none => ((m.allocRuns 1).bind fun l => runsNth l 0).map fun f => take f 0 []

/-- A volatile page lands in a frame, or becomes LOST (R408). -/
def Mod.placePage (m : Mod) (p : Nat) (st : PageSt) : Mod := match st with
  | .plain _ => (match (m.allocRuns 1).bind fun l => runsNth l 0 with
    | some f => m.setPage p { st := .plain f, keep := false, moving := false, heat := 0 }
    | none => m.makeLost p)
  | .packed _ _ g lx => (match m.placeGrains (m.domainAt (p * 64)) g with
    | some (m, f, a) => m.setPage p { st := .packed f a g lx, keep := false, moving := false, heat := 0 }
    | none => m.makeLost p)
  | _ => m

/-- A fully backed volatile extent takes what frames are left; pages beyond them become LOST. -/
def Mod.placeBacked (m : Mod) (n : Nat) (e : Extent) : Mod :=
  let want := e.size / 4096
  let k := min want m.freeFrames
  let m := m.updExt n fun x => { x with runs := (m.allocRuns k).getD [] }
  (List.range' (e.base / 4096 + k) (want - k)).foldl (fun (a : Mod) p => a.makeLost p) m

/-- Volatile extents in saved order; `old` is the page map as saved. -/
def Mod.placeVolatile (m : Mod) (old : Map PageEnt) : Mod :=
  (m.extsByBase m.volatileExt).foldl (fun (a : Mod) e =>
    if a.fullyBacked e.2 then a.placeBacked e.1 e.2
    else (old.filter fun p => inPages e.2.base e.2.size p.1).foldl (fun (b : Mod) p => b.placePage p.1 p.2.st) a) m

/-- Pages held for other members take frames; one that finds none is dropped, and its fetch will be refused. -/
def Mod.placeHeld (m : Mod) : Mod := m.tier.held.foldl (fun (a : Mod) e =>
  match (a.allocRuns 1).bind fun l => runsNth l 0 with
  | some f => { a with tier := { a.tier with heldFrames := mapPut a.tier.heldFrames e.1 f } }
  | none => { a with tier := { a.tier with held := mapDel a.tier.held e.1 } }) m

/-! ## Bringing an image back (R408, R410) -/

/-- Ring-table entries after a restore (R357): the saved configuration, every pair DISABLED with RING_EPOCH advanced. -/
def ringRegs (cfg epochs : Map Nat) : Map Nat :=
  let rings := cfg.filter fun e => isRingKey e.1
  (upto 8192).flatMap fun n =>
    (rings.filter fun e => e.1 / 4096 = 0x20000 + n) ++ [(fldKey (ringAt n) RingEF.ringEpoch, (mapGetD epochs n 0 + 1) % 65536)]

/-- Preset lexicons after a restore (R279, R398): those the lexicon area holds a copy of; one whose copy is gone or differs is FAULTY. -/
def Mod.restoredLex (m : Mod) (l : Lex) : Lex :=
  { l with presets := l.presets.map (fun (e : Nat × Lexicon) =>
             if e.2.st = .ready && mapGet m.vlt.lexArea e.1 != some e.2 then (e.1, { e.2 with st := .faulty }) else e),
           gone := l.gone ++ (l.streams.map Prod.fst).filter fun n => !l.gone.contains n,
           streams := [], waiting := [], running := [] }

/-- The configuration of an image (R402, section 7): register fields, rings, contexts, extents and grants, windows, the group map with its
accepted proposal, keys, lexicons, lane roles; the event logs; each bundle's OWN_INC advanced (R149). -/
def Mod.restoreConfig (m : Mod) (v : Saved) : Mod :=
  let low := (v.cfg.filter fun e => !isRingKey e.1).foldl (fun (a : Map Nat) e => mapPut a e.1 e.2) (m.regs.filter fun e => !isRingKey e.1)
  let regs := (low.filter fun e => decide (e.1 < 0x800000 * 64)) ++ ringRegs v.cfg v.ringEpochs ++ low.filter fun e => decide (0x800000 * 64 ≤ e.1)
  let bundles := v.bundles.map fun (e : Nat × Bundle) => (e.1, { e.2 with ownInc := (e.2.ownInc + 1) % 2 ^ 32 })
  { m with regs := regs, mgmt := { m.mgmt with logs := v.logs },
           fab := v.fab, led := v.led, grp := v.grp, aux := v.aux, lex := m.restoredLex v.lex,
           bfl := { m.bfl with inc0 := (v.inc0 + 1) % 2 ^ 32, bundles := bundles, quads := v.quads },
           key := v.key }

/-- The own index is among the members of the map: the module has peers to rejoin (R411). -/
def Mod.rejoinList (m : Mod) : List Nat := match m.grp.map with
  | some g => (upto g.n).filter fun x => x != m.own && g.stOf x != mbLost
  | none => []

/-- Rejoining begins (R411): every other member is asked for its map, and the ledger's deltas are owed. A module in no group is reconciled
at once, and its durable extents are served (R460). -/
def Mod.rejoin (m : Mod) : Mod :=
  let owed := m.grp.outs.flatMap fun e => e.2.unacked.map fun (d : Delta) => (e.1, d.seq)
  let m : Mod := { m with aux := { m.aux with reconciling := true, rejoin := m.rejoinList, ledger := owed } }
  if m.inGroup then (if m.rejoinList = [] then m.rejoined.reconciled else m) else m.reconciled

/-- Data units of a CURRENT restore (R408): lines, poison, pages and frames; what was cut comes back LOST or is to be recomputed. None where
the durable extents and the parity store do not fit. -/
def Mod.restoreData (m : Mod) (i : Image) : Option Mod :=
  let v := i.saved
  let m : Mod := { m with mem := v.mem, poison := v.poison, tier := v.tier, mgmt := { m.mgmt with poisonList := v.poisonList } }
  let m := m.grp.absent.foldl (fun (a : Mod) l => { a with mem := Memory.clear a.mem (l * 64) 64 }) m
  let heldCut := min i.volCut m.tier.held.length
  let held := m.tier.held.take (m.tier.held.length - heldCut)
  let pages := m.volPages
  let cut := pages.drop (pages.length - (i.volCut - heldCut))
  let old := (cut.foldl (fun (a : Mod) p => a.makeLost p) m).tier.pages
  let all := match m.grp.map with
    | some g => parityUnits g.units g.k g.m
    | none => 0
  let units := List.range' (all - i.parityCut) (min all i.parityCut)
  let resync := m.aux.resyncUnits ++ units.filter fun u => !m.aux.resyncUnits.contains u
  let target := m.aux.targetRuns != []
  let m := (cut.foldl (fun (a : Mod) p => a.makeLost p) m)
  let m : Mod := { m with tier := { m.tier with held := held },
                          aux := { m.aux with resyncUnits := resync },
                          grp := { m.grp with parity := units.foldl (fun (a : Memory) u => Memory.clear a (u * 4096) 4096) m.grp.parity } }
  (m.unplaced.placeParity target).bind fun m => m.placeDurables.map fun m => ((m.placeVolatile old).placeHeld).checkUse

/-- Running fronts resume at F on their engines (R314, R408). -/
def Mod.showFronts (m : Mod) : Mod := m.key.fronts.foldl (fun (a : Mod) e => a.frontShow e.1 e.2) m

/-- A module in no group cannot reconstruct a durable line that is absent: it is poisoned. -/
def Mod.settleAbsent (m : Mod) : Mod :=
  if m.inGroup then m else
  let m := m.grp.absent.foldl (fun (a : Mod) l => a.setPoison l true) m
  { m with grp := { m.grp with absent := [] } }

/-- A CURRENT restore (R408); none where it turns out FAILED. -/
def Mod.restoreCurrent (m : Mod) (i : Image) : Option Mod :=
  ((m.restoreConfig i.saved).restoreData i).map fun m => (((m.showImage i).settleAbsent).showFronts).takeRole

/-- A STALE restore (R410): the configuration is kept; every volatile page that held data is LOST, parity store and ledgers are discarded,
fronts end with their target slots (log entry 53), and the durable extents are fenced. -/
def Mod.restoreStale (m : Mod) (i : Image) : Mod :=
  let v := i.saved
  let pages := ({ m with fab := v.fab, tier := v.tier } : Mod).volPages
  let m := m.restoreConfig v
  let wins := v.led.wins.map fun (w : Nat × Window) => (w.1, { w.2 with epoch := 0 })
  let lost := v.tier.pages.filter fun e => e.2.st = .lost
  let m : Mod := { m with
    led := { Led.reset with wins := wins, mirrors := v.led.mirrors },
    grp := { Grp.reset with map := v.grp.map, highTerm := v.grp.highTerm, accepted := v.grp.accepted, ownId := v.grp.ownId },
    aux := GrpAux.reset,
    tier := { Tier.reset with pages := lost },
    mgmt := { m.mgmt with poisonList := v.poisonList },
    key := { m.key with fronts := [], slots := m.key.slots.filter fun e => !e.2.target } }
  let m := (upto 16).foldl (fun (a : Mod) e => if a.get (pgFrn e) HdrF.roleCode = 0 then a else a.newRole (pgFrn e) 0) m
  let m := m.unplaced
  let m := ((m.placeParity false).bind fun m => m.placeDurables).getD m
  let m := m.placeVolatile []
  let m := pages.foldl (fun (a : Mod) p => a.makeLost p) m
  (((m.fence .restore).showImage i).takeRole).checkUse

/-- Slot 0's key material is drawn where no image brings it (log entry 4). -/
def Mod.freshZero (m : Mod) : Mod :=
  let r := m.randomBytes 96
  { r.1 with key := { r.1.key with zero := { r.1.key.zero with key := r.2 } } }

/-- Nothing is restored (R407, R410). -/
def Mod.restoreNone (m : Mod) (failed : Bool) : Mod :=
  let m := [VltF.saveSeq, VltF.lastTrigger].foldl (fun (a : Mod) f => a.set pgVlt f 0) m.freshZero
  let m : Mod := { m with bfl := { m.bfl with inc0 := 1 } }
  if failed then m.fence .restore else m

/-! ## The end of a restore -/

/-- Every start-up raises what the power entry log recorded since the previous one (R429). -/
def Mod.powerLog (m : Mod) (p : Pwr) : Mod :=
  ((p.log.take p.fresh).reverse).foldl (fun (a : Mod) e =>
    (a.raise pgPwr (causeBit e.cause) (e.cause ||| (e.rampNo <<< 4))).event .failure .powerFault [e.cause, e.vinAt, e.iinAt, e.rampNo]) m

/-- The restore record, at Failure level too for STALE, FAILED and truncated saves (R409). -/
def Mod.restoreRecord (m : Mod) (k : RestoreKind) (i : Option Image) : Mod :=
  let args := [k.code] ++ match i with
    | some i => [i.seq, i.trigger, i.parityCut, i.volUnsaved]
    | none => [0, 0, 0, 0]
  let m := m.event .info .restoreRecord args
  if k = .stale || k = .failed || (i.map Image.truncated).getD false then m.event .failure .restoreFailure args else m

/-- Every port trains in the role that the configuration gives it (R458, phase 5). -/
def Mod.portsTrain (m : Mod) : Mod := m.bfl.quads.foldl (fun (a : Mod) q => (a.set (pgLnq q.1) LnqF.role q.2.role).startQuad [] q.2) m

/-- The PAGE_ERR bits of a restore (R414). -/
def Mod.restoreErrs (m : Mod) (k : RestoreKind) (trigger : Nat) (newer : Bool) : Mod :=
  let d := vltDetail trigger k.code 0
  let m := if newer then m.raise pgVlt 10 d else m
  match k with
  | .current => m.raise pgVlt 8 d
  | .stale => m.raise pgVlt 11 d
  | .failed => m.raise pgVlt 12 d
  | .empty => m

/-- Phase 4 ends (R409, R458, R460): registers, records, the target's erase, the ports, drizzle, and rejoining or service. -/
def Mod.endRestore (m : Mod) (k : RestoreKind) (i : Option Image) (newer : Bool) (p : Pwr) : Mod :=
  let m : Mod := { m with vlt := { m.vlt with restoring := false } }
  let m := (m.set pgVlt VltF.restoreKind k.code).set pgVlt VltF.reconciled 0
  let m := if k = .current || k = .stale then m.add pgVlt VltF.restores 1 else m
  let m := (m.restoreErrs k ((i.map Image.trigger).getD 0) newer).restoreRecord k i
  let m := (m.set pgGlb GlbF.restoreMs ((m.tick - m.glb.restoreTick) / ms)).set pgGlb GlbF.phase 5
  let m := ((m.setModState msJoining).progress pgVlt 0 10000 0).resumeDrizzle
  let m := (m.powerLog p).eraseTarget.settleAllowance
  let m := if m.inGroup then m else m.unfence .startup
  let m := if k = .current then m.rejoin
    else if m.inGroup then { m with aux := { m.aux with rejoin := m.rejoinList } } else m
  m.showVlt.portsTrain.heldPlan

/-- RESTORE_DONE: the image that R407 chose has been read; a block whose tag fails, or durable data that does not fit, turns the restore into
FAILED (R408), the former with a Fatal record (R412). -/
def execRestoreDone (tagOk : Bool) (s : State) : Outcome State Fault Refusal :=
  if !s.m.runs || s.m.phase != 4 then .next s
  else
    let c := s.m.restoreChoice s.fuse
    let fin := fun (m : Mod) (k : RestoreKind) (i : Option Image) =>
      Outcome.next { s with pwr := { s.pwr with fresh := 0 }, m := m.endRestore k i c.2.2 s.pwr }
    match c.1, c.2.1 with
    | .current, some i =>
      if !tagOk then fin ((s.m.restoreNone true).event .fatal .restoreFailure [i.seq]) .failed none
      else (match s.m.restoreCurrent i with
        | some m => fin m .current (some i)
        | none => fin (s.m.restoreNone true) .failed none)
    | .stale, some i =>
      if !tagOk then fin ((s.m.restoreNone true).event .fatal .restoreFailure [i.seq]) .failed none
      else fin (s.m.restoreStale i) .stale (some i)
    | .empty, _ => fin (s.m.restoreNone false) .empty none
    | _, _ => fin (s.m.restoreNone true) .failed none

/-! ## Training the memory (R323) -/

/-- The PHY group of a channel (R322). -/
def phyGroup (c : Nat) : Nat := c / 16

/-- MAX_RATE of a group at start-up: the lowest of its channels' in the module configuration, which the image to be restored holds
(R323, log entry 54). -/
def Mod.startRate (m : Mod) (f : Fuses) (g : Nat) : Nat := match (m.restoreChoice f).2.1 with
  | some i => (List.range' (16 * g) 16).foldl
      (fun a c => min a (mapGetD i.saved.cfg (fldKey (pageAddr (pgMch c)) MchF.maxRate) MchF.maxRate.rst)) 5
  | none => MchF.maxRate.rst

/-- A channel that fails at the lowest rate is retired (R323, R335): the internal units it held go to pool frames. -/
def Mod.retireAtStart (m : Mod) (c : Nat) : Mod :=
  let p := pgMch c
  let m : Mod := { m with chn := { m.chn with retired := if m.chn.retired.contains c then m.chn.retired else m.chn.retired ++ [c] } }
  let m := (m.setState p stRetired).set p MchF.selfRefresh 1
  let own := ((List.range' poolFrames (allUnits - poolFrames)).filter fun u => chanOf u = c && (mapGet m.chn.internalFrames u).isNone) ++
    (m.chn.internalFrames.filter fun e => chanOf e.2 = c).map Prod.fst
  let rs := (m.allocRuns own.length).getD []
  let fs := (upto own.length).filterMap fun i => (runsNth rs i).map fun f => (own.getD i 0, f)
  let m : Mod := { m with chn := { m.chn with internalFrames := fs.foldl (fun (a : Map Nat) e => mapPut a e.1 e.2) m.chn.internalFrames } }
  m.raise p 12 (mchDetail 5 0 0)

/-- DRAM_TRAIN_DONE: each PHY group runs at the rate it trained at, no faster than MAX_RATE; channels that failed are retired, and the
restore starts (R323, R407, R458). -/
def execDramTrainDone (rates failed : List Nat) (s : State) : Outcome State Fault Refusal :=
  s.onM fun m =>
    if !m.runs || m.phase != 3 then m else
    let m : Mod := { m with glb := { m.glb with dramUp := true, restoreTick := m.tick } }
    let m := (upto 96).foldl (fun (a : Mod) c =>
      let g := phyGroup c
      let a := (a.set (pgMch c) MchF.rate (min (rates.getD g 0) (m.startRate s.fuse g))).set (pgMch c) MchF.group g
      if m.chn.retired.contains c then (a.setState (pgMch c) stRetired).set (pgMch c) MchF.selfRefresh 1 else a) m
    let m := (failed.filter fun c => decide (c < 96) && !m.chn.retired.contains c).foldl (fun (a : Mod) c => a.retireAtStart c) m
    let m : Mod := { m with vlt := { m.vlt with restoring := true } }
    let m := (m.set pgGlb GlbF.toRestoreMs (min 65535 ((m.tick - m.glb.pgTick) / ms))).set pgGlb GlbF.phase 4
    (m.setModState msRestoring).showVlt.progress pgVlt 1 0 0

end Sys2Proof.Machine
end

