-- ==== Sys2Proof/Machine/Views.lean ====
section
/-!
DEFINITION. Machine/Views.lean: what a register field reads as: fields that are held, and fields that show what other parts of the state
hold (a count of entries, the group map, a selected member, the power entry stage).
-/
namespace Sys2Proof.Machine

/-- The first of a list of fields with their values that is this field; else what is held. -/
def pick (f : Fld) (d : Nat) (l : List (Fld × Nat)) : Nat := ((l.find? fun e => e.1 = f).map Prod.snd).getD d

/-- PAGE_STS.STATE (R34): a READY block with work in flight shows BUSY. -/
def Mod.shownState (m : Mod) (p : PageId) : Nat :=
  if m.works p && m.inFlight p then stBusy else m.blockState p

/-! ## The header (R31 to R42) -/

/-- GROUP_STATE (R115): none, forming, protected, degraded, fenced, beyond tolerance. -/
def Mod.groupState (m : Mod) : Nat := match m.grp.map with
  | none => if m.grp.form.isSome || m.grp.accepted.isSome then 1 else 0
  | some g => if m.fenced then 4 else if m.beyondNow then 5 else if allActive g then 2 else 3

/-- OP_KIND and OP_INDEX (R113, R115): this module's walk, else a re-stripe, else a member that rebuilds or resyncs. -/
def Mod.groupOp (m : Mod) : Nat × Nat := match m.grp.map with
  | none => (0, 0)
  | some g => match m.grp.walk with
    | some w => (match w.kind with
        | .rebuild => 1
        | .resync => 2
        | .restripe => 3, m.own)
    | none =>
      if g.restripe then (3, g.keeper)
      else match (upto g.n).find? fun x => g.stOf x = mbRebuilding || g.stOf x = mbResync with
        | some x => (if g.stOf x = mbRebuilding then 1 else 2, x)
        | none => (0, 0)

/-- BLOCK_STS of a page: the GRP page's fields (R115), zero on the STW page (R213); no chapter gives another page's (log entry 55). -/
def Mod.blockSts (m : Mod) (p : PageId) : Nat := match p.ty with
  | .grp => m.groupState + 8 * b2n (m.inGroup && m.majority) + 16 * m.groupOp.1 + 256 * m.groupOp.2
  | .stw => 0
  | _ => Config.freeOf 512 [pageCode p.ty] % 2 ^ 48

/-- A header field of a page as read (R31 to R42); what PAGE_CAP says is absent reads zero (R32). -/
def Mod.headerView (m : Mod) (p : PageId) (f : Fld) : Nat :=
  if f.off = 0x40 && !capProgress p.ty then 0
  else if f.off = 0x48 && !capRole p.ty then 0
  else pick f (m.get p f) [
    (HdrF.blockType, pageCode p.ty), (HdrF.instance_, p.inst),
    (HdrF.blockRev, if p.ty = .glb then 0xB0 else Config.freeOf 510 [pageCode p.ty] % 256),
    (HdrF.capProgress, b2n (capProgress p.ty)), (HdrF.capRole, b2n (capRole p.ty)), (HdrF.capFreeze, b2n (capFreeze p.ty)),
    (HdrF.capReset, b2n (capReset p.ty)), (HdrF.capLock, b2n (capLock p.ty)),
    (HdrF.blockCap, Config.freeOf 511 [pageCode p.ty] % 2 ^ 32),
    (HdrF.thaw, b2n (p.ty = .mch && (m.chan p.inst).thawing)),
    (HdrF.state, m.shownState p), (HdrF.errPending, b2n (m.errPending p)), (HdrF.blockSts, m.blockSts p)]

/-! ## The pages -/

/-- GLB (R467). -/
def Mod.glbView (m : Mod) (f : Fld) : Nat := pick f (m.get pgGlb f) [
  (GlbF.vendorId, Config.vendorId.toNat), (GlbF.frozen, m.frozenCount), (GlbF.faultResets1h, min 15 m.faultResets1h),
  (GlbF.moduleResets, m.glb.moduleResets), (GlbF.faultResets, m.glb.faultResets)]

/-- Peer-role registers of a port (R157); credits are those of the class selected. -/
def Mod.peerView (m : Mod) (n : Nat) (f : Fld) : Nat :=
  let q := m.pp n
  let b := q.peer.map m.bundle
  let c := m.get (pgPrt n) PrtF.peerCreditClass
  let held := q.frames.length
  pick f (m.get (pgPrt n) f) [
    (PrtF.peerOndie, min held (m.onDieFrames n)), (PrtF.peerSpilled, held - m.onDieFrames n),
    (PrtF.peerTxBseq, (b.map Bundle.tx).getD 0), (PrtF.peerRxBseq, (b.map Bundle.rx).getD 0),
    (PrtF.peerLimit, q.limit.getD c 0), (PrtF.peerUsed, q.used.getD c 0), (PrtF.peerPoolFree, 8192 - creditCost q.partial_.length)]

/-- PRT (R157, R187): the registers of a role that the port does not have read zero. -/
def Mod.prtView (m : Mod) (n : Nat) (f : Fld) : Nat :=
  if f.off < 0x200 then
    if !m.hostRole n then 0
    else
      let ld := m.ldOf n (m.get (pgPrt n) PrtF.hostLdSel)
      pick f (m.get (pgPrt n) f) [(PrtF.hostHostCtx, ld.1), (PrtF.hostLdEn, b2n ld.2)]
  else if m.peerRole n then m.peerView n f else 0

/-- Entries of the sets of a slice, `per` sets to a slice. -/
def setsOf {α : Type} (mp : Map (List α)) (per sl : Nat) : List α := (mp.filter fun e => e.1 / per = sl).flatMap Prod.snd

/-- HSL (R242, R269). -/
def Mod.hslView (m : Mod) (sl : Nat) (f : Fld) : Nat :=
  let die := setsOf m.dir.onDie 2048 sl
  let cache := mapGetD m.tier.mapCache sl []
  pick f (m.get (pgHsl sl) f) [
    (HslF.ondieUsed, die.length), (HslF.ondiePinned, (die.filter fun e => e.pinned m.tick).length),
    (HslF.memUsed, (setsOf m.dir.inMem 524288 sl).length), (HslF.mapEntries, cache.length),
    (HslF.mapDirty, (cache.filter Prod.snd).length), (HslF.fcKept, (((m.tier.fc.filter fun e => sliceOf e.1 = sl).flatMap Prod.snd).filter FcLine.kept).length)]

/-- LEX (R290): streams of verbs, and READY lexicons with lexicon 0. -/
def Mod.lexView (m : Mod) (e : Nat) (f : Fld) : Nat := pick f (m.get (pgLex e) f) [
  (LexF.verbSlotsOpen, m.lex.streams.length),
  (LexF.lexiconsReady, 1 + (m.lex.presets.filter fun x => x.2.st = .ready).length)]

/-- The engine in which a delta not yet sent waits: that of its line's home slice (R92, R95). -/
def Mod.deltaEngine (m : Mod) (d : Delta) : Nat :=
  match m.fab.extents.find? fun e => e.2.stripe.any fun s => decide (s * 32768 ≤ d.line) && decide (d.line < s * 32768 + e.2.size / 64) with
  | some (_, e) => engineOf (sliceOf (e.base / 64 + (d.line - e.stripe.getD 0 * 32768)))
  | none => engineOf (paritySlice d.line)

/-- PAR (R124). -/
def Mod.parView (m : Mod) (e : Nat) (f : Fld) : Nat := pick f (m.get (pgPar e) f) [
  (ParF.occupancy, m.grp.outs.foldl (fun a o => a + (o.2.unacked.filter fun d => !d.sent && m.deltaEngine d = e).length) 0),
  (ParF.sliceMap, 15 <<< (4 * e))]

/-- Pairs whose STATE is one of these (R360). -/
def Mod.pairsIn (m : Mod) (sts : List Nat) : Nat :=
  (m.regs.filter fun e => isRingKey e.1 && e.1 % 4096 = 0x30 * 64 && sts.contains e.2).length

/-- RNG (R360). -/
def Mod.rngView (m : Mod) (f : Fld) : Nat := pick f (m.get pgRng f) [
  (RngF.ringsEnabled, m.pairsIn [1, 3]), (RngF.ringsError, m.pairsIn [2]), (RngF.verbsInflight, m.verbsRunning)]

/-- GRP_MEMBER_INFO, GRP_PAIR_OUT and GRP_PAIR_IN of the member selected; zero beyond the group (R119 to R121). -/
def Mod.memberView (m : Mod) (g : GMap) (x : Nat) (f : Fld) : Nat :=
  if g.n ≤ x then 0 else
  let y := g.members[x]?
  let o := m.pairOut x
  let i := m.pairIn x
  pick f 0 [
    (GrpF.moduleId, g.idOf x), (GrpF.state, g.stOf x), (GrpF.reachable, b2n (m.reaches x)),
    (GrpF.standinIndex, (y.bind Member.standin).getD 0), (GrpF.standinValid, b2n (y.bind Member.standin).isSome),
    (GrpF.standinEpoch, (y.map Member.standEpoch).getD 0), (GrpF.spillMib, m.spillFor (g.idOf x) / 1048576),
    (GrpF.nextSeq, o.next), (GrpF.unacked, o.unacked.length), (GrpF.appliedThrough, i.a), (GrpF.stages, i.stages.length)]

/-- GRP (R116 to R122). -/
def Mod.grpView (m : Mod) (f : Fld) : Nat :=
  if f.off = 0x118 || 0x138 ≤ f.off then m.get pgGrp f
  else match m.grp.map with
  | none => 0
  | some g =>
    if 0x118 < f.off then m.memberView g (m.get pgGrp GrpF.index) f
    else pick f 0 [
      (GrpF.groupEpoch, g.gen % 65536), (GrpF.keeperTerm, g.term), (GrpF.keeperIndex, g.keeper), (GrpF.ownIndex, m.own),
      (GrpF.members, g.n), (GrpF.k, g.k), (GrpF.m, g.m), (GrpF.restriping, b2n g.restripe), (GrpF.targetK, g.tk), (GrpF.targetM, g.tm),
      (GrpF.mapGeneration, g.gen), (GrpF.groupId, g.groupId), (GrpF.stripeUnits, g.units)]

/-- PLAIN pages: those named one by one, and the rest of fully backed extents (R246). -/
def Mod.pagesPlain (m : Mod) : Nat :=
  m.fab.extents.foldl (fun (a : Nat) e =>
    let own := m.tier.pages.filter fun p => inPages e.2.base e.2.size p.1
    let plain := (own.filter fun p => match p.2.st with
      | .plain _ => true
      | _ => false).length
    a + plain + (if m.fullyBacked e.2 then e.2.size / 4096 - own.length else 0)) 0

/-- MOV (R267). -/
def Mod.movView (m : Mod) (f : Fld) : Nat :=
  let packed := m.tier.pages.filterMap fun p => match p.2.st with
    | .packed _ _ g _ => some g
    | _ => none
  let backed := m.fab.extents.foldl (fun a e => if m.fullyBacked e.2 then a + e.2.size else a) 0
  pick f (m.get pgMov f) [
    (MovF.framesUsed, m.framesUsed), (MovF.usePct, min 10000 m.usePct),
    (MovF.backed, (backed + m.parityBytes + (granuleBytes - 1)) / granuleBytes), (MovF.thin, m.thinSize / granuleBytes),
    (MovF.pagesPlain, m.pagesPlain), (MovF.pagesPacked, packed.length), (MovF.grains, packed.foldl (· + ·) 0),
    (MovF.peerOut, (m.tier.pages.filter fun p => match p.2.st with
      | .peer _ _ => true
      | _ => false).length),
    (MovF.peerIn, m.tier.held.length)]

/-- The slot that SLOT_SEL names (R316). -/
def Mod.slotView (m : Mod) (d : Nat) (f : Fld) : Nat :=
  let k := m.slot d
  let on := m.key.fronts.find? fun e => e.2.domain = d || e.2.target = some d
  pick f 0 [
    (KeyF.state, match k with
      | none => 0
      | some k => if k.target then 2 else 1),
    (KeyF.mode, (k.map KeySlot.mode).getD 0), (KeyF.g, (k.map KeySlot.g).getD 0), (KeyF.frontActive, b2n on.isSome),
    (KeyF.frontEngine, (on.map Prod.fst).getD 0),
    (KeyF.partner, match on with
      | none => 0
      | some e => if e.2.domain = d then e.2.target.getD 0 else e.2.domain),
    (KeyF.extents, m.extentsOf d)]

/-- KEY (R316). -/
def Mod.keyView (m : Mod) (f : Fld) : Nat :=
  if f.off = 0x138 then m.slotView (m.get pgKey KeyF.slotSel) f
  else pick f (m.get pgKey f) [
    (KeyF.slotsFree, 4095 - m.key.slots.length), (KeyF.domains, (m.key.slots.filter fun e => !e.2.target).length),
    (KeyF.fronts, m.key.fronts.length), (KeyF.majorHigh, m.glb.sec.majorHigh)]

/-- SPL (R381); the channel and activity selected show zero where the module has none. -/
def Mod.splView (m : Mod) (f : Fld) : Nat :=
  let c := m.get pgSpl SplF.chanSel
  let a := m.get pgSpl SplF.actSel
  let u := if c < 96 && a < 9 then m.chanUse c a else (0, 0, 0)
  pick f (m.get pgSpl f) [(SplF.tick, m.tick), (SplF.usedLast, u.1), (SplF.budgetLast, u.2.1), (SplF.spareLast, u.2.2)]

/-- DRZ (R445): the repair log from the boot flash, oldest first, lifecycle and key generation from the fuses. -/
def Mod.drzView (m : Mod) (fu : Fuses) (f : Fld) : Nat :=
  let e := m.boot.repairs[m.get pgDrz DrzF.logSel]?
  pick f (m.get pgDrz f) [
    (DrzF.sparesFree, m.sparesFree), (DrzF.logCount, m.boot.repairs.length), (DrzF.valid, b2n e.isSome),
    (DrzF.kind, (e.map fun r => b2n r.column).getD 0), (DrzF.logRegion, (e.map Repair.region).getD 0),
    (DrzF.position, (e.map Repair.position).getD 0), (DrzF.spare, (e.map Repair.spare).getD 0),
    (DrzF.logPass, (e.map Repair.pass).getD 0),
    (DrzF.lifecycle, fu.lifecycle), (DrzF.keyGen, fu.keyGen), (DrzF.wipes, fu.wipes)]

/-- A sampled field of the page that SNAP_SEL names (R454). -/
def Mod.snapOf (m : Mod) (f : Fld) : Nat := match pageAt (m.get pgPmu PmuF.snapSel * 0x1000) with
  | some p => mapGetD m.snap (fldKey (pageAddr p) f) 0
  | none => 0

/-- OVF_MAPj (R456): the page slots of 64j to 64j + 63 on which an OVF is set. -/
def Mod.ovfMap (m : Mod) (j : Nat) : Nat :=
  (upto 64).foldl (fun a i => match pageAt ((64 * j + i) * 0x1000) with
    | some p => a + (b2n ((upto 4).any fun k => m.is p (evtOvf k))) <<< i
    | none => a) 0

/-- PMU (R456). -/
def Mod.pmuView (m : Mod) (f : Fld) : Nat :=
  if 0x150 ≤ f.off then m.ovfMap ((f.off - 0x150) / 8)
  else if 0x130 ≤ f.off then m.snapOf (if f.lo = 63 then evtOvf ((f.off - 0x130) / 8) else evtCount ((f.off - 0x130) / 8))
  else m.get pgPmu f

/-- STW (R213). -/
def Mod.stwView (m : Mod) (f : Fld) : Nat := pick f (m.get pgStw f) [
  (StwF.outstanding, ((m.stw.fetch.map fun x => x.out.length).getD 0) + m.stw.quar.length)]

/-- State codes of the power entry stage (R431). -/
def PwrSt.code : PwrSt → Nat
  | .off => 0
  | .delay => 1
  | .ramping => 2
  | .on => 3
  | .latched => 4
  | .fetFail => 5

/-- PWR (R431): the stage's own status and log. -/
def Mod.pwrView (m : Mod) (w : Pwr) (f : Fld) : Nat :=
  let e := w.log[m.get pgPwr PwrF.logSel]?
  pick f (m.get pgPwr f) [
    (PwrF.state, w.st.code), (PwrF.pg, b2n w.pg), (PwrF.fault, b2n (w.latch.isSome || w.fetShort || w.fetDegraded)),
    (PwrF.present, b2n w.present), (PwrF.pwrEn, b2n w.en), (PwrF.pfWarn, b2n w.pfwLow), (PwrF.cbTimer, b2n (w.timer = some .breaker)),
    (PwrF.dly, w.dly), (PwrF.lastCause, (w.log.head?.map PwrLog.cause).getD 0),
    (PwrF.cause, (e.map PwrLog.cause).getD 0), (PwrF.valid, b2n e.isSome), (PwrF.vinAt, (e.map PwrLog.vinAt).getD 0),
    (PwrF.iinAt, (e.map PwrLog.iinAt).getD 0), (PwrF.rampNo, (e.map PwrLog.rampNo).getD 0),
    (PwrF.ramps, w.ramps), (PwrF.latches, w.latches)]

/-- What a field of a page reads as. -/
def State.view (s : State) (p : PageId) (f : Fld) : Nat :=
  let m := s.m
  (if f.off < 0x100 then m.headerView p f
   else match p.ty with
    | .glb => m.glbView f
    | .prt => m.prtView p.inst f
    | .hsl => m.hslView p.inst f
    | .mch => pick f (m.get p f) [(MchF.group, phyGroup p.inst), (MchF.touched, (m.chan p.inst).touched.length)]
    | .cip => pick f (m.get p f) [(CipF.keysHeld, (mapGetD m.key.caches p.inst []).length)]
    | .lex => m.lexView p.inst f
    | .par => m.parView p.inst f
    | .rng => m.rngView f
    | .grp => m.grpView f
    | .mov => m.movView f
    | .key => m.keyView f
    | .spl => m.splView f
    | .drz => m.drzView s.fuse f
    | .pmu => m.pmuView f
    | .stw => m.stwView f
    | .pwr => m.pwrView s.pwr f
    | .age => pick f (m.get p f) [(AgeF.dTgtPs, m.dTgt)]
    | .frn | .lnq | .vlt => m.get p f) % 2 ^ f.width

/-- The 64 bits a register of a page reads as; reserved registers and bits read zero (R23, R29). -/
def State.readReg (s : State) (p : PageId) (off : Nat) : Nat :=
  (regFields p.ty off).foldl (fun a f => a + s.view p f <<< f.lo) 0

/-! ## Output pins (R417, R470, R474, R479) -/

/-- FAULT_N is low: the fuse is latched off or a FET failure is recorded (R417, R424, R426). -/
def State.faultLow (s : State) : Bool := s.pwr.bias && (s.pwr.latch.isSome || s.pwr.fetShort || s.pwr.fetDegraded)

/-- LED_ACT_N is low (R474). -/
def State.ledAct (s : State) : Bool := s.m.glb.powered && decide (s.view pgGlb GlbF.moduleState = msServing)

/-- LED_ATTN_N blinks (R474): a save or a restore runs. -/
def State.ledBlink (s : State) : Bool := s.m.glb.powered && (s.m.saving || s.m.vlt.restoring)

/-- LED_ATTN_N is low steadily (R474). -/
def State.ledAttn (s : State) : Bool :=
  s.m.glb.powered && !s.ledBlink && (s.m.glb.halted || s.faultLow || s.m.is pgDrz DrzF.tamper ||
    s.view pgVlt VltF.restoreKind = RestoreKind.stale.code || s.view pgVlt VltF.restoreKind = RestoreKind.failed.code)

/-- THERM_N and LEAK_N are low (R479). -/
def State.thermLow (s : State) : Bool := s.m.glb.powered && s.m.glb.thermLow
def State.leakLow (s : State) : Bool := s.m.glb.powered && s.m.glb.leakLow

end Sys2Proof.Machine
end

