-- ==== Sys2Proof/Machine/Registers.lean ====
section
/-!
DEFINITION. Machine/Registers.lean: register accesses (chapters 02 and 07): the access rules of R25 to R29, what each register of a block
page does when it is written, the floor and ring tables, the MSI-X structures, the user counter window, configuration space.
-/
namespace Sys2Proof.Machine

open Host

/-! ## Values a field takes

A value outside the range that the field's table states is refused with CMD_REFUSED (log entry 55 where the table does not say so). -/

/-- The value lies in the range of the field's table. -/
def fieldOk (t : PageTy) (f : Fld) (v : Nat) : Bool :=
  let within := fun (lo hi : Nat) => decide (lo ≤ v) && decide (v ≤ hi)
  match t with
  | .glb => !(f = GlbF.maxFrozen || f = GlbF.faultLimit) || within 1 15
  | .prt =>
    if f = PrtF.hostMaxSpeed then within 1 5
    else if f = PrtF.peerReplayLimit then within 2 15
    else f != PrtF.peerReplayTimer || within 1 255
  | .hsl => if f = HslF.tenure then within 0 8192 else f != HslF.bisnpTimeoutMs || within 1 1000
  | .mch =>
    if f = MchF.maxRate then within 1 5
    else if f = MchF.edcRetryLimit then within 1 15
    else f != MchF.scrubHours || within 1 720
  | .rng => f != RngF.verbLedgerCap || within 16 128
  | .grp => f != GrpF.lossMs || v = 0 || within 100 600000
  | .mov =>
    if f = MovF.promoteHeat then within 1 7
    else if f = MovF.coolPeriod then within 4 3600
    else if f = MovF.shareGib then within 0 32
    else f != MovF.thinLimit || within 0 1280
  | .spl => f != SplF.spellTicks || (v % 1024 = 0 && within 1024 65536)
  | .age => f != AgeF.planHours || within 1 168
  | .pwr => f != PwrF.chargeLimit || within 5 27
  | .drz => f != DrzF.gapUs || within 10 60000
  | _ => true

/-- The share or the thin limit that a write would set is one that R246 refuses: use, with it, above 98.00 %, or more thin extents than
it allows (log entry 55). -/
def Mod.capacityBad (m : Mod) (off : Nat) (new : Fld → Nat) : Bool :=
  if off = 0x108 then !(m.set pgMov MovF.shareGib (new MovF.shareGib)).fits 0 9800
  else off = 0x110 && decide (new MovF.thinLimit * gib < m.thinSize)

/-- A write that is refused as a whole: MOV_CTL's levels, the share and thin limit (R267), the sum of the budgets (R381), a class of
lexicon work without an engine (R289). -/
def Mod.wholeBad (m : Mod) (p : PageId) (off : Nat) (new : Fld → Nat) : Bool :=
  match p.ty with
  | .mov =>
    if off = 0x100 then decide (new MovF.demoteOn ≤ new MovF.demoteOff) || decide (97 < new MovF.demoteOn) else m.capacityBad off new
  | .spl => off = 0x108 && decide (128 < new SplF.budgetScrub + new SplF.budgetMover + new SplF.budgetRebuild + new SplF.budgetRekey +
      new SplF.budgetVerb + new SplF.budgetParityIn)
  | .lex => off = 0x100 &&
      classLess ((upto 32).map fun e => if e = p.inst then new LexF.classMask else m.get (pgLex e) LexF.classMask)
  | _ => false

/-! ## Effects of a write -/

/-- A 1 is written to an RW1S bit: its action starts. -/
def Mod.trigger (m : Mod) (p : PageId) (f : Fld) : Mod :=
  match p.ty with
  | .glb => if f = GlbF.moduleReset then m.glbReset else if f = GlbF.resetArm then m.armReset else m
  | .prt =>
    if f = PrtF.hostDrain then m.drainStart p.inst .write
    else if f = PrtF.hostRetrain then m.hostRetrain p.inst
    else if f = PrtF.peerRetrain then m.forceRetrain p.inst
    else m
  | .lnq => m.lnqApply p.inst
  | .hsl => m.dirProbe p.inst
  | .mch => m.retire p.inst
  | .vlt => m.testSave
  | .age => (m.set pgAge AgeF.replan 1).startPlan
  | .pmu => m.takeSnap
  | .stw => if f = StwF.start then m.fetchStart else if f = StwF.abort then m.fetchAbort else m
  | _ => m

/-- RW1S bits in the order in which one write starts them: MODULE_RESET sees the arming before the write; DRAIN before RETRAIN; START
before ABORT. -/
def triggerOrder (fs : List Fld) : List Fld :=
  (fs.filter fun f => f = GlbF.moduleReset) ++ fs.filter fun f => f != GlbF.moduleReset

/-- What follows once the fields of a register hold what was written. -/
def Mod.written (m : Mod) (p : PageId) (off : Nat) : Mod :=
  match p.ty with
  | .hsl =>
    -- HSL_DIR_CTL is one register on every slice (R242)
    if off = 0x100 then (upto 64).foldl (fun (a : Mod) n =>
      (a.set (pgHsl n) HslF.tenure (m.get p HslF.tenure)).set (pgHsl n) HslF.bisnpTimeoutMs (m.get p HslF.bisnpTimeoutMs)) m
    else m
  | .lex => if off = 0x100 then m.lexRemask p.inst else m
  | .mov => if off = 0x100 || off = 0x108 then m.checkUse else m
  | .pwr => if off = 0x120 then (m.set pgPwr PwrF.iinPeak 0).set pgPwr PwrF.pinPeak 0 else m
  | _ => m

/-- A field takes the value written: LINK_DISABLE and PAUSE act at once (R187, R313). -/
def Mod.store (m : Mod) (p : PageId) (f : Fld) (v : Nat) : Mod :=
  if p.ty = .prt && f = PrtF.hostLinkDisable then
    (if m.is p f = (v != 0) then m else m.linkDisable p.inst (v != 0))
  else if p.ty = .frn && f = FrnF.pause then m.setPause p.inst (v != 0)
  else m.set p f v

/-- Fields of a register that a write of `n` bits at bit `lo` covers. -/
def covered (fs : List Fld) (lo n : Nat) : List Fld := fs.filter fun f => decide (f.lo < lo + n) && decide (lo < f.lo + f.width)

/-- RWL fields of a write to a locked page (R41): LOCK_VIOLATION where one would change. -/
def Mod.lockCheck (m : Mod) (p : PageId) (fs : List Fld) (cur new : Fld → Nat) : Mod :=
  if m.is p HdrF.lock && fs.any fun f => f.acc = .rwl && new f != cur f then m.raise p 1 0 else m

/-- The logical device that LD_SEL names is assigned (R187). -/
def Mod.writeLd (m : Mod) (p : PageId) (lo n val : Nat) : Mod :=
  let k := p.inst * 16 + m.get p PrtF.hostLdSel
  let ld := m.ldOf p.inst (m.get p PrtF.hostLdSel)
  let cur := fun f => if f = PrtF.hostHostCtx then ld.1 else b2n ld.2
  let new := fun f => writeBits f (cur f) lo n val
  let fs := covered [PrtF.hostHostCtx, PrtF.hostLdEn] lo n
  let m := m.lockCheck p fs cur new
  if m.is p HdrF.lock || fs = [] then m
  else { m with fab := { m.fab with lds := mapPut m.fab.lds k (new PrtF.hostHostCtx, new PrtF.hostLdEn != 0) } }

/-- A write of `n` bits at bit `lo` to a block-specific register of a page (R26, R28, R41). -/
def Mod.blockWrite (m : Mod) (p : PageId) (off lo n val : Nat) : Mod :=
  if p.ty = .prt && off = 0x118 then m.writeLd p lo n val
  else if p.ty = .pmu && off = 0x100 then
    (if lo = 0 then m.pmuGate (bits val 0 2) (bit val 2) else m)
  else
    let fs := covered (regFields p.ty off) lo n
    let cur := fun f => m.get p f
    let new := fun f => writeBits f (cur f) lo n val
    let locked := m.is p HdrF.lock
    let m := m.lockCheck p fs cur new
    let take := fs.filter fun f => f.acc = .rw || f.acc = .cnt || (f.acc = .rwl && !locked)
    let whole := m.wholeBad p off new && !take.isEmpty
    let good := take.filter fun f => !whole && (f.acc = .cnt || fieldOk p.ty f (new f))
    let m := if whole || good.length < take.length then m.refuse p else m
    let m := good.foldl (fun (a : Mod) f => if f.acc = .cnt then a.set p f 0 else a.store p f (new f)) m
    let m := if good.isEmpty then m else m.written p off
    (triggerOrder (fs.filter fun f => f.acc = .rw1s && bit val (f.lo - lo))).foldl (fun (a : Mod) f => a.trigger p f) m

/-! ## The header (R31 to R42) -/

/-- PAGE_CTL is written (R33): ENABLE and BLOCK_CTL, then the first of BLOCK_RESET, FREEZE and THAW. -/
def Mod.ctlWrite (m : Mod) (p : PageId) (lo n val : Nat) : Mod :=
  let m := m.set p HdrF.blockCtl (writeBits HdrF.blockCtl (m.get p HdrF.blockCtl) lo n val)
  if lo != 0 then m
  else
    let m := m.enableWrite p (bit val 0)
    if bit val 1 then m.blockReset p
    else if bit val 2 then m.freezeWrite p
    else if bit val 3 then m.thawWrite p
    else m

/-- An event selector is written (R42, R448): an event that the page's type does not define stores 0. -/
def Mod.selectorWrite (m : Mod) (p : PageId) (k lo n val : Nat) : Mod :=
  let w := fun (m : Mod) (f : Fld) => writeBits f (m.get p f) lo n val
  let e := w m (evtEvent k)
  let ok := eventDefined p.ty e
  let m := (m.set p (evtEvent k) (if ok then e else 0)).when (!ok) fun m => m.refuse p
  let m := (m.set p (evtEnable k) (w m (evtEnable k))).set p (evtUser k) (w m (evtUser k))
  if 63 < lo + n && bit val (63 - lo) then m.set p (evtOvf k) 0 else m

/-- A write to a register of a page's header. -/
def Mod.hdrWrite (m : Mod) (p : PageId) (off lo n val : Nat) : Mod :=
  let put := fun (m : Mod) (f : Fld) => m.set p f (writeBits f (m.get p f) lo n val)
  let mask := fun (m : Mod) (f : Fld) => m.set p f (m.get p f &&& errMaskOf p.ty)
  if off = 0x10 then m.ctlWrite p lo n val
  else m.headerWrite p fun m =>
    if off = 0x20 then m.errClear p (val <<< lo)
    else if off = 0x28 then mask (put m HdrF.errMask) HdrF.errMask
    else if off = 0x30 then mask (put m HdrF.errSev) HdrF.errSev
    else if off = 0x50 then put (put m HdrF.vector) HdrF.signalEn
    else if off = 0x58 then (if lo = 0 && bit val 0 && capLock p.ty then m.set p HdrF.lock 1 else m)
    else if 0x60 ≤ off && off < 0x80 then m.selectorWrite p ((off - 0x60) / 8) lo n val
    else if 0x80 ≤ off && off < 0xA0 then m.set p (evtCount ((off - 0x80) / 8)) (val % 2 ^ 48)
    else m

/-- A write of `n` bits at bit `lo` to a register of a page. -/
def Mod.regWrite (m : Mod) (p : PageId) (off lo n val : Nat) : Mod :=
  if off < 0x100 then m.hdrWrite p off lo n val else m.blockWrite p off lo n val

/-! ## BAR0 (R20, R23, R25 to R27) -/

/-- Bits [lo, lo + n) of a register value. -/
def part (v lo n : Nat) : Nat := bits v lo n

/-- A naturally aligned access of 4 B or 8 B. -/
def accAligned (a : Access) : Bool := (a.size = 4 || a.size = 8) && a.off % a.size = 0

/-- What every access of a block page, the floor table or the ring table shares (R25 to R27): another length or alignment is an Unsupported
Request; 4 B of a 64-only register read zero or are discarded, with ACCESS_SIZE on page `q`; a read is answered. -/
def State.regAccess (s : State) (a : Access) (q : PageId) (only64 : Bool) (read : Nat → Nat) (write : Nat → Nat → Nat → State) : State :=
  let lo := a.off % 8 * 8
  let n := a.size * 8
  if !accAligned a then { s with m := s.m.send (.unsupportedReq a.off) }
  else if only64 && a.size = 4 then
    let m := s.m.raise q 2 0
    { s with m := if a.val.isSome then m else m.send (.regData a.off a.size 0) }
  else match a.val with
    | none => { s with m := s.m.send (.regData a.off a.size (part (read (a.off / 8 * 8)) lo n)) }
    | some v => write lo n (v % 2 ^ n)

/-- A reserved range: reads zero, discards writes, sets no error (R23). -/
def State.reserved (s : State) (a : Access) : State :=
  if a.val.isSome then s else { s with m := s.m.send (.regData a.off a.size 0) }

/-- An access of a block page. RESTART clears a latch-off of the power entry stage (R425). -/
def State.pageAccess (s : State) (p : PageId) (a : Access) : State :=
  let off := a.off % 0x1000 / 8 * 8
  s.regAccess a p (is64Only p.ty off) (fun _ => s.readReg p off) fun lo n v =>
    let s := { s with m := s.m.regWrite p off lo n v }
    if p.ty = .pwr && off = 0x100 && lo = 0 && bit v 0 && s.pwr.bias then { s with pwr := s.pwr.clear } else s

/-- A write to a floor-table entry (R378, R379); a counter is cleared by any value. -/
def Mod.floorWrite (m : Mod) (k off lo n val : Nat) : Mod :=
  let w := fun f => writeBits f (m.floorFld k f) lo n val
  if off = 0x00 then m.setFloor k (w FloorEF.floor) (w FloorEF.gustMax) (m.floorFld k FloorEF.weight)
  else if off = 0x08 then m.setFloor k (m.floorFld k FloorEF.floor) (m.floorFld k FloorEF.gustMax) (w FloorEF.weight)
  else if off = 0x28 then m.setAt (floorAt k) FloorEF.bytesTotal 0
  else if off = 0x30 then m.setAt (floorAt k) FloorEF.reqsTotal 0
  else m

/-- An access of the floor table; entries of reserved masters read zero and discard writes (R379). -/
def State.floorAccess (s : State) (a : Access) : State :=
  let k := (a.off - 0x400000) / 64
  let off := a.off % 64 / 8 * 8
  if masterOk k then
    s.regAccess a pgSpl (inRanges FloorEF.only64 off) (fun _ => s.m.floorWord k off) fun lo n v => { s with m := s.m.floorWrite k off lo n v }
  else s.reserved a

/-- An access of the ring table (R340, R359). -/
def State.ringAccess (s : State) (a : Access) : State :=
  let k := (a.off - 0x800000) / 64
  let off := a.off % 64 / 8 * 8
  s.regAccess a pgRng (inRanges RingEF.only64 off) (fun _ => s.m.entryReg (ringAt k) off RingEF.all) fun lo n v =>
    { s with m := s.m.ringWrite k off lo n v }

/-- A field's bits within a value replaced. -/
def putBits (v lo w x : Nat) : Nat := v - (bits v lo w <<< lo) + ((x % 2 ^ w) <<< lo)

/-- Component registers of a logical device (R167): the standard lays them out but for what the model reads of them, the BI decoder's
enable (R221, log entry 56); the rest read as free values. -/
def State.componentAccess (s : State) (port ld off : Nat) (a : Access) : State :=
  let h := s.m.hp port
  match a.val with
  | none =>
    let f := Config.freeOf 521 [port, ld, off, s.m.free]
    let v := if off = 0 then putBits f 1 1 (b2n (h.bi.contains ld)) else f
    { s with m := ({ s.m with free := s.m.free + 1 }).send (.regData a.off a.size (v % 2 ^ (8 * a.size))) }
  | some v =>
    if off = 0 then
      let rest := h.bi.filter fun k => k != ld
      { s with m := s.m.setHp port { h with bi := if bit v 1 then rest ++ [ld] else rest } }
    else s

/-- The device registers (R200): the mailbox has rows of its own; a read's layout is the standard's, and its value free. -/
def State.deviceAccess (s : State) (a : Access) : State :=
  if a.val.isSome then s
  else { s with m := ({ s.m with free := s.m.free + 1 }).send (.regData a.off a.size (Config.freeOf 522 [a.off, s.m.free] % 2 ^ (8 * a.size))) }

/-- BAR0 (R20). -/
def State.bar0 (s : State) (a : Access) : State :=
  let o := a.off
  if o < 0x200000 then (match pageAt o with
    | some p => s.pageAccess p a
    | none => s.reserved a)
  else if o < 0x210000 then s.componentAccess (s.m.get pgStw StwF.stewardPort) 0 (o - 0x200000) a
  else if o < 0x220000 then s.deviceAccess a
  else if 0x400000 ≤ o && o < 0x440800 then s.floorAccess a
  else if 0x800000 ≤ o && o < 0x880000 then s.ringAccess a
  else if o < 0x4000000 then s.reserved a
  else s

/-! ## BAR2 and BAR4 (R21, R22, R195, R452) -/

/-- A doubleword of the MSI-X table. -/
def Mod.msixWord (m : Mod) (v k : Nat) : Nat :=
  let e := mapGetD m.stw.msix v { addr := 0, data := 0, masked := true }
  match k with
  | 0 => e.addr % 2 ^ 32
  | 1 => e.addr / 2 ^ 32
  | 2 => e.data
  | _ => b2n e.masked

/-- A doubleword of the MSI-X table is written: address bits [1:0] are zero; unmasking a vector releases its pending message (R196). -/
def Mod.msixPut (m : Mod) (v k x : Nat) : Mod :=
  let e := mapGetD m.stw.msix v { addr := 0, data := 0, masked := true }
  let put := fun (e : MsixEnt) => { m with stw := { m.stw with msix := mapPut m.stw.msix v e } }
  match k with
  | 0 => put { e with addr := e.addr / 2 ^ 32 * 2 ^ 32 + x / 4 * 4 }
  | 1 => put { e with addr := e.addr % 2 ^ 32 + x * 2 ^ 32 }
  | 2 => put { e with data := x }
  | _ => m.vectorMask v (bit x 0)

/-- The pending bits of 64 vectors. -/
def Mod.pbaWord (m : Mod) (j : Nat) : Nat := (upto 64).foldl (fun a i => a + (b2n (m.stw.pend.contains (64 * j + i))) <<< i) 0

/-- BAR2: the MSI-X table and the pending-bit array, in doublewords and quadwords; an access of another shape is not answered. -/
def State.bar2 (s : State) (a : Access) : State :=
  let m := s.m
  let ans := fun (v : Nat) => { s with m := m.send (.regData a.off a.size v) }
  if !accAligned a || 0x100000 ≤ a.off then s
  else if a.off < 0x8000 then
    let v := a.off / 16
    let k := a.off % 16 / 4
    match a.val with
    | none => ans (m.msixWord v k + (if a.size = 8 then m.msixWord v (k + 1) <<< 32 else 0))
    | some x =>
      let m := m.msixPut v k (x % 2 ^ 32)
      { s with m := if a.size = 8 then m.msixPut v (k + 1) (bits x 32 32) else m }
  else if 0x80000 ≤ a.off && a.off < 0x80100 then
    (if a.val.isSome then s else ans (part (m.pbaWord ((a.off - 0x80000) / 8)) (a.off % 8 * 8) (8 * a.size)))
  else s.reserved a

/-- The word that the user counter window shows for a counter (R22, R452): zero unless its USER and ENABLE are 1. -/
def Mod.userWord (m : Mod) (off : Nat) : Nat := match pageAt (off / 512 * 0x1000) with
  | some p =>
    let k := off % 512 / 8
    if k < 4 && m.is p (evtUser k) && m.is p (evtEnable k) then m.get p (evtCount k) + m.get p (evtOvf k) <<< 63 else 0
  | none => 0

/-- BAR4, read-only; 8 B reads show a counter, others zero (R22, R452). USER_READS counts reads of a non-zero word (R450). -/
def State.bar4 (s : State) (a : Access) : State :=
  if a.val.isSome || 0x40000 ≤ a.off then s
  else
    let v := if a.size = 8 && a.off % 8 = 0 then s.m.userWord a.off else 0
    let m := if v = 0 then s.m else s.m.count pgPmu 0x101 1
    { s with m := m.send (.regData a.off a.size v) }

/-! ## Configuration space (R193, R194) -/

/-- Writable bits of a BAR's low doubleword (R194). -/
def barMask (k : Nat) : Nat :=
  if k = 0 then 0xFC000000 else if k = 2 then 0xFFF00000 else if k = 4 then 0xFFFC0000 else 0xFFFFFFFF

/-- A BAR doubleword as read: 64-bit memory, not prefetchable. -/
def Mod.barWord (m : Mod) (k : Nat) : Nat := mapGetD m.stw.bars k 0 + (if k % 2 = 0 then 4 else 0)

/-- A doubleword of configuration space: what R193 and R194 state, at the places the standard gives it (log entry 57); else free. -/
def Mod.cfgWord (m : Mod) (off : Nat) : Nat :=
  let free := Config.freeOf 523 [off, m.free] % 2 ^ 32
  let vid := Config.vendorId.toNat
  if off = 0x00 then vid + 0x5348 <<< 16
  else if off = 0x04 then putBits free 2 1 (m.get pgStw StwF.bme)
  else if off = 0x08 then 0x050210B0
  else if off = 0x0C then putBits free 16 8 0
  else if 0x10 ≤ off && off < 0x28 then m.barWord ((off - 0x10) / 4)
  else if off = 0x2C then vid + 1 <<< 16
  else if off = 0x3C then putBits free 8 8 0
  else if off = 0x44 then putBits free 0 2 (if m.is pgStw StwF.d3hot then 3 else 0)
  else if off = 0xB0 then putBits (putBits (putBits free 16 11 2047) 30 1 (m.get pgStw StwF.funcMask)) 31 1 (m.get pgStw StwF.msixEn)
  else if off = 0xB4 then 2
  else if off = 0xB8 then 0x80002
  else if off = 0x14C then Config.serial.toNat % 2 ^ 32
  else if off = 0x150 then Config.serial.toNat / 2 ^ 32
  else free

/-- Bus-master enable takes a value (R207): clearing it ends a running fetch, setting it releases pending messages. -/
def Mod.bmeWrite (m : Mod) (on : Bool) : Mod :=
  if m.is pgStw StwF.bme = on then m
  else if on then (m.set pgStw StwF.bme 1).msixRelease else (m.set pgStw StwF.bme 0).fetchEnd 1

/-- A doubleword of configuration space is written, with the bytes a write covers replaced in `v`. -/
def Mod.cfgPut (m : Mod) (off v covers : Nat) : Mod :=
  if off = 0x04 then (if bit covers 0 then m.bmeWrite (bit v 2) else m)
  else if 0x10 ≤ off && off < 0x28 then
    let k := (off - 0x10) / 4
    { m with stw := { m.stw with bars := mapPut m.stw.bars k (v &&& barMask k) } }
  else if off = 0x44 then
    (if !bit covers 0 then m
     else if bits v 0 2 = 3 then (m.set pgStw StwF.d3hot 1).msixRelease
     else if bits v 0 2 = 0 then (m.set pgStw StwF.d3hot 0).msixRelease
     else m)
  else if off = 0x58 then (if bit covers 1 && bit v 15 then m.flr else m)
  else if off = 0xB0 then
    (if bit covers 3 then ((m.set pgStw StwF.msixEn (b2n (bit v 31))).set pgStw StwF.funcMask (b2n (bit v 30))).msixRelease else m)
  else m

/-- Configuration space: during an FLR every request is retried (R208). Accesses lie within one doubleword. -/
def State.configAccess (s : State) (a : Access) : State :=
  let m := s.m
  let off := a.off / 4 * 4
  let i := a.off % 4
  if m.stw.flr then { s with m := m.send .cfgRetry }
  else if 4 < i + a.size || a.size = 0 || 4096 ≤ a.off then s
  else
    let w := m.cfgWord off
    match a.val with
    | none => { s with m := ({ m with free := m.free + 1 }).send (.regData a.off a.size (bits w (8 * i) (8 * a.size))) }
    | some x => { s with m := m.cfgPut off (putBits w (8 * i) (8 * a.size) x) ((2 ^ a.size - 1) <<< i) }

/-! ## The command -/

/-- The steward function answers memory requests: its link is up, it is in D0, no FLR runs, and no save has ports stop granting credit
(R193, R208, R400). -/
def Mod.barOpen (m : Mod) : Bool := m.runs && m.stewardUp && !m.is pgStw StwF.d3hot && !m.stw.flr && !m.saving

/-- REGISTER_WRITE: an access of a register, which a read too is (`val` none): R20 to R29, R193, R194. One that does not reach the
steward function has no effect. -/
def execRegisterWrite (a : Access) (s : State) : Outcome State Fault Refusal :=
  match a.space with
  | .config => .next (if s.m.runs && s.m.stewardUp && !s.m.saving then s.configAccess a else s)
  | .component port ld =>
    .next (if s.m.runs && !s.m.saving && s.m.portUp port && !s.m.gfdMode port && decide (ld < 16) && (s.m.ldOf port ld).2 then
      s.componentAccess port ld a.off a else s)
  | .bar0 => .next (if s.m.barOpen then s.bar0 a else s)
  | .bar2 => .next (if s.m.barOpen then s.bar2 a else s)
  | .bar4 => .next (if s.m.barOpen then s.bar4 a else s)

end Sys2Proof.Machine
end

