-- ==== Sys2Proof/Machine/Dispatch.lean ====
section
/-!
DEFINITION. Machine/Dispatch.lean: one arm per command, each one direct call of its meaning.
-/
namespace Sys2Proof.Machine

open Host

/-- A command's effect on everything but the queue of waiting commands. -/
def exec (i : Instr) (s : State) : Host.Outcome State Fault Refusal :=
  match i with
  | .registerWrite a => Sys2Proof.Machine.execRegisterWrite a s
  | .pageEnableSet p => Sys2Proof.Machine.execPageEnableSet p s
  | .pageEnableClear p => Sys2Proof.Machine.execPageEnableClear p s
  | .blockDrained p => Sys2Proof.Machine.execBlockDrained p s
  | .blockReset p => Sys2Proof.Machine.execBlockReset p s
  | .pageFreeze p => Sys2Proof.Machine.execPageFreeze p s
  | .pageThaw p => Sys2Proof.Machine.execPageThaw p s
  | .pageLockSet p => Sys2Proof.Machine.execPageLockSet p s
  | .pageErrClear p ones => Sys2Proof.Machine.execPageErrClear p ones s
  | .counterWrap p n => Sys2Proof.Machine.execCounterWrap p n s
  | .memrd src hpa want sram => Sys2Proof.Machine.execMemrd src hpa want sram s
  | .memrddata src hpa => Sys2Proof.Machine.execMemrddata src hpa s
  | .memwr src hpa keep data poison => Sys2Proof.Machine.execMemwr src hpa keep data poison s
  | .memwrptl src hpa data be poison => Sys2Proof.Machine.execMemwrptl src hpa data be poison s
  | .memclnevct src hpa => Sys2Proof.Machine.execMemclnevct src hpa s
  | .birsp port id dpa shared => Sys2Proof.Machine.execBirsp port id dpa shared s
  | .biconflict port id dpa => Sys2Proof.Machine.execBiconflict port id dpa s
  | .ingressAdmit slice pick => Sys2Proof.Machine.execIngressAdmit slice pick s
  | .lineTransactionStart dpa => Sys2Proof.Machine.execLineTransactionStart dpa s
  | .tenureEnd dpa => Sys2Proof.Machine.execTenureEnd dpa s
  | .bisnpTimeout dpa ctx => Sys2Proof.Machine.execBisnpTimeout dpa ctx s
  | .dirSetRecoveryDone slice => Sys2Proof.Machine.execDirSetRecoveryDone slice s
  | .drizzleRegionEnd found sram => Sys2Proof.Machine.execDrizzleRegionEnd found sram s
  | .lifecycleSet via target force tokenOk => Sys2Proof.Machine.execLifecycleSet via target force tokenOk s
  | .lifecycleGet via => Sys2Proof.Machine.execLifecycleGet via s
  | .jwSet via e => Sys2Proof.Machine.execJwSet via e s
  | .jwDelete via w => Sys2Proof.Machine.execJwDelete via w s
  | .jwDeleteDone w => Sys2Proof.Machine.execJwDeleteDone w s
  | .jwGet via w => Sys2Proof.Machine.execJwGet via w s
  | .jwStatus via w => Sys2Proof.Machine.execJwStatus via w s
  | .epochDrained w => Sys2Proof.Machine.execEpochDrained w s
  | .fullStopApply w => Sys2Proof.Machine.execFullStopApply w s
  | .gpfPhase1 port => Sys2Proof.Machine.execGpfPhase1 port s
  | .gpfPhase2 port => Sys2Proof.Machine.execGpfPhase2 port s
  | .mapPropose frm tag term base map => Sys2Proof.Machine.execMapPropose frm tag term base map s
  | .mapAccept frm tag st => Sys2Proof.Machine.execMapAccept frm tag st s
  | .mapCommit frm tag gen => Sys2Proof.Machine.execMapCommit frm tag gen s
  | .mapFetch frm tag => Sys2Proof.Machine.execMapFetch frm tag s
  | .mapFetchRsp frm tag map => Sys2Proof.Machine.execMapFetchRsp frm tag map s
  | .mapClaim frm tag term => Sys2Proof.Machine.execMapClaim frm tag term s
  | .mapClaimRsp frm tag acc => Sys2Proof.Machine.execMapClaimRsp frm tag acc s
  | .stageQuery frm tag x => Sys2Proof.Machine.execStageQuery frm tag x s
  | .stageQueryRsp frm tag seg count keys => Sys2Proof.Machine.execStageQueryRsp frm tag seg count keys s
  | .memberReport frm tag x reason => Sys2Proof.Machine.execMemberReport frm tag x reason s
  | .peerLossTimeout x => Sys2Proof.Machine.execPeerLossTimeout x s
  | .bounce frm bseq gen => Sys2Proof.Machine.execBounce frm bseq gen s
  | .bounceResendTimer frm bseq => Sys2Proof.Machine.execBounceResendTimer frm bseq s
  | .deltaData frm dseq line standin data => Sys2Proof.Machine.execDeltaData frm dseq line standin data s
  | .deltaStage frm dseq line standin data => Sys2Proof.Machine.execDeltaStage frm dseq line standin data s
  | .deltaCommit frm dseq line standin => Sys2Proof.Machine.execDeltaCommit frm dseq line standin s
  | .ackTimer x => Sys2Proof.Machine.execAckTimer x s
  | .stripeHold frm tag stripe line => Sys2Proof.Machine.execStripeHold frm tag stripe line s
  | .stripeHoldRsp frm tag st data => Sys2Proof.Machine.execStripeHoldRsp frm tag st data s
  | .unitData frm tag data => Sys2Proof.Machine.execUnitData frm tag data s
  | .holdRelease frm tag stripe line => Sys2Proof.Machine.execHoldRelease frm tag stripe line s
  | .lineRead frm tag unit line => Sys2Proof.Machine.execLineRead frm tag unit line s
  | .lineReadRsp frm tag st data => Sys2Proof.Machine.execLineReadRsp frm tag st data s
  | .windowMirror frm tag e st owner => Sys2Proof.Machine.execWindowMirror frm tag e st owner s
  | .windowMirrorRsp frm tag st => Sys2Proof.Machine.execWindowMirrorRsp frm tag st s
  | .rebuildStep frm tag kind q => Sys2Proof.Machine.execRebuildStep frm tag kind q s
  | .rebuildStepRsp frm tag st => Sys2Proof.Machine.execRebuildStepRsp frm tag st s
  | .restripeStep frm tag b => Sys2Proof.Machine.execRestripeStep frm tag b s
  | .restripeStepRsp frm tag st => Sys2Proof.Machine.execRestripeStepRsp frm tag st s
  | .grpForm via map own => Sys2Proof.Machine.execGrpForm via map own s
  | .grpMapGet via => Sys2Proof.Machine.execGrpMapGet via s
  | .grpMarkLost via x => Sys2Proof.Machine.execGrpMarkLost via x s
  | .grpStandinSet via lost by_ => Sys2Proof.Machine.execGrpStandinSet via lost by_ s
  | .grpStandinClear via lost => Sys2Proof.Machine.execGrpStandinClear via lost s
  | .grpReplace via x id => Sys2Proof.Machine.execGrpReplace via x id s
  | .grpRestripe via k m => Sys2Proof.Machine.execGrpRestripe via k m s
  | .grpKeeperSet via => Sys2Proof.Machine.execGrpKeeperSet via s
  | .grpDissolve via gid => Sys2Proof.Machine.execGrpDissolve via gid s
  | .dataFrameSend port => Sys2Proof.Machine.execDataFrameSend port s
  | .dataFrameReceive port raw => Sys2Proof.Machine.execDataFrameReceive port raw s
  | .ctlFrameReceive port raw => Sys2Proof.Machine.execCtlFrameReceive port raw s
  | .idleFrameReceive port raw => Sys2Proof.Machine.execIdleFrameReceive port raw s
  | .retrainMark port raw => Sys2Proof.Machine.execRetrainMark port raw s
  | .replayTimer port => Sys2Proof.Machine.execReplayTimer port s
  | .retrainDone port ok => Sys2Proof.Machine.execRetrainDone port ok s
  | .portRetrainForce port => Sys2Proof.Machine.execPortRetrainForce port s
  | .berfelTrainSchedule port => Sys2Proof.Machine.execBerfelTrainSchedule port s
  | .peerTrainingSeen port => Sys2Proof.Machine.execPeerTrainingSeen port s
  | .berfelTrainDone port ok => Sys2Proof.Machine.execBerfelTrainDone port ok s
  | .hello port h => Sys2Proof.Machine.execHello port h s
  | .helloTimeout port => Sys2Proof.Machine.execHelloTimeout port s
  | .ctlStatus port limits applied => Sys2Proof.Machine.execCtlStatus port limits applied s
  | .statusTimer port => Sys2Proof.Machine.execStatusTimer port s
  | .macTag port tag => Sys2Proof.Machine.execMacTag port tag s
  | .gcmRunTimer port => Sys2Proof.Machine.execGcmRunTimer port s
  | .bfKeySet via port dir gen salt key => Sys2Proof.Machine.execBfKeySet via port dir gen salt key s
  | .bfKeySwitch via port => Sys2Proof.Machine.execBfKeySwitch via port s
  | .lnqApply quad => Sys2Proof.Machine.execLnqApply quad s
  | .lnqRoleChangeDone quad => Sys2Proof.Machine.execLnqRoleChangeDone quad s
  | .hostLinkUp port speed width f256 latOpt => Sys2Proof.Machine.execHostLinkUp port speed width f256 latOpt s
  | .hostLinkLoss port => Sys2Proof.Machine.execHostLinkLoss port s
  | .hostRetrain port => Sys2Proof.Machine.execHostRetrain port s
  | .drain port => Sys2Proof.Machine.execDrain port s
  | .drainComplete port => Sys2Proof.Machine.execDrainComplete port s
  | .drainTimeout port => Sys2Proof.Machine.execDrainTimeout port s
  | .linkDisable port on => Sys2Proof.Machine.execLinkDisable port on s
  | .portReset port => Sys2Proof.Machine.execPortReset port s
  | .setDcRegionConfig via region base len => Sys2Proof.Machine.execSetDcRegionConfig via region base len s
  | .initiateDcAdd via ext region size base hosts => Sys2Proof.Machine.execInitiateDcAdd via ext region size base hosts s
  | .addDcResponse port ld ext accept => Sys2Proof.Machine.execAddDcResponse port ld ext accept s
  | .initiateDcRelease via ext hosts forced => Sys2Proof.Machine.execInitiateDcRelease via ext hosts forced s
  | .releaseDc who ext => Sys2Proof.Machine.execReleaseDc who ext s
  | .epochTakenAllSlices ext => Sys2Proof.Machine.execEpochTakenAllSlices ext s
  | .getDcdInfo via => Sys2Proof.Machine.execGetDcdInfo via s
  | .getHostDcRegionConfig via => Sys2Proof.Machine.execGetHostDcRegionConfig via s
  | .getDcRegionExtentLists via => Sys2Proof.Machine.execGetDcRegionExtentLists via s
  | .getDcExtentList port ld => Sys2Proof.Machine.execGetDcExtentList port ld s
  | .fmIdentify via => Sys2Proof.Machine.execFmIdentify via s
  | .backgroundOperationStatus via => Sys2Proof.Machine.execBackgroundOperationStatus via s
  | .getResponseMessageLimit via => Sys2Proof.Machine.execGetResponseMessageLimit via s
  | .setResponseMessageLimit via limit => Sys2Proof.Machine.execSetResponseMessageLimit via limit s
  | .eventNotification via => Sys2Proof.Machine.execEventNotification via s
  | .getEventRecords via log => Sys2Proof.Machine.execGetEventRecords via log s
  | .clearEventRecords via log all handles => Sys2Proof.Machine.execClearEventRecords via log all handles s
  | .setEventRecords via log args => Sys2Proof.Machine.execSetEventRecords via log args s
  | .getLdInfo via => Sys2Proof.Machine.execGetLdInfo via s
  | .getLdAllocations via => Sys2Proof.Machine.execGetLdAllocations via s
  | .setLdAllocations via start vals => Sys2Proof.Machine.execSetLdAllocations via start vals s
  | .tunnelManagementCommand via port ld c => Sys2Proof.Machine.execTunnelManagementCommand via port ld c s
  | .unsupportedCommand via => Sys2Proof.Machine.execUnsupportedCommand via s
  | .regionAttrSet via region durable hdmDb thin domain => Sys2Proof.Machine.execRegionAttrSet via region durable hdmDb thin domain s
  | .regionAttrGet via region => Sys2Proof.Machine.execRegionAttrGet via region s
  | .hostCtxSet via ctx en => Sys2Proof.Machine.execHostCtxSet via ctx en s
  | .hostCtxReset via ctx => Sys2Proof.Machine.execHostCtxReset via ctx s
  | .hostDecSet via ctx dec base size ways gran pos dpa => Sys2Proof.Machine.execHostDecSet via ctx dec base size ways gran pos dpa s
  | .aliasSet via ctx win base span dpa consumers => Sys2Proof.Machine.execAliasSet via ctx win base span dpa consumers s
  | .extInfo via ext => Sys2Proof.Machine.execExtInfo via ext s
  | .extMove via ext hosts => Sys2Proof.Machine.execExtMove via ext hosts s
  | .extAdopt via lost region base size stripe => Sys2Proof.Machine.execExtAdopt via lost region base size stripe s
  | .stwDesignate via port => Sys2Proof.Machine.execStwDesignate via port s
  | .msixEnableChange enable mask => Sys2Proof.Machine.execMsixEnableChange enable mask s
  | .msixVectorUnmask v => Sys2Proof.Machine.execMsixVectorUnmask v s
  | .powerStateChange d3hot => Sys2Proof.Machine.execPowerStateChange d3hot s
  | .fwReadCompletion tag ok len => Sys2Proof.Machine.execFwReadCompletion tag ok len s
  | .fwCplTimeout tag => Sys2Proof.Machine.execFwCplTimeout tag s
  | .fwFetchDone good version => Sys2Proof.Machine.execFwFetchDone good version s
  | .identifyMemoryDevice via => Sys2Proof.Machine.execIdentifyMemoryDevice via s
  | .getSupportedLogs via => Sys2Proof.Machine.execGetSupportedLogs via s
  | .getLog via debug off len => Sys2Proof.Machine.execGetLog via debug off len s
  | .getTimestamp via => Sys2Proof.Machine.execGetTimestamp via s
  | .setTimestamp via t => Sys2Proof.Machine.execSetTimestamp via t s
  | .getEventInterruptPolicy via => Sys2Proof.Machine.execGetEventInterruptPolicy via s
  | .setEventInterruptPolicy via policy => Sys2Proof.Machine.execSetEventInterruptPolicy via policy s
  | .getPoisonList via base len => Sys2Proof.Machine.execGetPoisonList via base len s
  | .injectPoison via dpa => Sys2Proof.Machine.execInjectPoison via dpa s
  | .clearPoison via dpa data => Sys2Proof.Machine.execClearPoison via dpa data s
  | .getFwInfo via => Sys2Proof.Machine.execGetFwInfo via s
  | .transferFw via action slot off len good version => Sys2Proof.Machine.execTransferFw via action slot off len good version s
  | .activateFw via online slot => Sys2Proof.Machine.execActivateFw via online slot s
  | .watchSet via ctx valid dpa => Sys2Proof.Machine.execWatchSet via ctx valid dpa s
  | .watchGet via ctx => Sys2Proof.Machine.execWatchGet via ctx s
  | .dirProbe slice => Sys2Proof.Machine.execDirProbe slice s
  | .pageMoveCommit page => Sys2Proof.Machine.execPageMoveCommit page s
  | .pagePut frm slot data => Sys2Proof.Machine.execPagePut frm slot data s
  | .pageRead frm tag slot => Sys2Proof.Machine.execPageRead frm tag slot s
  | .pageData frm tag slot data => Sys2Proof.Machine.execPageData frm tag slot data s
  | .pageReadRefused frm tag => Sys2Proof.Machine.execPageReadRefused frm tag s
  | .pageFree frm tag slot => Sys2Proof.Machine.execPageFree frm tag slot s
  | .lostClear via base len => Sys2Proof.Machine.execLostClear via base len s
  | .pageInfo via dpa => Sys2Proof.Machine.execPageInfo via dpa s
  | .lexWrite via lex off data => Sys2Proof.Machine.execLexWrite via lex off data s
  | .lexCommit via lex len crc => Sys2Proof.Machine.execLexCommit via lex len crc s
  | .lexDelete via lex => Sys2Proof.Machine.execLexDelete via lex s
  | .lexInfo via lex => Sys2Proof.Machine.execLexInfo via lex s
  | .lexDomainSet via slot lex => Sys2Proof.Machine.execLexDomainSet via slot lex s
  | .lexBlockStart engine => Sys2Proof.Machine.execLexBlockStart engine s
  | .lexBlockDone engine => Sys2Proof.Machine.execLexBlockDone engine s
  | .keyDomainCreate via slot mode src => Sys2Proof.Machine.execKeyDomainCreate via slot mode src s
  | .keyDomainDestroy via slot => Sys2Proof.Machine.execKeyDomainDestroy via slot s
  | .keyDomainMode via slot mode => Sys2Proof.Machine.execKeyDomainMode via slot mode s
  | .keyFrontStart via slot src => Sys2Proof.Machine.execKeyFrontStart via slot src s
  | .keyFrontStatus via slot => Sys2Proof.Machine.execKeyFrontStatus via slot s
  | .keyFrontPause via slot pause => Sys2Proof.Machine.execKeyFrontPause via slot pause s
  | .frnPause engine pause => Sys2Proof.Machine.execFrnPause engine pause s
  | .frontStep engine => Sys2Proof.Machine.execFrontStep engine s
  | .lineWriteback l => Sys2Proof.Machine.execLineWriteback l s
  | .mchReadReturn ch l raw edcFails act req => Sys2Proof.Machine.execMchReadReturn ch l raw edcFails act req s
  | .refreshDue ch => Sys2Proof.Machine.execRefreshDue ch s
  | .tempPoll pair ta tb => Sys2Proof.Machine.execTempPoll pair ta tb s
  | .lullDue ch => Sys2Proof.Machine.execLullDue ch s
  | .lullDone ch ok eyeRd eyeWr => Sys2Proof.Machine.execLullDone ch ok eyeRd eyeWr s
  | .scrubRow ch header found => Sys2Proof.Machine.execScrubRow ch header found s
  | .thawTrainDone ch ok => Sys2Proof.Machine.execThawTrainDone ch ok s
  | .settleStep ch => Sys2Proof.Machine.execSettleStep ch s
  | .mchRetire ch => Sys2Proof.Machine.execMchRetire ch s
  | .evacuateStep ch bad => Sys2Proof.Machine.execEvacuateStep ch bad s
  | .ringSet via ring vals => Sys2Proof.Machine.execRingSet via ring vals s
  | .ringGet via ring => Sys2Proof.Machine.execRingGet via ring s
  | .ringEnable ring => Sys2Proof.Machine.execRingEnable ring s
  | .ringDisable ring => Sys2Proof.Machine.execRingDisable ring s
  | .ringReset ring => Sys2Proof.Machine.execRingReset ring s
  | .ringDrained ring => Sys2Proof.Machine.execRingDrained ring s
  | .doorbell ring => Sys2Proof.Machine.execDoorbell ring s
  | .sqEntryRead ring => Sys2Proof.Machine.execSqEntryRead ring s
  | .verbNop ring idx => Sys2Proof.Machine.execVerbNop ring idx s
  | .verbCopy ring idx => Sys2Proof.Machine.execVerbCopy ring idx s
  | .verbFill ring idx => Sys2Proof.Machine.execVerbFill ring idx s
  | .verbChecksum ring idx => Sys2Proof.Machine.execVerbChecksum ring idx s
  | .verbCompare ring idx => Sys2Proof.Machine.execVerbCompare ring idx s
  | .verbEcEncode ring idx => Sys2Proof.Machine.execVerbEcEncode ring idx s
  | .verbEcReconstruct ring idx => Sys2Proof.Machine.execVerbEcReconstruct ring idx s
  | .verbCompress ring idx => Sys2Proof.Machine.execVerbCompress ring idx s
  | .verbDecompress ring idx => Sys2Proof.Machine.execVerbDecompress ring idx s
  | .verbFullStop ring idx => Sys2Proof.Machine.execVerbFullStop ring idx s
  | .verbComplete ring idx => Sys2Proof.Machine.execVerbComplete ring idx s
  | .coalesceTimer ring => Sys2Proof.Machine.execCoalesceTimer ring s
  | .floorSet via master floor gust weight => Sys2Proof.Machine.execFloorSet via master floor gust weight s
  | .floorGet via master => Sys2Proof.Machine.execFloorGet via master s
  | .planDone r => Sys2Proof.Machine.execPlanDone r s
  | .trackingTick delay temp => Sys2Proof.Machine.execTrackingTick delay temp s
  | .energyPoll vBank r => Sys2Proof.Machine.execEnergyPoll vBank r s
  | .savePrepared deadDie => Sys2Proof.Machine.execSavePrepared deadDie s
  | .vaultEnergyPoll vBank parityLeft volLeft durableLeft => Sys2Proof.Machine.execVaultEnergyPoll vBank parityLeft volLeft durableLeft s
  | .saveSeal verified vBank => Sys2Proof.Machine.execSaveSeal verified vBank s
  | .restoreDone tagOk => Sys2Proof.Machine.execRestoreDone tagOk s
  | .prsntNAssert dly => Sys2Proof.Machine.execPrsntNAssert dly s
  | .insertionDelayExpire voutHigh vin iin => Sys2Proof.Machine.execInsertionDelayExpire voutHigh vin iin s
  | .faultTimerExpire vout vin iin => Sys2Proof.Machine.execFaultTimerExpire vout vin iin s
  | .overcurrentStart iin => Sys2Proof.Machine.execOvercurrentStart iin s
  | .overcurrentEnd iin => Sys2Proof.Machine.execOvercurrentEnd iin s
  | .fastTrip vin iin => Sys2Proof.Machine.execFastTrip vin iin s
  | .fetOvertemp vin iin => Sys2Proof.Machine.execFetOvertemp vin iin s
  | .restart sideband => Sys2Proof.Machine.execRestart sideband s
  | .fetShort vin iin => Sys2Proof.Machine.execFetShort vin iin s
  | .fetDegraded vin iin => Sys2Proof.Machine.execFetDegraded vin iin s
  | .inputLoss cause => Sys2Proof.Machine.execInputLoss cause s
  | .pmuGateMode mode freezeOnOvf => Sys2Proof.Machine.execPmuGateMode mode freezeOnOvf s
  | .dieWake lidOpen clk0 => Sys2Proof.Machine.execDieWake lidOpen clk0 s
  | .startPlanDone delays dNow => Sys2Proof.Machine.execStartPlanDone delays dNow s
  | .dramTrainDone rates failed => Sys2Proof.Machine.execDramTrainDone rates failed s
  | .moduleReset via reason => Sys2Proof.Machine.execModuleReset via reason s
  | .refclkStop pair => Sys2Proof.Machine.execRefclkStop pair s
  | .refclkReturn pair => Sys2Proof.Machine.execRefclkReturn pair s
  | .thermWarn hot => Sys2Proof.Machine.execThermWarn hot s
  | .thermalTrip sensor => Sys2Proof.Machine.execThermalTrip sensor s
  | .ideKm port mem good => Sys2Proof.Machine.execIdeKm port mem good s
  | .hdmDecoderCommit port ld dec base size ways gran skip => Sys2Proof.Machine.execHdmDecoderCommit port ld dec base size ways gran skip s
  | .drizzleRegionStart => Sys2Proof.Machine.execDrizzleRegionStart s
  | .lidOpen => Sys2Proof.Machine.execLidOpen s
  | .stageQueryTimeout => Sys2Proof.Machine.execStageQueryTimeout s
  | .quorumTimeout => Sys2Proof.Machine.execQuorumTimeout s
  | .rebuildBlockHeld => Sys2Proof.Machine.execRebuildBlockHeld s
  | .resyncBlockHeld => Sys2Proof.Machine.execResyncBlockHeld s
  | .standinClearDrained => Sys2Proof.Machine.execStandinClearDrained s
  | .grpFormTimeout => Sys2Proof.Machine.execGrpFormTimeout s
  | .grpDissolveTimeout => Sys2Proof.Machine.execGrpDissolveTimeout s
  | .perstN => Sys2Proof.Machine.execPerstN s
  | .bmeClear => Sys2Proof.Machine.execBmeClear s
  | .bmeSet => Sys2Proof.Machine.execBmeSet s
  | .flr => Sys2Proof.Machine.execFlr s
  | .flrDone => Sys2Proof.Machine.execFlrDone s
  | .fwFetchStart => Sys2Proof.Machine.execFwFetchStart s
  | .fwFetchAbort => Sys2Proof.Machine.execFwFetchAbort s
  | .coolingWalkStep => Sys2Proof.Machine.execCoolingWalkStep s
  | .lostClearDone => Sys2Proof.Machine.execLostClearDone s
  | .frontDeferredStart => Sys2Proof.Machine.execFrontDeferredStart s
  | .nodeRecoveryStep => Sys2Proof.Machine.execNodeRecoveryStep s
  | .spellBoundary => Sys2Proof.Machine.execSpellBoundary s
  | .replan => Sys2Proof.Machine.execReplan s
  | .planTimer => Sys2Proof.Machine.execPlanTimer s
  | .testSave => Sys2Proof.Machine.execTestSave s
  | .vaultEraseDone => Sys2Proof.Machine.execVaultEraseDone s
  | .rampComplete => Sys2Proof.Machine.execRampComplete s
  | .pgQualifyExpire => Sys2Proof.Machine.execPgQualifyExpire s
  | .coolDownExpire => Sys2Proof.Machine.execCoolDownExpire s
  | .vinValid => Sys2Proof.Machine.execVinValid s
  | .prsntNDeassert => Sys2Proof.Machine.execPrsntNDeassert s
  | .pwrEnLow => Sys2Proof.Machine.execPwrEnLow s
  | .pwrEnHigh => Sys2Proof.Machine.execPwrEnHigh s
  | .pfwNFall => Sys2Proof.Machine.execPfwNFall s
  | .postSaveReinsert => Sys2Proof.Machine.execPostSaveReinsert s
  | .gateStartTick => Sys2Proof.Machine.execGateStartTick s
  | .gateStopTick => Sys2Proof.Machine.execGateStopTick s
  | .snap => Sys2Proof.Machine.execSnap s
  | .fwAuthDone => Sys2Proof.Machine.execFwAuthDone s
  | .startupDone => Sys2Proof.Machine.execStartupDone s
  | .resetArm => Sys2Proof.Machine.execResetArm s
  | .resetArmExpire => Sys2Proof.Machine.execResetArmExpire s
  | .glbModuleReset => Sys2Proof.Machine.execGlbModuleReset s
  | .watchdogExpire => Sys2Proof.Machine.execWatchdogExpire s
  | .thermalTripCooloff => Sys2Proof.Machine.execThermalTripCooloff s
  | .leakDetect => Sys2Proof.Machine.execLeakDetect s
  | .bankConverterShutdown => Sys2Proof.Machine.execBankConverterShutdown s
  | .controllerBiasLoss => Sys2Proof.Machine.execControllerBiasLoss s

end Sys2Proof.Machine
end

