-- ==== Sys2Proof/Laws/Store.lean ====
section
/-!
SUPPORT. Laws/Store.lean: the laws of the stores: a read after a write, a write beside a read, and that every operation
on memory keeps its canonical form.
-/
namespace Sys2Proof.Machine

variable {α : Type}

/-! ## Maps -/

@[simp] theorem mapGet_nil (n : Nat) : mapGet ([] : Map α) n = none := rfl

/-- A key reads as what was put there. -/
@[simp] theorem mapGet_mapPut_same (m : Map α) (n : Nat) (v : α) : mapGet (mapPut m n v) n = some v := by
  induction m with
  | nil => simp [mapPut, mapGet]
  | cons e t ih =>
    obtain ⟨k, w⟩ := e
    unfold mapPut
    split
    · simp [mapGet]
    · split
      · simp [mapGet]
      · rename_i h1 h2; simp [mapGet, h1, h2, ih]

/-- A put leaves every other key alone. -/
theorem mapGet_mapPut_other (m : Map α) (n k : Nat) (v : α) (h : k ≠ n) : mapGet (mapPut m n v) k = mapGet m k := by
  induction m with
  | nil => simp [mapPut, mapGet, Ne.symm h]
  | cons e t ih =>
    obtain ⟨j, w⟩ := e
    unfold mapPut
    split
    · rename_i h1; subst h1; simp [mapGet, Ne.symm h]
    · split
      · rename_i h1 h2
        simp only [mapGet, Ne.symm h, if_false]
        split
        · rename_i h3; split
          · omega
          · split
            · rfl
            · omega
        · rfl
      · simp only [mapGet, ih]

/-- A read with a default, at the key put. -/
@[simp] theorem mapGetD_mapPut_same (m : Map α) (n : Nat) (v d : α) : mapGetD (mapPut m n v) n d = v := by
  simp [mapGetD]

/-- A read with a default, at another key. -/
theorem mapGetD_mapPut_other (m : Map α) (n k : Nat) (v d : α) (h : k ≠ n) :
    mapGetD (mapPut m n v) k d = mapGetD m k d := by simp [mapGetD, mapGet_mapPut_other m n k v h]

/-! ## Memory -/

/-- Nothing at or above a bound is held below it. -/
theorem Memory.wfFrom_mono {a b : Nat} (h : a ≤ b) : ∀ m : Memory, Memory.wfFrom b m = true → Memory.wfFrom a m = true
  | [], _ => rfl
  | (k, c) :: t, hw => by
    simp only [Memory.wfFrom, Bool.and_eq_true, decide_eq_true_eq] at hw ⊢
    exact ⟨⟨Nat.le_trans h hw.1.1, hw.1.2⟩, hw.2⟩

/-- Writing a byte at or above the bound keeps the canonical form. -/
theorem Memory.wfFrom_put (b : Byte) (a : Nat) :
    ∀ (m : Memory) (lo : Nat), lo ≤ a → Memory.wfFrom lo m = true → Memory.wfFrom lo (Memory.put m a b) = true
  | [], lo, hl, _ => by
    unfold Memory.put; split
    · rfl
    · simp [Memory.wfFrom, *]
  | (k, c) :: t, lo, hl, hw => by
    simp only [Memory.wfFrom, Bool.and_eq_true, decide_eq_true_eq] at hw
    unfold Memory.put
    split
    · rename_i h1; subst h1
      split
      · exact Memory.wfFrom_mono (by omega) t hw.2
      · simp [Memory.wfFrom, hw.2, *]
    · split
      · rename_i h1 h2
        split
        · simp [Memory.wfFrom, hw.1.1, hw.1.2, hw.2]
        · simp only [Memory.wfFrom, Bool.and_eq_true, decide_eq_true_eq]
          exact ⟨⟨hl, by assumption⟩, ⟨by omega, hw.1.2⟩, hw.2⟩
      · rename_i h1 h2
        simp only [Memory.wfFrom, Bool.and_eq_true, decide_eq_true_eq]
        exact ⟨⟨hw.1.1, hw.1.2⟩, Memory.wfFrom_put b a t (k + 1) (by omega) hw.2⟩

/-- Writing a byte keeps the canonical form. -/
theorem Memory.wf_put (m : Memory) (a : Nat) (b : Byte) (h : m.wf = true) : (m.put a b).wf = true :=
  Memory.wfFrom_put b a m 0 (Nat.zero_le a) h

/-- Writing bytes keeps the canonical form. -/
theorem Memory.wf_putBytes (bs : List Byte) : ∀ (m : Memory) (a : Nat), m.wf = true → (m.putBytes a bs).wf = true := by
  induction bs with
  | nil => intro m a h; exact h
  | cons b t ih => intro m a h; exact ih _ _ (Memory.wf_put m a b h)

/-- Leaving cells out keeps the canonical form. -/
theorem Memory.wfFrom_filter (p : Host.Cell → Bool) : ∀ (m : Memory) (lo : Nat),
    Memory.wfFrom lo m = true → Memory.wfFrom lo (m.filter p) = true
  | [], _, _ => rfl
  | (k, c) :: t, lo, hw => by
    simp only [Memory.wfFrom, Bool.and_eq_true, decide_eq_true_eq] at hw
    rw [List.filter_cons]
    split
    · simp only [Memory.wfFrom, Bool.and_eq_true, decide_eq_true_eq]
      exact ⟨hw.1, Memory.wfFrom_filter p t (k + 1) hw.2⟩
    · exact Memory.wfFrom_mono (by omega) _ (Memory.wfFrom_filter p t (k + 1) hw.2)

/-- Clearing a range keeps the canonical form. -/
theorem Memory.wf_clear (m : Memory) (a n : Nat) (h : m.wf = true) : (m.clear a n).wf = true :=
  Memory.wfFrom_filter _ m 0 h

/-- The memory after reset is canonical. -/
theorem reset_mem_wf : State.reset.m.mem.wf = true := rfl

/-- An address reads as the byte written there. -/
@[simp] theorem Memory.byte_put_same (m : Memory) (a : Nat) (b : Byte) (h : m.wf = true) : (m.put a b).byte a = b := by
  have key : ∀ (m : Memory) (lo : Nat), Memory.wfFrom lo m = true → (m.put a b).byte a = b := by
    intro m
    induction m with
    | nil => intro lo _; unfold Memory.put; split <;> simp_all [Memory.byte, unlisted]
    | cons e t ih =>
      intro lo hw
      obtain ⟨k, c⟩ := e
      simp only [Memory.wfFrom, Bool.and_eq_true, decide_eq_true_eq] at hw
      unfold Memory.put
      split
      · rename_i h1; subst h1
        split
        · rename_i h2
          cases t with
          | nil => simp [Memory.byte, h2]
          | cons e' t' =>
            obtain ⟨k', c'⟩ := e'
            have := hw.2
            simp only [Memory.wfFrom, Bool.and_eq_true, decide_eq_true_eq] at this
            simp only [Memory.byte]
            rw [if_neg (by omega), if_pos (by omega), h2]
        · simp [Memory.byte]
      · split
        · split
          · rename_i h1 h2 h3; simp [Memory.byte, h1, h2, h3]
          · simp [Memory.byte]
        · rename_i h1 h2
          simp only [Memory.byte, h1, h2, if_false]
          exact ih _ hw.2
  exact key m 0 h

/-- Writing a byte leaves every other address alone. -/
theorem Memory.byte_put_other (m : Memory) (a c : Nat) (b : Byte) (hc : c ≠ a) (h : m.wf = true) :
    (m.put a b).byte c = m.byte c := by
  have key : ∀ (m : Memory) (lo : Nat), Memory.wfFrom lo m = true → (m.put a b).byte c = m.byte c := by
    intro m
    induction m with
    | nil =>
      intro lo _; unfold Memory.put; split
      · rfl
      · simp [Memory.byte, Ne.symm hc]
    | cons e t ih =>
      intro lo hw
      obtain ⟨k, d⟩ := e
      simp only [Memory.wfFrom, Bool.and_eq_true, decide_eq_true_eq] at hw
      unfold Memory.put
      split
      · rename_i h1; subst h1
        split
        · simp only [Memory.byte, Ne.symm hc, if_false]
          split
          · cases t with
            | nil => simp [Memory.byte]
            | cons e' t' =>
              obtain ⟨k', c'⟩ := e'
              have := hw.2
              simp only [Memory.wfFrom, Bool.and_eq_true, decide_eq_true_eq] at this
              simp only [Memory.byte]
              rw [if_neg (by omega), if_pos (by omega)]
          · rfl
        · simp [Memory.byte, Ne.symm hc]
      · split
        · split
          · rfl
          · rename_i h1 h2 h3
            simp only [Memory.byte, Ne.symm hc, if_false]
            split
            · rw [if_neg (by omega), if_pos (by omega)]
            · rfl
        · simp only [Memory.byte, ih _ hw.2]
  exact key m 0 h

/-- Bytes written from an address on read back, and every other address is left alone. -/
theorem Memory.byte_putBytes (bs : List Byte) : ∀ (m : Memory) (a c : Nat), m.wf = true →
    (m.putBytes a bs).byte c = if a ≤ c ∧ c < a + bs.length then bs.getD (c - a) 0#8 else m.byte c := by
  induction bs with
  | nil => intro m a c _; rw [Memory.putBytes, if_neg (by intro hx; simp at hx; omega)]
  | cons b t ih =>
    intro m a c h
    rw [Memory.putBytes, ih _ _ _ (Memory.wf_put m a b h)]
    by_cases h1 : c = a
    · subst h1
      rw [if_neg (by omega), if_pos (by simp), Memory.byte_put_same m c b h]; simp
    · rw [Memory.byte_put_other m a c b h1 h]
      by_cases h2 : a + 1 ≤ c ∧ c < a + 1 + t.length
      · rw [if_pos h2, if_pos (by simp; omega)]
        have : c - a = (c - (a + 1)) + 1 := by omega
        rw [this]; simp
      · rw [if_neg h2, if_neg (by intro hx; simp at hx; omega)]

end Sys2Proof.Machine
end

