-- ==== Sys2Proof/Laws/State.lean ====
section
/-!
SUPPORT. Laws/State.lean: what each single update of the state leaves: one lemma per field per update, each true by definition, so
that no later proof unfolds a record update; and what a register field reads as after a write.
-/
namespace Sys2Proof.Machine

variable (m : Mod)

/-! ## `Mod.send` -/

@[simp] theorem Mod.send_free (o : Out) : (m.send o).free = m.free := rfl
@[simp] theorem Mod.send_tick (o : Out) : (m.send o).tick = m.tick := rfl
@[simp] theorem Mod.send_regs (o : Out) : (m.send o).regs = m.regs := rfl
@[simp] theorem Mod.send_glb (o : Out) : (m.send o).glb = m.glb := rfl
@[simp] theorem Mod.send_boot (o : Out) : (m.send o).boot = m.boot := rfl
@[simp] theorem Mod.send_drz (o : Out) : (m.send o).drz = m.drz := rfl
@[simp] theorem Mod.send_stw (o : Out) : (m.send o).stw = m.stw := rfl
@[simp] theorem Mod.send_mgmt (o : Out) : (m.send o).mgmt = m.mgmt := rfl
@[simp] theorem Mod.send_snap (o : Out) : (m.send o).snap = m.snap := rfl
@[simp] theorem Mod.send_fences (o : Out) : (m.send o).fences = m.fences := rfl
@[simp] theorem Mod.send_age (o : Out) : (m.send o).age = m.age := rfl
@[simp] theorem Mod.send_vlt (o : Out) : (m.send o).vlt = m.vlt := rfl
@[simp] theorem Mod.send_mem (o : Out) : (m.send o).mem = m.mem := rfl
@[simp] theorem Mod.send_poison (o : Out) : (m.send o).poison = m.poison := rfl
@[simp] theorem Mod.send_fab (o : Out) : (m.send o).fab = m.fab := rfl
@[simp] theorem Mod.send_led (o : Out) : (m.send o).led = m.led := rfl
@[simp] theorem Mod.send_dir (o : Out) : (m.send o).dir = m.dir := rfl
@[simp] theorem Mod.send_tier (o : Out) : (m.send o).tier = m.tier := rfl
@[simp] theorem Mod.send_grp (o : Out) : (m.send o).grp = m.grp := rfl
@[simp] theorem Mod.send_aux (o : Out) : (m.send o).aux = m.aux := rfl
@[simp] theorem Mod.send_bfl (o : Out) : (m.send o).bfl = m.bfl := rfl
@[simp] theorem Mod.send_lex (o : Out) : (m.send o).lex = m.lex := rfl
@[simp] theorem Mod.send_key (o : Out) : (m.send o).key = m.key := rfl
@[simp] theorem Mod.send_chn (o : Out) : (m.send o).chn = m.chn := rfl
@[simp] theorem Mod.send_rng (o : Out) : (m.send o).rng = m.rng := rfl
@[simp] theorem Mod.send_spl (o : Out) : (m.send o).spl = m.spl := rfl

/-! ## `Mod.setAt` -/

@[simp] theorem Mod.setAt_out (b : Nat) (f : Fld) (v : Nat) : (m.setAt b f v).out = m.out := rfl
@[simp] theorem Mod.setAt_free (b : Nat) (f : Fld) (v : Nat) : (m.setAt b f v).free = m.free := rfl
@[simp] theorem Mod.setAt_tick (b : Nat) (f : Fld) (v : Nat) : (m.setAt b f v).tick = m.tick := rfl
@[simp] theorem Mod.setAt_glb (b : Nat) (f : Fld) (v : Nat) : (m.setAt b f v).glb = m.glb := rfl
@[simp] theorem Mod.setAt_boot (b : Nat) (f : Fld) (v : Nat) : (m.setAt b f v).boot = m.boot := rfl
@[simp] theorem Mod.setAt_drz (b : Nat) (f : Fld) (v : Nat) : (m.setAt b f v).drz = m.drz := rfl
@[simp] theorem Mod.setAt_stw (b : Nat) (f : Fld) (v : Nat) : (m.setAt b f v).stw = m.stw := rfl
@[simp] theorem Mod.setAt_mgmt (b : Nat) (f : Fld) (v : Nat) : (m.setAt b f v).mgmt = m.mgmt := rfl
@[simp] theorem Mod.setAt_snap (b : Nat) (f : Fld) (v : Nat) : (m.setAt b f v).snap = m.snap := rfl
@[simp] theorem Mod.setAt_fences (b : Nat) (f : Fld) (v : Nat) : (m.setAt b f v).fences = m.fences := rfl
@[simp] theorem Mod.setAt_age (b : Nat) (f : Fld) (v : Nat) : (m.setAt b f v).age = m.age := rfl
@[simp] theorem Mod.setAt_vlt (b : Nat) (f : Fld) (v : Nat) : (m.setAt b f v).vlt = m.vlt := rfl
@[simp] theorem Mod.setAt_mem (b : Nat) (f : Fld) (v : Nat) : (m.setAt b f v).mem = m.mem := rfl
@[simp] theorem Mod.setAt_poison (b : Nat) (f : Fld) (v : Nat) : (m.setAt b f v).poison = m.poison := rfl
@[simp] theorem Mod.setAt_fab (b : Nat) (f : Fld) (v : Nat) : (m.setAt b f v).fab = m.fab := rfl
@[simp] theorem Mod.setAt_led (b : Nat) (f : Fld) (v : Nat) : (m.setAt b f v).led = m.led := rfl
@[simp] theorem Mod.setAt_dir (b : Nat) (f : Fld) (v : Nat) : (m.setAt b f v).dir = m.dir := rfl
@[simp] theorem Mod.setAt_tier (b : Nat) (f : Fld) (v : Nat) : (m.setAt b f v).tier = m.tier := rfl
@[simp] theorem Mod.setAt_grp (b : Nat) (f : Fld) (v : Nat) : (m.setAt b f v).grp = m.grp := rfl
@[simp] theorem Mod.setAt_aux (b : Nat) (f : Fld) (v : Nat) : (m.setAt b f v).aux = m.aux := rfl
@[simp] theorem Mod.setAt_bfl (b : Nat) (f : Fld) (v : Nat) : (m.setAt b f v).bfl = m.bfl := rfl
@[simp] theorem Mod.setAt_lex (b : Nat) (f : Fld) (v : Nat) : (m.setAt b f v).lex = m.lex := rfl
@[simp] theorem Mod.setAt_key (b : Nat) (f : Fld) (v : Nat) : (m.setAt b f v).key = m.key := rfl
@[simp] theorem Mod.setAt_chn (b : Nat) (f : Fld) (v : Nat) : (m.setAt b f v).chn = m.chn := rfl
@[simp] theorem Mod.setAt_rng (b : Nat) (f : Fld) (v : Nat) : (m.setAt b f v).rng = m.rng := rfl
@[simp] theorem Mod.setAt_spl (b : Nat) (f : Fld) (v : Nat) : (m.setAt b f v).spl = m.spl := rfl

/-! ## `Mod.set` -/

@[simp] theorem Mod.set_out (p : PageId) (f : Fld) (v : Nat) : (m.set p f v).out = m.out := rfl
@[simp] theorem Mod.set_free (p : PageId) (f : Fld) (v : Nat) : (m.set p f v).free = m.free := rfl
@[simp] theorem Mod.set_tick (p : PageId) (f : Fld) (v : Nat) : (m.set p f v).tick = m.tick := rfl
@[simp] theorem Mod.set_glb (p : PageId) (f : Fld) (v : Nat) : (m.set p f v).glb = m.glb := rfl
@[simp] theorem Mod.set_boot (p : PageId) (f : Fld) (v : Nat) : (m.set p f v).boot = m.boot := rfl
@[simp] theorem Mod.set_drz (p : PageId) (f : Fld) (v : Nat) : (m.set p f v).drz = m.drz := rfl
@[simp] theorem Mod.set_stw (p : PageId) (f : Fld) (v : Nat) : (m.set p f v).stw = m.stw := rfl
@[simp] theorem Mod.set_mgmt (p : PageId) (f : Fld) (v : Nat) : (m.set p f v).mgmt = m.mgmt := rfl
@[simp] theorem Mod.set_snap (p : PageId) (f : Fld) (v : Nat) : (m.set p f v).snap = m.snap := rfl
@[simp] theorem Mod.set_fences (p : PageId) (f : Fld) (v : Nat) : (m.set p f v).fences = m.fences := rfl
@[simp] theorem Mod.set_age (p : PageId) (f : Fld) (v : Nat) : (m.set p f v).age = m.age := rfl
@[simp] theorem Mod.set_vlt (p : PageId) (f : Fld) (v : Nat) : (m.set p f v).vlt = m.vlt := rfl
@[simp] theorem Mod.set_mem (p : PageId) (f : Fld) (v : Nat) : (m.set p f v).mem = m.mem := rfl
@[simp] theorem Mod.set_poison (p : PageId) (f : Fld) (v : Nat) : (m.set p f v).poison = m.poison := rfl
@[simp] theorem Mod.set_fab (p : PageId) (f : Fld) (v : Nat) : (m.set p f v).fab = m.fab := rfl
@[simp] theorem Mod.set_led (p : PageId) (f : Fld) (v : Nat) : (m.set p f v).led = m.led := rfl
@[simp] theorem Mod.set_dir (p : PageId) (f : Fld) (v : Nat) : (m.set p f v).dir = m.dir := rfl
@[simp] theorem Mod.set_tier (p : PageId) (f : Fld) (v : Nat) : (m.set p f v).tier = m.tier := rfl
@[simp] theorem Mod.set_grp (p : PageId) (f : Fld) (v : Nat) : (m.set p f v).grp = m.grp := rfl
@[simp] theorem Mod.set_aux (p : PageId) (f : Fld) (v : Nat) : (m.set p f v).aux = m.aux := rfl
@[simp] theorem Mod.set_bfl (p : PageId) (f : Fld) (v : Nat) : (m.set p f v).bfl = m.bfl := rfl
@[simp] theorem Mod.set_lex (p : PageId) (f : Fld) (v : Nat) : (m.set p f v).lex = m.lex := rfl
@[simp] theorem Mod.set_key (p : PageId) (f : Fld) (v : Nat) : (m.set p f v).key = m.key := rfl
@[simp] theorem Mod.set_chn (p : PageId) (f : Fld) (v : Nat) : (m.set p f v).chn = m.chn := rfl
@[simp] theorem Mod.set_rng (p : PageId) (f : Fld) (v : Nat) : (m.set p f v).rng = m.rng := rfl
@[simp] theorem Mod.set_spl (p : PageId) (f : Fld) (v : Nat) : (m.set p f v).spl = m.spl := rfl

/-! ## `Mod.add` -/

@[simp] theorem Mod.add_out (p : PageId) (f : Fld) (n : Nat) : (m.add p f n).out = m.out := rfl
@[simp] theorem Mod.add_free (p : PageId) (f : Fld) (n : Nat) : (m.add p f n).free = m.free := rfl
@[simp] theorem Mod.add_tick (p : PageId) (f : Fld) (n : Nat) : (m.add p f n).tick = m.tick := rfl
@[simp] theorem Mod.add_glb (p : PageId) (f : Fld) (n : Nat) : (m.add p f n).glb = m.glb := rfl
@[simp] theorem Mod.add_boot (p : PageId) (f : Fld) (n : Nat) : (m.add p f n).boot = m.boot := rfl
@[simp] theorem Mod.add_drz (p : PageId) (f : Fld) (n : Nat) : (m.add p f n).drz = m.drz := rfl
@[simp] theorem Mod.add_stw (p : PageId) (f : Fld) (n : Nat) : (m.add p f n).stw = m.stw := rfl
@[simp] theorem Mod.add_mgmt (p : PageId) (f : Fld) (n : Nat) : (m.add p f n).mgmt = m.mgmt := rfl
@[simp] theorem Mod.add_snap (p : PageId) (f : Fld) (n : Nat) : (m.add p f n).snap = m.snap := rfl
@[simp] theorem Mod.add_fences (p : PageId) (f : Fld) (n : Nat) : (m.add p f n).fences = m.fences := rfl
@[simp] theorem Mod.add_age (p : PageId) (f : Fld) (n : Nat) : (m.add p f n).age = m.age := rfl
@[simp] theorem Mod.add_vlt (p : PageId) (f : Fld) (n : Nat) : (m.add p f n).vlt = m.vlt := rfl
@[simp] theorem Mod.add_mem (p : PageId) (f : Fld) (n : Nat) : (m.add p f n).mem = m.mem := rfl
@[simp] theorem Mod.add_poison (p : PageId) (f : Fld) (n : Nat) : (m.add p f n).poison = m.poison := rfl
@[simp] theorem Mod.add_fab (p : PageId) (f : Fld) (n : Nat) : (m.add p f n).fab = m.fab := rfl
@[simp] theorem Mod.add_led (p : PageId) (f : Fld) (n : Nat) : (m.add p f n).led = m.led := rfl
@[simp] theorem Mod.add_dir (p : PageId) (f : Fld) (n : Nat) : (m.add p f n).dir = m.dir := rfl
@[simp] theorem Mod.add_tier (p : PageId) (f : Fld) (n : Nat) : (m.add p f n).tier = m.tier := rfl
@[simp] theorem Mod.add_grp (p : PageId) (f : Fld) (n : Nat) : (m.add p f n).grp = m.grp := rfl
@[simp] theorem Mod.add_aux (p : PageId) (f : Fld) (n : Nat) : (m.add p f n).aux = m.aux := rfl
@[simp] theorem Mod.add_bfl (p : PageId) (f : Fld) (n : Nat) : (m.add p f n).bfl = m.bfl := rfl
@[simp] theorem Mod.add_lex (p : PageId) (f : Fld) (n : Nat) : (m.add p f n).lex = m.lex := rfl
@[simp] theorem Mod.add_key (p : PageId) (f : Fld) (n : Nat) : (m.add p f n).key = m.key := rfl
@[simp] theorem Mod.add_chn (p : PageId) (f : Fld) (n : Nat) : (m.add p f n).chn = m.chn := rfl
@[simp] theorem Mod.add_rng (p : PageId) (f : Fld) (n : Nat) : (m.add p f n).rng = m.rng := rfl
@[simp] theorem Mod.add_spl (p : PageId) (f : Fld) (n : Nat) : (m.add p f n).spl = m.spl := rfl

/-! ## `Mod.setState` -/

@[simp] theorem Mod.setState_out (p : PageId) (c : Nat) : (m.setState p c).out = m.out := rfl
@[simp] theorem Mod.setState_free (p : PageId) (c : Nat) : (m.setState p c).free = m.free := rfl
@[simp] theorem Mod.setState_tick (p : PageId) (c : Nat) : (m.setState p c).tick = m.tick := rfl
@[simp] theorem Mod.setState_glb (p : PageId) (c : Nat) : (m.setState p c).glb = m.glb := rfl
@[simp] theorem Mod.setState_boot (p : PageId) (c : Nat) : (m.setState p c).boot = m.boot := rfl
@[simp] theorem Mod.setState_drz (p : PageId) (c : Nat) : (m.setState p c).drz = m.drz := rfl
@[simp] theorem Mod.setState_stw (p : PageId) (c : Nat) : (m.setState p c).stw = m.stw := rfl
@[simp] theorem Mod.setState_mgmt (p : PageId) (c : Nat) : (m.setState p c).mgmt = m.mgmt := rfl
@[simp] theorem Mod.setState_snap (p : PageId) (c : Nat) : (m.setState p c).snap = m.snap := rfl
@[simp] theorem Mod.setState_fences (p : PageId) (c : Nat) : (m.setState p c).fences = m.fences := rfl
@[simp] theorem Mod.setState_age (p : PageId) (c : Nat) : (m.setState p c).age = m.age := rfl
@[simp] theorem Mod.setState_vlt (p : PageId) (c : Nat) : (m.setState p c).vlt = m.vlt := rfl
@[simp] theorem Mod.setState_mem (p : PageId) (c : Nat) : (m.setState p c).mem = m.mem := rfl
@[simp] theorem Mod.setState_poison (p : PageId) (c : Nat) : (m.setState p c).poison = m.poison := rfl
@[simp] theorem Mod.setState_fab (p : PageId) (c : Nat) : (m.setState p c).fab = m.fab := rfl
@[simp] theorem Mod.setState_led (p : PageId) (c : Nat) : (m.setState p c).led = m.led := rfl
@[simp] theorem Mod.setState_dir (p : PageId) (c : Nat) : (m.setState p c).dir = m.dir := rfl
@[simp] theorem Mod.setState_tier (p : PageId) (c : Nat) : (m.setState p c).tier = m.tier := rfl
@[simp] theorem Mod.setState_grp (p : PageId) (c : Nat) : (m.setState p c).grp = m.grp := rfl
@[simp] theorem Mod.setState_aux (p : PageId) (c : Nat) : (m.setState p c).aux = m.aux := rfl
@[simp] theorem Mod.setState_bfl (p : PageId) (c : Nat) : (m.setState p c).bfl = m.bfl := rfl
@[simp] theorem Mod.setState_lex (p : PageId) (c : Nat) : (m.setState p c).lex = m.lex := rfl
@[simp] theorem Mod.setState_key (p : PageId) (c : Nat) : (m.setState p c).key = m.key := rfl
@[simp] theorem Mod.setState_chn (p : PageId) (c : Nat) : (m.setState p c).chn = m.chn := rfl
@[simp] theorem Mod.setState_rng (p : PageId) (c : Nat) : (m.setState p c).rng = m.rng := rfl
@[simp] theorem Mod.setState_spl (p : PageId) (c : Nat) : (m.setState p c).spl = m.spl := rfl

/-! ## `Mod.setModState` -/

@[simp] theorem Mod.setModState_out (c : Nat) : (m.setModState c).out = m.out := rfl
@[simp] theorem Mod.setModState_free (c : Nat) : (m.setModState c).free = m.free := rfl
@[simp] theorem Mod.setModState_tick (c : Nat) : (m.setModState c).tick = m.tick := rfl
@[simp] theorem Mod.setModState_glb (c : Nat) : (m.setModState c).glb = m.glb := rfl
@[simp] theorem Mod.setModState_boot (c : Nat) : (m.setModState c).boot = m.boot := rfl
@[simp] theorem Mod.setModState_drz (c : Nat) : (m.setModState c).drz = m.drz := rfl
@[simp] theorem Mod.setModState_stw (c : Nat) : (m.setModState c).stw = m.stw := rfl
@[simp] theorem Mod.setModState_mgmt (c : Nat) : (m.setModState c).mgmt = m.mgmt := rfl
@[simp] theorem Mod.setModState_snap (c : Nat) : (m.setModState c).snap = m.snap := rfl
@[simp] theorem Mod.setModState_fences (c : Nat) : (m.setModState c).fences = m.fences := rfl
@[simp] theorem Mod.setModState_age (c : Nat) : (m.setModState c).age = m.age := rfl
@[simp] theorem Mod.setModState_vlt (c : Nat) : (m.setModState c).vlt = m.vlt := rfl
@[simp] theorem Mod.setModState_mem (c : Nat) : (m.setModState c).mem = m.mem := rfl
@[simp] theorem Mod.setModState_poison (c : Nat) : (m.setModState c).poison = m.poison := rfl
@[simp] theorem Mod.setModState_fab (c : Nat) : (m.setModState c).fab = m.fab := rfl
@[simp] theorem Mod.setModState_led (c : Nat) : (m.setModState c).led = m.led := rfl
@[simp] theorem Mod.setModState_dir (c : Nat) : (m.setModState c).dir = m.dir := rfl
@[simp] theorem Mod.setModState_tier (c : Nat) : (m.setModState c).tier = m.tier := rfl
@[simp] theorem Mod.setModState_grp (c : Nat) : (m.setModState c).grp = m.grp := rfl
@[simp] theorem Mod.setModState_aux (c : Nat) : (m.setModState c).aux = m.aux := rfl
@[simp] theorem Mod.setModState_bfl (c : Nat) : (m.setModState c).bfl = m.bfl := rfl
@[simp] theorem Mod.setModState_lex (c : Nat) : (m.setModState c).lex = m.lex := rfl
@[simp] theorem Mod.setModState_key (c : Nat) : (m.setModState c).key = m.key := rfl
@[simp] theorem Mod.setModState_chn (c : Nat) : (m.setModState c).chn = m.chn := rfl
@[simp] theorem Mod.setModState_rng (c : Nat) : (m.setModState c).rng = m.rng := rfl
@[simp] theorem Mod.setModState_spl (c : Nat) : (m.setModState c).spl = m.spl := rfl

/-! ## `Mod.progress` -/

@[simp] theorem Mod.progress_out (p : PageId) (op percent pos : Nat) : (m.progress p op percent pos).out = m.out := rfl
@[simp] theorem Mod.progress_free (p : PageId) (op percent pos : Nat) : (m.progress p op percent pos).free = m.free := rfl
@[simp] theorem Mod.progress_tick (p : PageId) (op percent pos : Nat) : (m.progress p op percent pos).tick = m.tick := rfl
@[simp] theorem Mod.progress_glb (p : PageId) (op percent pos : Nat) : (m.progress p op percent pos).glb = m.glb := rfl
@[simp] theorem Mod.progress_boot (p : PageId) (op percent pos : Nat) : (m.progress p op percent pos).boot = m.boot := rfl
@[simp] theorem Mod.progress_drz (p : PageId) (op percent pos : Nat) : (m.progress p op percent pos).drz = m.drz := rfl
@[simp] theorem Mod.progress_stw (p : PageId) (op percent pos : Nat) : (m.progress p op percent pos).stw = m.stw := rfl
@[simp] theorem Mod.progress_mgmt (p : PageId) (op percent pos : Nat) : (m.progress p op percent pos).mgmt = m.mgmt := rfl
@[simp] theorem Mod.progress_snap (p : PageId) (op percent pos : Nat) : (m.progress p op percent pos).snap = m.snap := rfl
@[simp] theorem Mod.progress_fences (p : PageId) (op percent pos : Nat) : (m.progress p op percent pos).fences = m.fences := rfl
@[simp] theorem Mod.progress_age (p : PageId) (op percent pos : Nat) : (m.progress p op percent pos).age = m.age := rfl
@[simp] theorem Mod.progress_vlt (p : PageId) (op percent pos : Nat) : (m.progress p op percent pos).vlt = m.vlt := rfl
@[simp] theorem Mod.progress_mem (p : PageId) (op percent pos : Nat) : (m.progress p op percent pos).mem = m.mem := rfl
@[simp] theorem Mod.progress_poison (p : PageId) (op percent pos : Nat) : (m.progress p op percent pos).poison = m.poison := rfl
@[simp] theorem Mod.progress_fab (p : PageId) (op percent pos : Nat) : (m.progress p op percent pos).fab = m.fab := rfl
@[simp] theorem Mod.progress_led (p : PageId) (op percent pos : Nat) : (m.progress p op percent pos).led = m.led := rfl
@[simp] theorem Mod.progress_dir (p : PageId) (op percent pos : Nat) : (m.progress p op percent pos).dir = m.dir := rfl
@[simp] theorem Mod.progress_tier (p : PageId) (op percent pos : Nat) : (m.progress p op percent pos).tier = m.tier := rfl
@[simp] theorem Mod.progress_grp (p : PageId) (op percent pos : Nat) : (m.progress p op percent pos).grp = m.grp := rfl
@[simp] theorem Mod.progress_aux (p : PageId) (op percent pos : Nat) : (m.progress p op percent pos).aux = m.aux := rfl
@[simp] theorem Mod.progress_bfl (p : PageId) (op percent pos : Nat) : (m.progress p op percent pos).bfl = m.bfl := rfl
@[simp] theorem Mod.progress_lex (p : PageId) (op percent pos : Nat) : (m.progress p op percent pos).lex = m.lex := rfl
@[simp] theorem Mod.progress_key (p : PageId) (op percent pos : Nat) : (m.progress p op percent pos).key = m.key := rfl
@[simp] theorem Mod.progress_chn (p : PageId) (op percent pos : Nat) : (m.progress p op percent pos).chn = m.chn := rfl
@[simp] theorem Mod.progress_rng (p : PageId) (op percent pos : Nat) : (m.progress p op percent pos).rng = m.rng := rfl
@[simp] theorem Mod.progress_spl (p : PageId) (op percent pos : Nat) : (m.progress p op percent pos).spl = m.spl := rfl

/-! ## `Mod.setHp` -/

@[simp] theorem Mod.setHp_out (n : Nat) (h : HostPort) : (m.setHp n h).out = m.out := rfl
@[simp] theorem Mod.setHp_free (n : Nat) (h : HostPort) : (m.setHp n h).free = m.free := rfl
@[simp] theorem Mod.setHp_tick (n : Nat) (h : HostPort) : (m.setHp n h).tick = m.tick := rfl
@[simp] theorem Mod.setHp_regs (n : Nat) (h : HostPort) : (m.setHp n h).regs = m.regs := rfl
@[simp] theorem Mod.setHp_glb (n : Nat) (h : HostPort) : (m.setHp n h).glb = m.glb := rfl
@[simp] theorem Mod.setHp_boot (n : Nat) (h : HostPort) : (m.setHp n h).boot = m.boot := rfl
@[simp] theorem Mod.setHp_drz (n : Nat) (h : HostPort) : (m.setHp n h).drz = m.drz := rfl
@[simp] theorem Mod.setHp_stw (n : Nat) (h : HostPort) : (m.setHp n h).stw = m.stw := rfl
@[simp] theorem Mod.setHp_mgmt (n : Nat) (h : HostPort) : (m.setHp n h).mgmt = m.mgmt := rfl
@[simp] theorem Mod.setHp_snap (n : Nat) (h : HostPort) : (m.setHp n h).snap = m.snap := rfl
@[simp] theorem Mod.setHp_fences (n : Nat) (h : HostPort) : (m.setHp n h).fences = m.fences := rfl
@[simp] theorem Mod.setHp_age (n : Nat) (h : HostPort) : (m.setHp n h).age = m.age := rfl
@[simp] theorem Mod.setHp_vlt (n : Nat) (h : HostPort) : (m.setHp n h).vlt = m.vlt := rfl
@[simp] theorem Mod.setHp_mem (n : Nat) (h : HostPort) : (m.setHp n h).mem = m.mem := rfl
@[simp] theorem Mod.setHp_poison (n : Nat) (h : HostPort) : (m.setHp n h).poison = m.poison := rfl
@[simp] theorem Mod.setHp_led (n : Nat) (h : HostPort) : (m.setHp n h).led = m.led := rfl
@[simp] theorem Mod.setHp_dir (n : Nat) (h : HostPort) : (m.setHp n h).dir = m.dir := rfl
@[simp] theorem Mod.setHp_tier (n : Nat) (h : HostPort) : (m.setHp n h).tier = m.tier := rfl
@[simp] theorem Mod.setHp_grp (n : Nat) (h : HostPort) : (m.setHp n h).grp = m.grp := rfl
@[simp] theorem Mod.setHp_aux (n : Nat) (h : HostPort) : (m.setHp n h).aux = m.aux := rfl
@[simp] theorem Mod.setHp_bfl (n : Nat) (h : HostPort) : (m.setHp n h).bfl = m.bfl := rfl
@[simp] theorem Mod.setHp_lex (n : Nat) (h : HostPort) : (m.setHp n h).lex = m.lex := rfl
@[simp] theorem Mod.setHp_key (n : Nat) (h : HostPort) : (m.setHp n h).key = m.key := rfl
@[simp] theorem Mod.setHp_chn (n : Nat) (h : HostPort) : (m.setHp n h).chn = m.chn := rfl
@[simp] theorem Mod.setHp_rng (n : Nat) (h : HostPort) : (m.setHp n h).rng = m.rng := rfl
@[simp] theorem Mod.setHp_spl (n : Nat) (h : HostPort) : (m.setHp n h).spl = m.spl := rfl

/-- What was sent last is the last of what was sent. -/
@[simp] theorem Mod.send_out (o : Out) : (m.send o).out = m.out ++ [o] := rfl

@[simp] theorem Mod.send_get (o : Out) (p : PageId) (f : Fld) : (m.send o).get p f = m.get p f := rfl
@[simp] theorem Mod.send_is (o : Out) (p : PageId) (f : Fld) : (m.send o).is p f = m.is p f := rfl

/-! ## Register fields -/

/-- What an unwritten field reads as depends on start-up alone. -/
@[simp] theorem Mod.setAt_fldReset (b : Nat) (f g : Fld) (v : Nat) (p : PageId) : (m.setAt b f v).fldReset p g = m.fldReset p g := rfl
@[simp] theorem Mod.set_fldReset (q p : PageId) (f g : Fld) (v : Nat) : (m.set q f v).fldReset p g = m.fldReset p g := rfl

/-- A field reads as what was written, cut to its width. -/
@[simp] theorem Mod.get_set_same (p : PageId) (f : Fld) (v : Nat) : (m.set p f v).get p f = v % 2 ^ f.width := by
  simp [Mod.get, Mod.set, Mod.setAt]

/-- A write leaves every field under another key alone. -/
theorem Mod.get_set_other (p q : PageId) (f g : Fld) (v : Nat) (h : fldKey (pageAddr q) g ≠ fldKey (pageAddr p) f) :
    (m.set p f v).get q g = m.get q g := by
  simp only [Mod.get, Mod.set_fldReset]
  exact mapGetD_mapPut_other _ _ _ _ _ h

/-- The same of a one-bit test. -/
theorem Mod.is_set_other (p q : PageId) (f g : Fld) (v : Nat) (h : fldKey (pageAddr q) g ≠ fldKey (pageAddr p) f) :
    (m.set p f v).is q g = m.is q g := by simp [Mod.is, Mod.get_set_other m p q f g v h]

/-! ## The machine around the module -/

@[simp] theorem State.setM_pending (s : State) (m : Mod) : ({ s with m := m } : State).pending = s.pending := rfl
@[simp] theorem State.setM_fuse (s : State) (m : Mod) : ({ s with m := m } : State).fuse = s.fuse := rfl
@[simp] theorem State.setM_pwr (s : State) (m : Mod) : ({ s with m := m } : State).pwr = s.pwr := rfl
@[simp] theorem State.setM_m (s : State) (m : Mod) : ({ s with m := m } : State).m = m := rfl
@[simp] theorem State.setQueue_m (s : State) (q : List Instr) : ({ s with pending := q } : State).m = s.m := rfl
@[simp] theorem State.setQueue_fuse (s : State) (q : List Instr) : ({ s with pending := q } : State).fuse = s.fuse := rfl
@[simp] theorem State.setQueue_pwr (s : State) (q : List Instr) : ({ s with pending := q } : State).pwr = s.pwr := rfl

end Sys2Proof.Machine
end

