-- ==== Sys2Proof/WellFormed.lean ====
section
/-!
DEFINITION. WellFormed.lean: when a command's operands name units the module has (R7, R24, R339) and when its data has the length the
spec gives it. The hardware has no wires for a command outside these bounds; a meaning faults only on an absent unit (`unitsOk`).
-/
namespace Sys2Proof

/-- Pages of a type (R24). -/
def PageTy.units : PageTy → Nat
  | .prt => 96 | .mch => 96 | .cip => 96
  | .hsl => 64
  | .lnq => 32 | .lex => 32
  | .par => 16 | .frn => 16
  | .glb => 1 | .rng => 1 | .grp => 1 | .mov => 1 | .key => 1 | .vlt => 1
  | .pwr => 1 | .age => 1 | .spl => 1 | .drz => 1 | .pmu => 1 | .stw => 1

/-- The module has the page. -/
def PageId.ok (p : PageId) : Bool := decide (p.inst < p.ty.units)

/-- Who releases an extent is a port the module has. -/
def Releaser.ok : Releaser → Bool
  | .ld port _ => decide (port < 96)
  | .gfd _ _ => true

/-- The units a command names exist: pages, port engines, slices, quads, channels, device pairs, engines, ring pairs, MSI-X vectors and
reference-clock pairs. -/
def Instr.unitsOk : Instr → Bool
  | .pageEnableSet p => p.ok
  | .pageEnableClear p => p.ok
  | .blockDrained p => p.ok
  | .blockReset p => p.ok
  | .pageFreeze p => p.ok
  | .pageThaw p => p.ok
  | .pageLockSet p => p.ok
  | .pageErrClear p _ => p.ok
  | .counterWrap p n => p.ok && decide (n < 4)
  | .memrd src _ _ _ => decide (src.port < 96)
  | .memrddata src _ => decide (src.port < 96)
  | .memwr src _ _ _ _ => decide (src.port < 96)
  | .memwrptl src _ _ _ _ => decide (src.port < 96)
  | .memclnevct src _ => decide (src.port < 96)
  | .birsp port _ _ _ => decide (port < 96)
  | .biconflict port _ _ => decide (port < 96)
  | .dataFrameSend port => decide (port < 96)
  | .dataFrameReceive port _ => decide (port < 96)
  | .ctlFrameReceive port _ => decide (port < 96)
  | .idleFrameReceive port _ => decide (port < 96)
  | .retrainMark port _ => decide (port < 96)
  | .replayTimer port => decide (port < 96)
  | .retrainDone port _ => decide (port < 96)
  | .portRetrainForce port => decide (port < 96)
  | .berfelTrainSchedule port => decide (port < 96)
  | .peerTrainingSeen port => decide (port < 96)
  | .berfelTrainDone port _ => decide (port < 96)
  | .hello port _ => decide (port < 96)
  | .helloTimeout port => decide (port < 96)
  | .ctlStatus port _ _ => decide (port < 96)
  | .statusTimer port => decide (port < 96)
  | .macTag port _ => decide (port < 96)
  | .gcmRunTimer port => decide (port < 96)
  | .hostLinkUp port _ _ _ _ => decide (port < 96)
  | .hostLinkLoss port => decide (port < 96)
  | .hostRetrain port => decide (port < 96)
  | .drain port => decide (port < 96)
  | .drainComplete port => decide (port < 96)
  | .drainTimeout port => decide (port < 96)
  | .linkDisable port _ => decide (port < 96)
  | .portReset port => decide (port < 96)
  | .addDcResponse port _ _ _ => decide (port < 96)
  | .releaseDc who _ => who.ok
  | .getDcExtentList port _ => decide (port < 96)
  | .tunnelManagementCommand _ port _ _ => decide (port < 96)
  | .ideKm port _ _ => decide (port < 96)
  | .hdmDecoderCommit port _ _ _ _ _ _ _ => decide (port < 96)
  | .gpfPhase1 port => decide (port < 96)
  | .gpfPhase2 port => decide (port < 96)
  | .ingressAdmit slice _ => decide (slice < 64)
  | .dirSetRecoveryDone slice => decide (slice < 64)
  | .dirProbe slice => decide (slice < 64)
  | .lnqApply quad => decide (quad < 32)
  | .lnqRoleChangeDone quad => decide (quad < 32)
  | .msixVectorUnmask v => decide (v < 2048)
  | .lexBlockStart engine => decide (engine < 32)
  | .lexBlockDone engine => decide (engine < 32)
  | .frnPause engine _ => decide (engine < 16)
  | .frontStep engine => decide (engine < 16)
  | .mchReadReturn ch _ _ _ _ _ => decide (ch < 96)
  | .refreshDue ch => decide (ch < 96)
  | .tempPoll pair _ _ => decide (pair < 48)
  | .lullDue ch => decide (ch < 96)
  | .lullDone ch _ _ _ => decide (ch < 96)
  | .scrubRow ch _ _ => decide (ch < 96)
  | .thawTrainDone ch _ => decide (ch < 96)
  | .settleStep ch => decide (ch < 96)
  | .mchRetire ch => decide (ch < 96)
  | .evacuateStep ch _ => decide (ch < 96)
  | .ringEnable ring => decide (ring < 8192)
  | .ringDisable ring => decide (ring < 8192)
  | .ringReset ring => decide (ring < 8192)
  | .ringDrained ring => decide (ring < 8192)
  | .doorbell ring => decide (ring < 8192)
  | .sqEntryRead ring => decide (ring < 8192)
  | .coalesceTimer ring => decide (ring < 8192)
  | .verbComplete ring _ => decide (ring < 8192)
  | .verbNop ring _ => decide (ring < 8192)
  | .verbCopy ring _ => decide (ring < 8192)
  | .verbFill ring _ => decide (ring < 8192)
  | .verbChecksum ring _ => decide (ring < 8192)
  | .verbCompare ring _ => decide (ring < 8192)
  | .verbEcEncode ring _ => decide (ring < 8192)
  | .verbEcReconstruct ring _ => decide (ring < 8192)
  | .verbCompress ring _ => decide (ring < 8192)
  | .verbDecompress ring _ => decide (ring < 8192)
  | .verbFullStop ring _ => decide (ring < 8192)
  | .refclkStop pair => decide (pair < 8)
  | .refclkReturn pair => decide (pair < 8)
  | _ => true

/-- Key material has 96 bytes where it is imported (R293, R295). -/
def KeySrc.ok : KeySrc → Bool
  | .generate => true
  | .import_ key => decide (key.length = 96)

/-- Data has the length the spec gives it: a line 64 bytes and a byte enable for each, a unit or page 4,096, a frame 256 (R129), a GCM tag
16 and a port key 32 (R133, R151), key material 96. An access has 1, 2, 4 or 8 bytes (R25 allows 4 and 8 at the block pages). -/
def Instr.dataOk : Instr → Bool
  | .registerWrite a => a.size = 1 || a.size = 2 || a.size = 4 || a.size = 8
  | .memwr _ _ _ data _ => decide (data.length = 64)
  | .memwrptl _ _ data be _ => decide (data.length = 64) && decide (be < 2 ^ 64)
  | .clearPoison _ _ data => decide (data.length = 64)
  | .deltaData _ _ _ _ data => decide (data.length = 64)
  | .deltaStage _ _ _ _ data => decide (data.length = 64)
  | .unitData _ _ data => decide (data.length = 4096)
  | .pagePut _ _ data => decide (data.length = 4096)
  | .pageData _ _ _ data => decide (data.length = 4096)
  | .dataFrameReceive _ raw => decide (raw.length = 256)
  | .ctlFrameReceive _ raw => decide (raw.length = 256)
  | .idleFrameReceive _ raw => decide (raw.length = 256)
  | .retrainMark _ raw => decide (raw.length = 256)
  | .macTag _ tag => decide (tag.length = 16)
  | .bfKeySet _ _ _ _ salt key => decide (salt < 2 ^ 32) && decide (key.length = 32)
  | .keyDomainCreate _ _ _ src => src.ok
  | .keyFrontStart _ _ src => src.ok
  | _ => true

/-- A well-formed command. -/
def Instr.wf (c : Instr) : Bool := c.unitsOk && c.dataOk

end Sys2Proof
end

