-- ==== Sys2Proof/Safety.lean ====
section
/-!
DEFINITION. Safety.lean: what a command leaves alone, in the terms statements use, and what holds of the fuses and of the power entry
stage in every state of a module.
-/
namespace Sys2Proof.Machine

/-- The module but for what was sent, its register fields and the steward function: what a command that only answers leaves alone. -/
def Mod.work (m : Mod) : Mod := { m with out := [], regs := [], stw := Mod.reset.stw }

/-- The queue of waiting commands, the fuses and the power entry stage are as before. -/
def Kept (s t : State) : Prop := t.pending = s.pending ∧ t.fuse = s.fuse ∧ t.pwr = s.pwr

/-- `t` is `s` with one completion sent: `o` is the last thing sent, and nothing else has changed but event counters that count and what
their overflow brings (R42, R447 to R453); while the counter gate is closed nothing else at all. -/
def Answers (s t : State) (o : Out) : Prop :=
  Kept s t ∧ t.m.out.getLast? = some o ∧ t.m.work = s.m.work ∧ (s.m.is pgPmu PmuF.open_ = false → t.m = s.m.send o)

/-- Nothing stands in the way of a request at a line: no request or held full stop at it, no request waits at an ingress, no directory set
is lost, and its slice has a ledger entry. -/
def Mod.lineQuiet (m : Mod) (l : Nat) : Prop :=
  (∀ q, q ∈ m.led.reqs → q.line ≠ l ∧ q.wait ≠ .ingress) ∧ m.stopHeld l = false ∧ m.dir.lost = [] ∧ m.entriesUsed (sliceOf l) < 1024

/-- A line of volatile memory at hand (R249): its page is PLAIN in frame `f` and not moving, its counters verify, the line is in the front
cache, its key is not lost, and the slice's page-map cache holds the page's entry. -/
def Mod.lineAtHand (m : Mod) (l f : Nat) : Prop :=
  m.isDurable l = false ∧ m.coherent l = false ∧ (m.page (pageOfLine l)).st = .plain f ∧ m.unverifiable f = false ∧
  mapGet m.tier.moves (pageOfLine l) = none ∧ (m.fcGet l).isSome = true ∧ (m.fcSet l).length ≤ m.fcWays l ∧
  m.glb.tampered = false ∧ m.keyLost l = false ∧
  ((mapGetD m.tier.mapCache (sliceOf l) []).any fun e => e.1 = pageOfLine l) = true

/-- A message of a host is accepted at its port (R165, R180) for context `c`. -/
def Mod.accepts (m : Mod) (src : HostSrc) (c : Nat) : Prop :=
  src.port < 96 ∧ m.hostOpen src.port = true ∧ src.ideOk = true ∧ m.ctxOf src = some c

/-- The messages `l` have been queued for member `x`, after what waited for it. -/
def Queued (s t : State) (x : Nat) (l : List Msg) : Prop :=
  (t.m.bundle (s.m.idOf x)).queue = (s.m.bundle (s.m.idOf x)).queue ++ l

/-- The memory, the extents, the windows and the parity store are as before. -/
def Stores (s t : State) : Prop :=
  t.m.mem = s.m.mem ∧ t.m.poison = s.m.poison ∧ t.m.fab = s.m.fab ∧ t.m.led.wins = s.m.led.wins ∧ t.m.grp.parity = s.m.grp.parity

/-- A unit of the parity store at hand (R93, R333): line `x` of the store lies at line `n` of unit `u` in the pool, whose channel is not
frozen, whose counters are cached and whose minor does not wrap. -/
def Mod.parityAtHand (m : Mod) (x u n : Nat) : Prop :=
  m.internalPlace 0 x = some (u, n) ∧ mapGetD m.chn.internalFrames u u = u ∧ m.frozen (chanOf u) = false ∧ m.nodeHeld u = true ∧
  u < levelBase 2 ∧ m.minor u n < 127 ∧ (m.nodeCache u).length ≤ m.nodeCacheMax (nodeSlice u)

/-- A frame of type `ty` arrives at a port that hears it (R129, R130): 256 bytes with no error, `bs`, with link header `w`, whose quad does
not change role. -/
def Mod.hearsFrame (m : Mod) (n ty : Nat) (raw bs : List Byte) (w : Nat) : Prop :=
  n < 96 ∧ m.changingDiscard n = none ∧ m.hears n = true ∧ raw.length = 256 ∧ fecFrame raw = (bs, false) ∧ frameGood bs = true ∧
  leAt bs 0 8 = w ∧ bits w 40 2 = ty

/-- How many kept frames the ACK of a link header covers (R143). -/
def Mod.ackCount (m : Mod) (n w : Nat) : Nat := (bits w 20 20 + 2 ^ 20 - m.get (pgPrt n) PrtF.peerTxOldest + 1) % 2 ^ 20

/-- No live ring pair keeps its ring memory in an extent (R341, R358). -/
def Mod.ringsClear (m : Mod) (e : Extent) : Prop :=
  ∀ n, n ∈ m.livePairs → ∀ r, r ∈ m.ringMem n → overlaps r.1 r.2 e.base e.size = false

/-- The contexts can take one more grant each with nothing to recycle (R173). -/
def Mod.grantRoom (m : Mod) (cs : List Nat) : Prop :=
  (∀ c, c ∈ cs → (m.fab.grants.filter fun g => g.ctx = c).length < 1024) ∧ m.fab.grants.length + cs.length ≤ 262144

/-- No release or move of an extent runs or waits. -/
def Mod.noChange (m : Mod) (n : Nat) : Prop := ∀ c, c ∈ m.fab.changes → c.ext ≠ n

/-- A pair whose only verb is `v`, while no other pair has any: it is on, and nothing of the verb waits at a slice (R342, R354). -/
def Mod.verbAtHand (m : Mod) (ring idx op : Nat) (v : Verb) : Prop :=
  ring < 8192 ∧ m.runs = true ∧ m.saving = false ∧ m.ringOn ring = true ∧ (mapGet m.rng ring).map Pair.verbs = some [v] ∧
  (∀ e, e ∈ m.rng → e.1 ≠ ring → e.2.verbs = []) ∧ v.idx = idx ∧ v.op = op ∧ v.started = true ∧ v.outcome = none ∧
  m.verbWaits ring v.ser = false

/-- A sub-operation of a pair's verb at a line finds a ledger entry, its owner's grant and the line at hand (R346, R355). -/
def Mod.verbLine (m : Mod) (ring l f : Nat) : Prop :=
  m.lineQuiet l ∧ m.lineAtHand l f ∧ (∀ r, r ∈ m.led.reqs → r.isVerb = false) ∧ 0 < m.get pgRng RngF.verbLedgerCap ∧
  ∃ x ep, m.checkGrant (m.rf ring RingEF.ownerCtx) (l * 64) = .ok x ep

/-- A verb has completed in `t` with a status and results. -/
def VerbDone (t : State) (ring : Nat) (v : Verb) (st r0 r1 : Nat) : Prop :=
  ∃ w, t.m.verb ring v.ser = some w ∧ w.outcome = some (st, r0, r1)

/-- The counter caches and the page-map caches hold nothing that is not written back. -/
def Mod.cachesClean (m : Mod) : Prop :=
  (∀ e, e ∈ m.key.nodes → ∀ x, x ∈ e.2 → x.2 = false) ∧ ∀ e, e ∈ m.tier.mapCache → ∀ x, x ∈ e.2 → x.2 = false

/-- Every host and peer link is down. -/
def Mod.linksOff (m : Mod) : Prop := ∀ n, n < 96 → m.portUp n = false ∧ (m.peerRole n = true → m.bState n = bsDown)

/-- A save is being written with the image `i` in its target area. -/
def Mod.writing (m : Mod) (v : Save) (i : Image) : Prop :=
  m.vlt.save = some v ∧ v.step = .writing ∧ m.glb.powered = true ∧ m.area m.targetB = some i

/-- Every extent of an image lies in a durable region, and none of its lines was left out. -/
def Image.allDurable (i : Image) (m : Mod) : Prop :=
  (∀ e, e ∈ i.saved.fab.extents → ({ m with fab := i.saved.fab }).volatileExt e.2 = false) ∧ i.saved.grp.absent = []

/-- No error of the VLT or PWR page is set fatal. -/
def Mod.mildVlt (m : Mod) : Prop := ∀ b, bit (m.get pgVlt HdrF.errSev) b = false ∧ bit (m.get pgPwr HdrF.errSev) b = false

/-- The die is as before. -/
def DieKept (s t : State) : Prop := t.pending = s.pending ∧ t.fuse = s.fuse ∧ t.m = s.m

/-- From stage `p` the fuse has latched off into `q` (R424, R429): the gate off, PG low, the cause held for a cool-down, a log entry. -/
def LatchedOff (p q : Pwr) (cause vin iin : Nat) : Prop :=
  q.latch = some cause ∧ q.coolDown = true ∧ q.pg = false ∧ q.qualify = false ∧ q.timer = none ∧ q.latches = p.latches + 1 ∧
  q.st = (if p.fetShort then .fetFail else .latched) ∧ q.fetShort = p.fetShort ∧
  q.log = ({ cause := cause, vinAt := vin, iinAt := iin, rampNo := p.ramps } :: p.log).take 16

/-- The die runs, its restore has ended, no save runs, the lid is closed and every link is down: losing its supply starts a save. -/
def Mod.canSave (m : Mod) : Prop :=
  m.glb.powered = true ∧ m.vlt.save = none ∧ m.restored = true ∧ m.glb.tampered = false ∧ m.linksOff ∧ m.mildVlt

/-- A save with trigger `trig` has begun on the bank, after which the module powers down (R397, R400, R427). -/
def SaveBegun (s t : State) (trig : Nat) : Prop :=
  t.pending = s.pending ∧ t.fuse = s.fuse ∧ t.m.mem = s.m.mem ∧ t.m.fab = s.m.fab ∧ t.m.tier = s.m.tier ∧
  t.m.vlt.save = some { trigger := trig, step := .prepare, after := .powerDown, start := s.m.tick, truncated := false, parityCut := 0, volCut := 0, durable := true, gpf := [] } ∧
  t.m.get pgGlb GlbF.moduleState = 4 ∧ t.m.get pgPwr PwrF.charging = 0 ∧ t.m.drz.under = none ∧ t.m.drz.paused = true

/-- `s` with the module `m`. -/
def State.withM (s : State) (m : Mod) : State := { s with m := m }

/-- The fuses are legal (R442): one of the four lifecycle states, a 6-bit KEY_GEN that every wipe counts at most once, and a half-written
move names a lifecycle state. -/
def FusesLegal (f : Fuses) : Prop := f.lifecycle ≤ 3 ∧ f.keyGen ≤ 63 ∧ f.keyGen ≤ f.wipes ∧ ∀ t, f.half = some t → t ≤ 3

/-- The power entry stage is in a legal state (R419 to R429): PG and the qualify interval only with the gate on, each fault timer in its
own state, no latch-off and no FET_SHORT hold while the stage delays, ramps or is on, a cool-down and a held clear only of a latch-off,
and at most 16 log entries. -/
def PowerLegal (p : Pwr) : Prop :=
  (p.pg = true → p.st = .on) ∧ (p.qualify = true → p.st = .on ∧ p.timer = none) ∧
  (p.timer = some .ramp ↔ p.st = .ramping) ∧ (p.timer = some .breaker → p.st = .on) ∧
  (p.st = .delay ∨ p.st = .ramping ∨ p.st = .on → p.latch = none ∧ p.fetShort = false) ∧
  (p.coolDown = true → p.latch ≠ none) ∧ (p.clearHeld = true → p.latch ≠ none) ∧
  p.log.length ≤ 16 ∧ p.fresh ≤ 16

end Sys2Proof.Machine

namespace Sys2Proof

open Sys2Proof.Machine

/-- The commands that can change the fuses: the lifecycle command, an opening of the lid, the wake of the die that finds either, and those
that meet a lost word of the secure store (R435, R442, R443). -/
def Instr.movesFuses : Instr → Bool
  | .lifecycleSet .. => true
  | .lidOpen => true
  | .dieWake .. => true
  | .memrd .. => true
  | .drizzleRegionEnd .. => true
  | _ => false

/-- The commands that can change the power entry stage: its own events, RESTART by its row or the register, and the end of a save or of a
restore (R425, R427, R429). -/
def Instr.movesPower : Instr → Bool
  | .prsntNAssert _ => true
  | .prsntNDeassert => true
  | .insertionDelayExpire .. => true
  | .rampComplete => true
  | .pgQualifyExpire => true
  | .faultTimerExpire .. => true
  | .overcurrentStart _ => true
  | .overcurrentEnd _ => true
  | .fastTrip .. => true
  | .fetOvertemp .. => true
  | .coolDownExpire => true
  | .restart _ => true
  | .fetShort .. => true
  | .fetDegraded .. => true
  | .inputLoss _ => true
  | .vinValid => true
  | .pwrEnLow => true
  | .pwrEnHigh => true
  | .pfwNFall => true
  | .postSaveReinsert => true
  | .controllerBiasLoss => true
  | .thermalTrip _ => true
  | .thermalTripCooloff => true
  | .registerWrite _ => true
  | .saveSeal .. => true
  | .bankConverterShutdown => true
  | .restoreDone _ => true
  | _ => false

/-- A step goes on: it neither faults nor is refused. -/
def Goes (o : Host.Outcome State Fault Refusal) : Prop := ∃ t, o = .next t

end Sys2Proof
end

