-- ==== Sys2Proof/Laws/Ops.lean ====
section
/-!
SUPPORT. Laws/Ops.lean: what the shared operations can do, said once: outcomes, counting, signals, errors, event records and completions.
-/
namespace Sys2Proof.Machine

open Host

/-! ## Outcomes -/

/-- A command on the module alone answers the module it makes. -/
@[simp] theorem State.onM_eq (s : State) (f : Mod → Mod) : s.onM f = .next { s with m := f s.m } := rfl

/-- A command on a unit the module has. -/
theorem State.onUnit_has (s : State) {has : Bool} (h : has = true) (f : Mod → Mod) :
    s.onUnit has f = .next { s with m := f s.m } := by simp [State.onUnit, h]

/-- A command on a unit the module does not have. -/
theorem State.onUnit_absent (s : State) {has : Bool} (h : has = false) (f : Mod → Mod) :
    s.onUnit has f = .fault .absentUnit := by simp [State.onUnit, h]

/-- All that a command on a unit can do. -/
theorem State.onUnit_cases (s : State) (has : Bool) (f : Mod → Mod) :
    (has = true ∧ s.onUnit has f = .next { s with m := f s.m }) ∨ (has = false ∧ s.onUnit has f = .fault .absentUnit) := by
  cases has <;> simp [State.onUnit]

@[simp] theorem Mod.when_true (m : Mod) (f : Mod → Mod) : m.when true f = f m := rfl
@[simp] theorem Mod.when_false (m : Mod) (f : Mod → Mod) : m.when false f = m := rfl

/-- A command that reached the core runs. -/
theorem Mod.onMailbox_open {m : Mod} {via : Via} (h : m.mailbox via = true) (f : Mod → Mod) : m.onMailbox via f = f m := by
  simp [Mod.onMailbox, h]

/-- A command that did not reach the core has no effect. -/
theorem Mod.onMailbox_shut {m : Mod} {via : Via} (h : m.mailbox via = false) (f : Mod → Mod) : m.onMailbox via f = m := by
  simp [Mod.onMailbox, h]

/-! ## What counting, signals and completions leave alone -/

@[simp] theorem Mod.send_work (m : Mod) (o : Out) : (m.send o).work = m.work := rfl
@[simp] theorem Mod.setAt_work (m : Mod) (b : Nat) (f : Fld) (v : Nat) : (m.setAt b f v).work = m.work := rfl
@[simp] theorem Mod.set_work (m : Mod) (p : PageId) (f : Fld) (v : Nat) : (m.set p f v).work = m.work := rfl
@[simp] theorem Mod.add_work (m : Mod) (p : PageId) (f : Fld) (n : Nat) : (m.add p f n).work = m.work := rfl
@[simp] theorem Mod.setState_work (m : Mod) (p : PageId) (c : Nat) : (m.setState p c).work = m.work := rfl

@[simp] theorem Mod.bumpCounter_work (m : Mod) (p : PageId) (k n : Nat) : (m.bumpCounter p k n).1.work = m.work := by
  unfold Mod.bumpCounter; dsimp only; split <;> rfl

/-- Folds of steps that leave the work alone. -/
theorem foldl_work {α β : Type} (g : β → Mod) (f : β → α → β) (h : ∀ b a, (g (f b a)).work = (g b).work) (l : List α) :
    ∀ b, (g (l.foldl f b)).work = (g b).work := by
  induction l with
  | nil => intro b; rfl
  | cons a t ih => intro b; rw [List.foldl_cons, ih, h]

@[simp] theorem Mod.countRaw_work (m : Mod) (p : PageId) (e n : Nat) : (m.countRaw p e n).1.work = m.work := by
  unfold Mod.countRaw
  refine foldl_work (β := Mod × List Nat) (fun b => b.1) _ ?_ (upto 4) (m, [])
  intro b a; dsimp only; split
  · exact Mod.bumpCounter_work _ _ _ _
  · rfl

@[simp] theorem Mod.msixIssue_work (m : Mod) (v : Nat) : (m.msixIssue v).work = m.work := by
  simp [Mod.msixIssue]

@[simp] theorem Mod.setPend_work (m : Mod) (v : Nat) : (m.setPend v).work = m.work := by
  unfold Mod.setPend; split <;> rfl

@[simp] theorem Mod.errBits_work (m : Mod) (p : PageId) (b d : Nat) : (m.errBits p b d).work = m.work := by
  unfold Mod.errBits; dsimp only; split <;> rfl

@[simp] theorem Mod.signal_work (m : Mod) (v : Nat) : (m.signal v).work = m.work := by
  unfold Mod.signal
  repeat' split
  all_goals simp

@[simp] theorem Mod.errQuiet_work (m : Mod) (p : PageId) (b d : Nat) : (m.errQuiet p b d).work = m.work := by
  unfold Mod.errQuiet; dsimp only
  repeat' split
  all_goals simp

@[simp] theorem Mod.wrapped_work (m : Mod) (p : PageId) (k : Nat) : (m.wrapped p k).work = m.work := by
  unfold Mod.wrapped; dsimp only; split <;> simp

/-- Counting an event touches registers, what is sent and the steward function alone. -/
@[simp] theorem Mod.count_work (m : Mod) (p : PageId) (e n : Nat) : (m.count p e n).work = m.work := by
  unfold Mod.count; dsimp only
  rw [foldl_work (fun b => b) (fun a k => a.wrapped p k) (fun b a => Mod.wrapped_work b p a)]
  exact Mod.countRaw_work m p e n

@[simp] theorem Mod.reply_work (m : Mod) (via : Via) (rc : Rc) (d : List Byte) : (m.reply via rc d).work = m.work := by
  simp [Mod.reply]

@[simp] theorem Mod.replyVals_work (m : Mod) (via : Via) (rc : Rc) (d : List Nat) : (m.replyVals via rc d).work = m.work := by
  simp [Mod.replyVals]

/-- A completion is the last thing sent. -/
@[simp] theorem Mod.reply_last (m : Mod) (via : Via) (rc : Rc) (d : List Byte) :
    (m.reply via rc d).out.getLast? = some (.reply via rc d) := by simp [Mod.reply]

@[simp] theorem Mod.replyVals_last (m : Mod) (via : Via) (rc : Rc) (d : List Nat) :
    (m.replyVals via rc d).out.getLast? = some (.replyVals via rc d) := by simp [Mod.replyVals]

/-! ## With the counter gate closed nothing counts -/

theorem Mod.counts_closed {m : Mod} (h : m.is pgPmu PmuF.open_ = false) (p : PageId) (k e : Nat) : m.counts p k e = false := by
  simp [Mod.counts, h]

theorem Mod.countRaw_closed {m : Mod} (h : m.is pgPmu PmuF.open_ = false) (p : PageId) (e n : Nat) :
    m.countRaw p e n = (m, []) := by
  have key : ∀ l : List Nat, l.foldl (fun (a : Mod × List Nat) k =>
      if a.1.counts p k e then
        let r := a.1.bumpCounter p k n
        (r.1, if r.2 then a.2 ++ [k] else a.2)
      else a) (m, []) = (m, []) := by
    intro l
    induction l with
    | nil => rfl
    | cons a t ih => rw [List.foldl_cons]; simp only [Mod.counts_closed h, Bool.false_eq_true, if_false]; exact ih
  exact key (upto 4)

/-- With the gate closed an event changes nothing. -/
theorem Mod.count_closed {m : Mod} (h : m.is pgPmu PmuF.open_ = false) (p : PageId) (e n : Nat) : m.count p e n = m := by
  simp [Mod.count, Mod.countRaw_closed h]

theorem Mod.reply_closed {m : Mod} (h : m.is pgPmu PmuF.open_ = false) (via : Via) (rc : Rc) (d : List Byte) :
    m.reply via rc d = m.send (.reply via rc d) := by simp [Mod.reply, Mod.count_closed h]

theorem Mod.replyVals_closed {m : Mod} (h : m.is pgPmu PmuF.open_ = false) (via : Via) (rc : Rc) (d : List Nat) :
    m.replyVals via rc d = m.send (.replyVals via rc d) := by simp [Mod.replyVals, Mod.count_closed h]

/-- A completion answers and does nothing else. -/
theorem answers_reply (s : State) (via : Via) (rc : Rc) (d : List Byte) :
    Answers s { s with m := s.m.reply via rc d } (.reply via rc d) :=
  ⟨⟨rfl, rfl, rfl⟩, by simp, by simp, fun h => Mod.reply_closed h via rc d⟩

theorem answers_replyVals (s : State) (via : Via) (rc : Rc) (d : List Nat) :
    Answers s { s with m := s.m.replyVals via rc d } (.replyVals via rc d) :=
  ⟨⟨rfl, rfl, rfl⟩, by simp, by simp, fun h => Mod.replyVals_closed h via rc d⟩

end Sys2Proof.Machine
end

