-- ==== Sys2Proof/Certificates/Slice0/Obligations.lean ====
section
/-!
DEFINITION. Certificates/Slice0/Obligations.lean: the statements for the provers, from the numbered rules of the spec.
-/
open Sys2Proof Sys2Proof.Machine

/-- The read-only commands of the mailbox and of FM-API that name nothing: each answers Success with what the module holds and changes
nothing else. What the completions carry where the payload layout is the standard's is the model's own form (log entry 4). -/
def Obligations.QueryCommandsAnswerAndChangeNothing : Prop :=
  (∀ s via, s.m.mailboxRom via = true → ∃ t, exec (.identifyMemoryDevice via) s = .next t ∧
    Answers s t (.replyVals via .success [Config.vendorId.toNat, 0x5348, 0xB0, 384 * gib, 1280 * gib, Config.serial.toNat])) ∧
  (∀ s via, s.m.mailboxRom via = true → ∃ t, exec (.fmIdentify via) s = .next t ∧
    Answers s t (.replyVals via .success
      [Config.vendorId.toNat, 0x5348, Config.vendorId.toNat, 1, Config.serial.toNat, 384 * gib, 1280 * gib])) ∧
  (∀ s via, s.m.mailbox via = true → ∃ t, exec (.getSupportedLogs via) s = .next t ∧ Answers s t (.replyVals via .success [0, 1])) ∧
  (∀ s via debug off len, s.m.mailbox via = true → ∃ t bs, exec (.getLog via debug off len) s = .next t ∧ bs.length = len ∧
    Answers s t (.reply via .success bs)) ∧
  (∀ s via, s.m.mailbox via = true → ∃ t, exec (.getTimestamp via) s = .next t ∧
    Answers s t (.reply via .success (leBytes 8 (s.m.mgmt.timestamp + s.m.tick)))) ∧
  (∀ s via, s.m.mailbox via = true → ∃ t, exec (.getEventInterruptPolicy via) s = .next t ∧
    Answers s t (.reply via .success ((upto 4).map fun i => BitVec.ofNat 8 (s.m.mgmt.policy.getD i 0)))) ∧
  (∀ s via b, s.m.mailbox via = true → s.m.mgmt.bg.find? (fun b => b.via = via) = some b →
    ∃ t, exec (.backgroundOperationStatus via) s = .next t ∧ Answers s t (.replyVals via .success [1, b.opcode])) ∧
  (∀ s via, s.m.mailbox via = true → s.m.mgmt.bg.find? (fun b => b.via = via) = none →
    ∃ t, exec (.backgroundOperationStatus via) s = .next t ∧ Answers s t (.replyVals via .success [0, 0])) ∧
  (∀ s via, s.m.mailbox via = true → ∃ t, exec (.getResponseMessageLimit via) s = .next t ∧
    Answers s t (.reply via .success (leBytes 1 s.m.mgmt.rspLimit))) ∧
  (∀ s via, s.m.mailbox via = true → ∃ t, exec (.getLdInfo via) s = .next t ∧ Answers s t (.replyVals via .success [1280 * gib, 16])) ∧
  (∀ s via, s.m.mailbox via = true → ∃ t, exec (.getLdAllocations via) s = .next t ∧
    Answers s t (.replyVals via .success s.m.mgmt.ldAlloc)) ∧
  (∀ s via, s.m.mailbox via = true → ∃ t, exec (.eventNotification via) s = .next t ∧ Answers s t (.reply via .success [])) ∧
  (∀ s via, s.m.mailbox via = true → ∃ t, exec (.unsupportedCommand via) s = .next t ∧ Answers s t (.reply via .unsupported [])) ∧
  (∀ s via, s.m.mailbox via = true → ∃ t, exec (.getDcdInfo via) s = .next t ∧
    Answers s t (.replyVals via .success [8, 1280 * gib, 2097152])) ∧
  (∀ s via, s.m.mailbox via = true → ∃ t, exec (.lifecycleGet via) s = .next t ∧
    Answers s t (.reply via .success (leBytes 1 s.fuse.lifecycle ++ leBytes 1 s.fuse.keyGen)))

/-- The read-only commands that name a window, an extent, a region, a context, a page, a domain, a master, a pair or a lexicon: for a name
in range each answers Success with what the module holds and changes nothing else. -/
def Obligations.NamedQueryCommandsAnswerAndChangeNothing : Prop :=
  (∀ s via w x, s.m.mailbox via = true → w < 32768 → mapGet s.m.led.wins w = some x →
    ∃ t, exec (.jwGet via w) s = .next t ∧ Answers s t (.reply via .success (winBytes x.entry))) ∧
  (∀ s via w, s.m.mailbox via = true → w < 32768 → mapGet s.m.led.wins w = none →
    ∃ t, exec (.jwGet via w) s = .next t ∧
      Answers s t (.reply via .success (winBytes { dataBase := 0, dataSize := 0, stopDpa := 0, id := w }))) ∧
  (∀ s via w, s.m.mailbox via = true → w < 32768 →
    ∃ t, exec (.jwStatus via w) s = .next t ∧ Answers s t (.reply via .success (s.m.winStatus w))) ∧
  (∀ s via n e, s.m.mailbox via = true → s.m.ext n = some e →
    ∃ t, exec (.extInfo via n) s = .next t ∧
      Answers s t (.replyVals via .success [e.base, e.size, e.region, e.epoch, e.hosts.length, e.stripe.getD 0])) ∧
  (∀ s via r, s.m.mailbox via = true → r < 8 →
    ∃ t, exec (.regionAttrGet via r) s = .next t ∧
      Answers s t (.reply via .success (leBytes 1 (b2n (s.m.region r).durable + 2 * b2n (s.m.region r).hdmDb + 4 * b2n (s.m.region r).thin) ++
        leBytes 2 (s.m.region r).domain))) ∧
  (∀ s via c l, s.m.mailbox via = true → c < 4096 → mapGet s.m.dir.watch c = some l →
    ∃ t, exec (.watchGet via c) s = .next t ∧
      Answers s t (.reply via .success (leBytes 1 (1 + 2 * b2n (s.m.armed c).isSome) ++ zeros 7 ++ leBytes 8 (l * 64)))) ∧
  (∀ s via dpa, s.m.mailbox via = true → dpa < 1280 * gib →
    ∃ t, exec (.pageInfo via dpa) s = .next t ∧
      Answers s t (.reply via .success (leBytes 8 (s.m.pageWord (dpa / 4096)) ++ leBytes 1 (mapSlice (dpa / 4096)) ++ zeros 7))) ∧
  (∀ s via d, s.m.mailbox via = true → slotBad d = false → s.m.isDomain d = true → s.m.frontOf d = none →
    ∃ t, exec (.keyFrontStatus via d) s = .next t ∧ Answers s t (.reply via .success (leBytes 1 0xFF ++ zeros 15))) ∧
  (∀ s via n, s.m.mailbox via = true → n < 8192 →
    ∃ t, exec (.ringGet via n) s = .next t ∧ Answers s t (.reply via .success (s.m.ringBytes n))) ∧
  (∀ s via x, s.m.mailbox via = true → lexOk x = true →
    ∃ t, exec (.lexInfo via x) s = .next t ∧
      Answers s t (.reply via .success (leBytes 1 (lexCode (mapGet s.m.lex.presets x)) ++ zeros 3 ++
        leBytes 4 (((mapGet s.m.lex.presets x).map Lexicon.len).getD 0) ++
        leBytes 4 (((mapGet s.m.lex.presets x).map Lexicon.crc).getD 0) ++ leBytes 4 (s.m.lexRefs x)))) ∧
  (∀ s via g, s.m.mailbox via = true → s.m.grp.map = some g →
    ∃ t, exec (.grpMapGet via) s = .next t ∧ Answers s t (.reply via .success (mapBody g))) ∧
  (∀ s via, s.m.mailboxRom via = true →
    ∃ t, exec (.getFwInfo via) s = .next t ∧
      Answers s t (.replyVals via .success [2, s.m.get pgGlb GlbF.fwSlot, s.m.boot.named.getD 0, b2n s.m.boot.slot1.image,
        s.m.boot.slot1.version, b2n s.m.boot.slot2.image, s.m.boot.slot2.version])) ∧
  (∀ s via, s.m.mailbox via = true →
    ∃ t, exec (.getHostDcRegionConfig via) s = .next t ∧ Answers s t (.replyVals via .success s.m.regionVals)) ∧
  (∀ s via, s.m.mailbox via = true →
    ∃ t, exec (.getDcRegionExtentLists via) s = .next t ∧
      Answers s t (.replyVals via .success (s.m.fab.extents.flatMap fun e => [e.1, e.2.base, e.2.size, e.2.region, e.2.epoch]))) ∧
  (∀ s via base len, s.m.mailbox via = true →
    ∃ t, exec (.getPoisonList via base len) s = .next t ∧
      Answers s t (.replyVals via .success ((s.m.mgmt.poisonList.filter fun e => overlaps base len e.1 e.2).flatMap fun e => [e.1, e.2]))) ∧
  (∀ s port ld, port < 96 → s.m.ldMailbox port ld = true →
    ∃ t, exec (.getDcExtentList port ld) s = .next t ∧ Answers s t (.ldReply port ld .success (s.m.ldExtents port ld)))

/-- The commands that set what the management core alone keeps: each takes the value it names, answers Success, and changes nothing
else. -/
def Obligations.ManagementSettersStoreTheirValue : Prop :=
  (∀ s via v, s.m.mailbox via = true → ∃ t, exec (.setTimestamp via v) s = .next t ∧
    (t.m.mgmt.timestamp + s.m.tick) % 2 ^ 64 = v % 2 ^ 64 ∧
    ∃ x, Answers (s.withM { s.m with mgmt := { s.m.mgmt with timestamp := x } }) t (.reply via .success [])) ∧
  (∀ s via pol, s.m.mailbox via = true → ∃ t, exec (.setEventInterruptPolicy via pol) s = .next t ∧
    Answers (s.withM { s.m with mgmt := { s.m.mgmt with policy := (upto 4).map fun i => pol.getD i 0 % 256 } }) t
      (.reply via .success [])) ∧
  (∀ s via n, s.m.mailbox via = true → ∃ t, exec (.setResponseMessageLimit via n) s = .next t ∧
    Answers (s.withM { s.m with mgmt := { s.m.mgmt with rspLimit := n % 256 } }) t (.reply via .success (leBytes 1 n))) ∧
  (∀ s via start vals, s.m.mailbox via = true → start + vals.length ≤ 16 → ∃ t new,
    exec (.setLdAllocations via start vals) s = .next t ∧
    Answers (s.withM { s.m with mgmt := { s.m.mgmt with ldAlloc := new } }) t (.replyVals via .success vals) ∧
    new.length = 16 ∧ ∀ i, i < 16 → new.getD i 0 =
      if start ≤ i ∧ i < start + vals.length then vals.getD (i - start) 0 else s.m.mgmt.ldAlloc.getD i 0) ∧
  (∀ s via slot, s.m.mailboxRom via = true → slot = 1 ∨ slot = 2 → (s.m.slotOf slot).image = true → ∃ t,
    exec (.activateFw via false slot) s = .next t ∧
    Answers (s.withM { s.m with boot := { s.m.boot with named := some slot } }) t (.reply via .success [])) ∧
  (∀ s via slot, s.m.mailboxRom via = true → ∃ t, exec (.activateFw via true slot) s = .next t ∧
    Answers s t (.reply via .invalidInput [])) ∧
  (∀ s via slot off len v, s.m.mailboxRom via = true → s.m.stw.fetch = none → s.m.stw.transfer = none →
    slot = 1 ∨ slot = 2 → slot ≠ s.m.get pgGlb GlbF.fwSlot → ∃ t,
    exec (.transferFw via 0 slot off len true v) s = .next t ∧ t.m.out.getLast? = some (.reply via .success []) ∧ Kept s t ∧
    t.m.slotOf slot = { image := true, good := true, version := v } ∧
    (∀ k, k = 1 ∨ k = 2 → k ≠ slot → t.m.slotOf k = s.m.slotOf k) ∧ t.m.mem = s.m.mem)

/-- Event records (R203): Get Event Records returns the records of its log and how many were lost; Clear Event Records removes the named
ones, or all of them with the count of the lost; Set Event Records adds one, or counts it lost where the log is full (log entry 13). -/
def Obligations.EventRecordCommandsReadClearAndAppend : Prop :=
  (∀ s via n v, s.m.mailbox via = true → sevOf n = some v → ∃ t, exec (.getEventRecords via n) s = .next t ∧
    t.m.out.getLast? = some (.records via (s.m.mgmt.logs.recs.filter fun r => r.sev = v) (mapGetD s.m.mgmt.logs.lost n 0)) ∧
    t.m.mgmt = s.m.mgmt ∧ t.m.mem = s.m.mem ∧ Kept s t) ∧
  (∀ s via n v, s.m.mailbox via = true → sevOf n = some v → ∃ t, exec (.clearEventRecords via n true []) s = .next t ∧
    t.m.out.getLast? = some (.reply via .success []) ∧ Kept s t ∧
    t.m.mgmt.logs.recs = s.m.mgmt.logs.recs.filter (fun r => r.sev != v) ∧ t.m.mgmt.logs.lost = mapDel s.m.mgmt.logs.lost n ∧
    t.m.mgmt.poisonList = s.m.mgmt.poisonList ∧ t.m.mem = s.m.mem) ∧
  (∀ s via n v hs, s.m.mailbox via = true → sevOf n = some v →
    (∀ h, h ∈ hs → ∃ r, r ∈ s.m.mgmt.logs.recs ∧ r.handle = h ∧ r.sev = v) →
    ∃ t, exec (.clearEventRecords via n false hs) s = .next t ∧
      t.m.out.getLast? = some (.reply via .success []) ∧ Kept s t ∧ t.m.mem = s.m.mem ∧
      t.m.mgmt.logs.recs = s.m.mgmt.logs.recs.filter (fun r => !(r.sev = v && hs.contains r.handle))) ∧
  (∀ s via n v hs, s.m.mailbox via = true → sevOf n = some v →
    (∃ h, h ∈ hs ∧ ∀ r, r ∈ s.m.mgmt.logs.recs → r.sev = v → r.handle ≠ h) →
    ∃ t, exec (.clearEventRecords via n false hs) s = .next t ∧ Answers s t (.reply via .invalidHandle [])) ∧
  (∀ s via n v args, s.m.mailbox via = true → sevOf n = some v → (s.m.mgmt.logs.recs.filter fun r => r.sev = v).length < 1024 →
    ∃ t, exec (.setEventRecords via n args) s = .next t ∧ t.m.out.getLast? = some (.reply via .success []) ∧ Kept s t ∧
      t.m.mgmt.logs.recs = s.m.mgmt.logs.recs ++
        [{ handle := s.m.mgmt.logs.next, sev := v, kind := .hostSet, args := args, at_ := s.m.tick }] ∧ t.m.mem = s.m.mem) ∧
  (∀ s via n v args, s.m.mailbox via = true → sevOf n = some v → 1024 ≤ (s.m.mgmt.logs.recs.filter fun r => r.sev = v).length →
    ∃ t, exec (.setEventRecords via n args) s = .next t ∧ t.m.mgmt.logs.recs = s.m.mgmt.logs.recs ∧
      mapGetD t.m.mgmt.logs.lost n 0 = mapGetD s.m.mgmt.logs.lost n 0 + 1)

/-- The link commands of a host port (R162, R163, R180, R183, R187): a training port comes up at the rate, width and flit mode it trained
to; RETRAIN, DRAIN and LINK_DISABLE act on a port in the host role; IDE_KM makes link IDE active. The frame: the work of the module, the
fuses, the power entry stage and the queue are as before, but for the port's own entry. -/
def Obligations.HostPortCommandsMoveTheLink : Prop :=
  (∀ s port speed width f256 lat, port < 96 → s.m.runs = true → s.m.saving = false → s.m.hostRole port = true → s.m.restored = true →
    s.m.clocked port = true → s.m.quadChanging port = false → s.m.is (pgPrt port) PrtF.hostLinkDisable = false →
    s.m.get (pgPrt port) PrtF.hostLinkState = 1 → s.m.gfdMode port = false → 1 ≤ speed → speed ≤ 5 →
    speed = s.m.get (pgPrt port) PrtF.hostMaxSpeed → width = 4 ∨ width = 8 ∨ width = 16 → f256 = true ∨ s.m.needs256 port = false →
    ∃ t, exec (.hostLinkUp port speed width f256 lat) s = .next t ∧ Kept s t ∧ t.m.work = s.m.work ∧
      t.m.get (pgPrt port) PrtF.hostLinkState = 2 ∧ t.m.get (pgPrt port) PrtF.hostSpeed = speed ∧
      t.m.get (pgPrt port) PrtF.hostWidth = width ∧
      t.m.get (pgPrt port) PrtF.hostFlitMode = (if f256 = false ∧ speed ≠ 5 then 1
        else if speed = 5 ∧ lat = true ∧ s.m.is (pgPrt port) PrtF.hostLatOptEn = true then 3 else 2)) ∧
  (∀ s port, port < 96 → s.m.hostRole port = true → s.m.is (pgPrt port) PrtF.hostLinkDisable = false →
    s.m.get (pgPrt port) PrtF.hostLinkState = 2 ∨ s.m.get (pgPrt port) PrtF.hostLinkState = 4 →
    ∃ t, exec (.hostRetrain port) s = .next t ∧ Kept s t ∧ t.m.work = s.m.work ∧ t.m.get (pgPrt port) PrtF.hostRetrain = 1 ∧
      t.m.get (pgPrt port) PrtF.hostLinkState = if s.m.get (pgPrt port) PrtF.hostLinkState = 2 then 2 else 1) ∧
  (∀ s port, port < 96 → s.m.hostRole port = true → s.m.get (pgPrt port) PrtF.hostLinkState = 2 →
    ∃ t, exec (.drain port) s = .next t ∧ Kept s t ∧ t.m.mem = s.m.mem ∧ t.m.led = s.m.led ∧
      t.m.get (pgPrt port) PrtF.hostLinkState = 3 ∧ t.m.get (pgPrt port) PrtF.hostDrain = 1 ∧
      t.m.hp port = { s.m.hp port with drain := some (.write, s.m.tick) }) ∧
  (∀ s port, port < 96 → s.m.hostRole port = true → s.m.get (pgPrt port) PrtF.hostLinkState = 2 →
    ∃ t, exec (.linkDisable port true) s = .next t ∧ Kept s t ∧ t.m.mem = s.m.mem ∧ t.m.led = s.m.led ∧
      t.m.get (pgPrt port) PrtF.hostLinkDisable = 1 ∧ t.m.get (pgPrt port) PrtF.hostLinkState = 3 ∧
      t.m.hp port = { s.m.hp port with drain := some (.disable, s.m.tick) }) ∧
  (∀ s port, port < 96 → s.m.get (pgPrt port) PrtF.hostLinkState = 1 →
    ∃ t, exec (.linkDisable port true) s = .next t ∧ Kept s t ∧ t.m.work = s.m.work ∧
      t.m.get (pgPrt port) PrtF.hostLinkDisable = 1 ∧ t.m.get (pgPrt port) PrtF.hostLinkState = 0) ∧
  (∀ s port, port < 96 → s.m.runs = true → s.m.hostRole port = true → s.m.portUp port = true →
    ∃ t, exec (.ideKm port true true) s = .next t ∧ Kept s t ∧ t.m.mem = s.m.mem ∧
      t.m.hp port = { s.m.hp port with ideMem := true, insecure := false } ∧ t.m.get (pgPrt port) PrtF.hostIdeActive = 1) ∧
  (∀ s port mem, port < 96 → ∃ t, exec (.ideKm port mem false) s = .next t ∧ t = s)

/-- A host link is lost, drained or reset (R181, R183, R461, R473): the port is down, and its link IDE with it. The statement is about a
port that carried no context and does not bear the steward function, whose LINK_DOWN is not set fatal; the memory is as before. -/
def Obligations.LinkLossesTakeTheHostPortDown : Prop :=
  (∀ s port, port < 96 → s.m.runs = true → s.m.hostRole port = true → s.m.portUp port = true → s.m.ctxsOn port = [] →
    s.m.isSteward port = false → bit (s.m.get (pgPrt port) HdrF.errSev) 8 = false →
    ∃ t, exec (.hostLinkLoss port) s = .next t ∧ Kept s t ∧ t.m.mem = s.m.mem ∧ t.m.portUp port = false ∧
      (t.m.hp port).ideMem = false ∧ (t.m.hp port).drain = none ∧
      t.m.get (pgPrt port) PrtF.hostLinkState = (if s.m.is (pgPrt port) PrtF.hostLinkDisable = true then 0 else 1)) ∧
  (∀ s port d, port < 96 → s.m.portUp port = true → (s.m.hp port).drain = some d → s.m.drainOwes port = false → s.m.ctxsOn port = [] →
    s.m.isSteward port = false → bit (s.m.get (pgPrt port) HdrF.errSev) 8 = false →
    ∃ t, exec (.drainComplete port) s = .next t ∧ Kept s t ∧ t.m.mem = s.m.mem ∧ t.m.get (pgPrt port) PrtF.hostLinkState = 0 ∧
      t.m.get (pgPrt port) PrtF.hostDrain = 0 ∧ (t.m.hp port).drain = none) ∧
  (∀ s port why began, port < 96 → s.m.is pgPmu PmuF.open_ = false → s.m.portUp port = true → (s.m.hp port).drain = some (why, began) →
    s.m.ctxsOn port = [] → s.m.isSteward port = false → bit (s.m.get (pgPrt port) HdrF.errSev) 8 = false →
    bit (s.m.get (pgPrt port) HdrF.errSev) 17 = false →
    ∃ t, exec (.drainTimeout port) s = .next t ∧ Kept s t ∧ t.m.mem = s.m.mem ∧ began + 1000000 ≤ t.m.tick ∧ s.m.tick ≤ t.m.tick ∧
      t.m.get (pgPrt port) PrtF.hostLinkState = 0 ∧ bit (t.m.get (pgPrt port) HdrF.err) 17 = true ∧ (t.m.hp port).drain = none) ∧
  (∀ s port, port < 96 → s.m.runs = true → s.m.hostRole port = true → s.m.portUp port = true → s.m.ctxsOn port = [] →
    s.m.isSteward port = false → bit (s.m.get (pgPrt port) HdrF.errSev) 8 = false → s.m.quadChanging port = false →
    s.m.is (pgPrt port) PrtF.hostLinkDisable = false →
    ∃ t, exec (.portReset port) s = .next t ∧ Kept s t ∧ t.m.mem = s.m.mem ∧ t.m.get (pgPrt port) PrtF.hostLinkState = 1 ∧
      t.m.get (pgPrt port) PrtF.hostSpeed = 0) ∧
  (∀ s, s.m.runs = true → (∀ n, n < 96 → s.m.hostRole n = true → s.m.portUp n = true ∧ s.m.ctxsOn n = [] ∧ s.m.isSteward n = false ∧
      bit (s.m.get (pgPrt n) HdrF.errSev) 8 = false ∧ s.m.quadChanging n = false ∧ s.m.is (pgPrt n) PrtF.hostLinkDisable = false) →
    ∃ t, exec .perstN s = .next t ∧ Kept s t ∧ t.m.mem = s.m.mem ∧
      ∀ n, n < 96 → s.m.hostRole n = true → t.m.get (pgPrt n) PrtF.hostLinkState = 1)

/-- Configuration of regions, contexts, decoders and alias windows (R166, R168, R170, R178): a command that its rule accepts stores exactly
what it names, answers Success, and changes nothing else. HOST_CTX_RESET (R182, R239, R357) of a context without snoops, directory entries,
a watched line or ring pairs makes its queued responses unwanted. The commit rules of a decoder are the standard's (log entry 24). -/
def Obligations.FabricConfigurationStoresWhatItNames : Prop :=
  (∀ s via r base len, s.m.mailbox via = true → r < 8 → base % 2097152 = 0 → len % 2097152 = 0 → base + len ≤ 1280 * gib →
    (∀ e, e ∈ s.m.fab.regions → e.1 ≠ r → overlaps base len e.2.base e.2.len = false) → s.m.regionUsed r = false →
    ∃ t, exec (.setDcRegionConfig via r base len) s = .next t ∧
      t.m.fab = { s.m.fab with regions := mapPut s.m.fab.regions r { s.m.region r with base := base, len := len } } ∧
      t.m.work = { s.m with fab := t.m.fab }.work ∧ Kept s t ∧ t.m.out.getLast? = some (.reply via .success [])) ∧
  (∀ s via r dur db thin d, s.m.mailbox via = true → r < 8 → 0 < d → d ≤ 4095 → ¬(dur = true ∧ thin = true) →
    (dur = true → s.m.isDomain d = true → s.m.modeOf d = 2) → s.m.regionUsed r = false →
    ∃ t, exec (.regionAttrSet via r dur db thin d) s = .next t ∧
      t.m.fab = { s.m.fab with regions := mapPut s.m.fab.regions r { s.m.region r with durable := dur, hdmDb := db, thin := thin, domain := d } } ∧
      t.m.work = { s.m with fab := t.m.fab }.work ∧ Kept s t ∧ t.m.out.getLast? = some (.reply via .success [])) ∧
  (∀ s via r dur db thin d, s.m.mailbox via = true → r < 8 → 0 < d → d ≤ 4095 → ¬(dur = true ∧ thin = true) →
    (dur = true → s.m.isDomain d = true → s.m.modeOf d = 2) → s.m.regionUsed r = true →
    ∃ t, exec (.regionAttrSet via r dur db thin d) s = .next t ∧ Answers s t (.reply via .busy [])) ∧
  (∀ s via c, s.m.mailbox via = true → c < 4096 → ∃ t, exec (.hostCtxSet via c true) s = .next t ∧
    (∀ x, x ∈ t.m.fab.ctxOn ↔ x = c ∨ x ∈ s.m.fab.ctxOn) ∧ t.m.out.getLast? = some (.reply via .success []) ∧ Kept s t ∧
    t.m.mem = s.m.mem ∧ t.m.fab.grants = s.m.fab.grants ∧ t.m.led = s.m.led) ∧
  (∀ s via c dec base size ways gran pos dpa, s.m.mailbox via = true → c < 4096 → dec < 8 → 0 < size → base % 268435456 = 0 →
    size % 268435456 = 0 → waysOk ways = true → granOk gran = true → pos < ways → dpa % 2097152 = 0 → dpa + size / ways ≤ 1280 * gib →
    (∀ i d, i < 8 → i ≠ dec → mapGet s.m.fab.gfd (c * 8 + i) = some d → overlaps base size d.base d.size = false) →
    ∃ t, exec (.hostDecSet via c dec base size ways gran pos dpa) s = .next t ∧
      mapGet t.m.fab.gfd (c * 8 + dec) = some { base := base, size := size, ways := ways, gran := gran, pos := some pos, dpa := dpa } ∧
      (∀ k, k ≠ c * 8 + dec → mapGet t.m.fab.gfd k = mapGet s.m.fab.gfd k) ∧
      t.m.work = { s.m with fab := { s.m.fab with gfd := t.m.fab.gfd } }.work ∧ Kept s t ∧
      t.m.out.getLast? = some (.reply via .success [])) ∧
  (∀ s via c w base span dpa cons, s.m.mailbox via = true → c < 4096 → w < 4 → spanOk span = true → base % (32 * span) = 0 →
    dpa % 2097152 = 0 →
    ∃ t, exec (.aliasSet via c w base span dpa cons) s = .next t ∧
      mapGet t.m.fab.alias_ (c * 4 + w) =
        some { base := base, span := span, dpa := dpa, consumers := (upto 16).map fun i => cons.getD i 0xFFFF % 65536 } ∧
      (∀ k, k ≠ c * 4 + w → mapGet t.m.fab.alias_ k = mapGet s.m.fab.alias_ k) ∧
      t.m.work = { s.m with fab := { s.m.fab with alias_ := t.m.fab.alias_ } }.work ∧ Kept s t ∧
      t.m.out.getLast? = some (.reply via .success [])) ∧
  (∀ s port ld base size ways gran skip, port < 96 → s.m.ldMailbox port ld = true → 0 < size → base % 268435456 = 0 →
    size % (268435456 * ways) = 0 → waysOk ways = true → granOk gran = true → skip + size / ways ≤ 1280 * gib →
    ∃ t, exec (.hdmDecoderCommit port ld 0 base size ways gran skip) s = .next t ∧ Kept s t ∧
      mapGet t.m.fab.hdm ((port * 16 + ld) * 4) = some { base := base, size := size, ways := ways, gran := gran, pos := none, dpa := skip } ∧
      t.m = { s.m with fab := { s.m.fab with hdm := t.m.fab.hdm } }) ∧
  (∀ s via c, s.m.mailbox via = true → c < 4096 → s.m.bgBusy via = false → s.m.dir = Dir.reset → s.m.rng = [] →
    (∀ n, n < 8192 → s.m.rf n RingEF.ownerCtx ≠ c ∨ s.m.rf n RingEF.state = 0) →
    ∃ t, exec (.hostCtxReset via c) s = .next t ∧ t.m.out.getLast? = some (.reply via .success []) ∧ Kept s t ∧ t.m.mem = s.m.mem ∧
      t.m.led.reqs = s.m.led.reqs.map (fun r => match r.who with
        | .host _ x => if x = c then { r with mute := true } else r
        | _ => r) ∧
      mapGet t.m.dir.watch c = none ∧ t.m.fab.grants = s.m.fab.grants)

/-- The common header (R28, R33, R34, R35, R37, R41): ENABLE takes an OFF block to READY and a READY one to OFF or into draining; a drained
block enters OFF; a block reset of the drizzle tester restores the region under test, starts its pass again and returns every field that a
block reset reaches; PAGE_LOCK is set; PAGE_ERR bits clear; a register write of a counter takes its value. Each leaves everything else of
the module, its fuses, its power entry stage and its queue as they were. -/
def Obligations.PageHeaderCommandsChangeTheirPage : Prop :=
  (∀ s p, pageOk p = true → s.m.runs = true → capReset p.ty = true → s.m.is p HdrF.enable = false → s.m.blockState p = stOff →
    exec (.pageEnableSet p) s = .next (s.withM ((s.m.set p HdrF.enable 1).setState p stReady))) ∧
  (∀ s p, pageOk p = true → s.m.runs = true → capReset p.ty = true → s.m.is p HdrF.enable = true → s.m.works p = true →
    s.m.inFlight p = false → exec (.pageEnableClear p) s = .next (s.withM ((s.m.set p HdrF.enable 0).setState p stOff))) ∧
  (∀ s p, pageOk p = true → s.m.runs = true → capReset p.ty = true → s.m.is p HdrF.enable = true →
    s.m.inFlight p = true → exec (.pageEnableClear p) s = .next (s.withM (s.m.set p HdrF.enable 0))) ∧
  (∀ s p, pageOk p = true → s.m.runs = true → s.m.is p HdrF.enable = false → s.m.works p = true → s.m.inFlight p = false →
    exec (.blockDrained p) s = .next (s.withM (s.m.setState p stOff))) ∧
  (∀ s, s.m.runs = true → ∃ t, exec (.blockReset pgDrz) s = .next t ∧ Kept s t ∧
    t.m.work = { s.m with drz := { s.m.drz with under := none } }.work ∧ t.m.get pgDrz DrzF.region = 0 ∧
    t.m.blockState pgDrz = (if s.m.blockState pgDrz = stFault then stOff else if s.m.is pgDrz HdrF.enable = true then stReady else stOff) ∧
    ∀ f, f ∈ allFields .drz → blockResets f = true → t.m.get pgDrz f = t.m.fldReset pgDrz f) ∧
  (∀ s p, pageOk p = true → s.m.runs = true → capLock p.ty = true →
    exec (.pageLockSet p) s = .next (s.withM (s.m.set p HdrF.lock 1))) ∧
  (∀ s p ones, pageOk p = true → s.m.runs = true → ∃ t, exec (.pageErrClear p ones) s = .next t ∧ Kept s t ∧ t.m.work = s.m.work ∧
    (∀ i, i < 64 → bit (t.m.get p HdrF.err) i = (bit (s.m.get p HdrF.err) i && !bit ones i)) ∧
    (s.m.is p HdrF.valid = true → bit (s.m.get p HdrF.err) (s.m.get p HdrF.errIndex) = true → bit ones (s.m.get p HdrF.errIndex) = true →
      t.m.get p HdrF.valid = 0)) ∧
  (∀ s p v, pageOk p = true → s.m.barOpen = true →
    exec (.registerWrite { space := .bar0, off := pageAddr p + 0x80, size := 8, val := some v }) s =
      .next (s.withM (s.m.set p HdrF.evt0Count v)))

/-- The performance counters' gate (R453 to R457): MODE opens or closes it, at START_TICK and STOP_TICK in MODE 1, which is refused with a
STOP_TICK that is not above START_TICK or has passed; SNAP samples every counter; a counter of another block at 2^48 - 1 wraps to 0, sets
its OVF and COUNTER_WRAP and, with FREEZE_ON_OVF, closes the gate. Where time passes to a deadline, the tick moves there: the model's choice
(log entry 12). -/
def Obligations.CounterGateOpensClosesAndSamples : Prop :=
  (∀ s z, exec (.pmuGateMode 0 z) s =
    .next (s.withM (((s.m.set pgPmu PmuF.freezeOnOvf (b2n z)).set pgPmu PmuF.mode 0).set pgPmu PmuF.open_ 1))) ∧
  (∀ s z, exec (.pmuGateMode 2 z) s =
    .next (s.withM (((s.m.set pgPmu PmuF.freezeOnOvf (b2n z)).set pgPmu PmuF.mode 2).set pgPmu PmuF.open_ 0))) ∧
  (∀ s z, s.m.get pgPmu PmuF.startTick < s.m.get pgPmu PmuF.stopTick → s.m.tick < s.m.get pgPmu PmuF.stopTick →
    exec (.pmuGateMode 1 z) s = .next (s.withM (((s.m.set pgPmu PmuF.freezeOnOvf (b2n z)).set pgPmu PmuF.mode 1).set pgPmu PmuF.open_
      (b2n (decide (s.m.get pgPmu PmuF.startTick ≤ s.m.tick)))))) ∧
  (∀ s z, (s.m.get pgPmu PmuF.stopTick ≤ s.m.get pgPmu PmuF.startTick ∨ s.m.get pgPmu PmuF.stopTick ≤ s.m.tick) →
    bit (s.m.get pgPmu HdrF.errSev) 0 = false →
    ∃ t, exec (.pmuGateMode 1 z) s = .next t ∧ Kept s t ∧ t.m.work = s.m.work ∧ bit (t.m.get pgPmu HdrF.err) 0 = true ∧
      (z = false → t.m.get pgPmu PmuF.mode = s.m.get pgPmu PmuF.mode ∧ t.m.get pgPmu PmuF.open_ = s.m.get pgPmu PmuF.open_)) ∧
  (∀ s, s.m.get pgPmu PmuF.mode = 1 → s.m.tick < s.m.get pgPmu PmuF.stopTick → s.m.is pgPmu PmuF.open_ = false →
    exec .gateStartTick s = .next (s.withM
      ({ s.m with tick := max s.m.tick (s.m.get pgPmu PmuF.startTick) }.set pgPmu PmuF.open_ 1))) ∧
  (∀ s, s.m.get pgPmu PmuF.mode = 1 → s.m.get pgPmu PmuF.startTick ≤ s.m.tick → ∃ t, exec .gateStopTick s = .next t ∧ Kept s t ∧
    t.m.is pgPmu PmuF.open_ = false ∧ t.m.work = { s.m with tick := max s.m.tick (s.m.get pgPmu PmuF.stopTick) }.work) ∧
  (∀ s, ∃ t, exec .snap s = .next t ∧ Kept s t ∧ t.m.work = { s.m with snap := s.m.regs.filter fun e => isCounterKey e.1 }.work ∧
    t.m.get pgPmu PmuF.snapValid = 1 ∧ t.m.get pgPmu PmuF.snapTick = s.m.tick % 2 ^ 64) ∧
  (∀ s p n, pageOk p = true → n < 4 → p.ty ≠ .pmu → p.ty ≠ .stw → s.m.is pgPmu PmuF.open_ = true → s.m.is p (evtEnable n) = true →
    s.m.get p (evtEvent n) ≠ 0 → s.m.get p (evtCount n) = 2 ^ 48 - 1 →
    ∃ t, exec (.counterWrap p n) s = .next t ∧ Kept s t ∧ t.m.work = s.m.work ∧ t.m.get p (evtCount n) = 0 ∧
      t.m.get p (evtOvf n) = 1 ∧ bit (t.m.get pgPmu HdrF.err) 8 = true ∧
      t.m.is pgPmu PmuF.open_ = !s.m.is pgPmu PmuF.freezeOnOvf ∧
      (s.m.is pgPmu PmuF.freezeOnOvf = true → t.m.get pgPmu PmuF.mode = 2))

/-- Requests of hosts on a line at hand (R56, R165, R174, R218, R249): a read whose context's grant carries it answers with the line and
its poison; a write stores its line, a partial write the bytes it enables, and is completed. Every other byte of memory, the windows, full
stops and writes that await protection, the extents, the grants, the fuses and the queue are as before. -/
def Obligations.HostRequestsReadAndWriteTheirLine : Prop :=
  (∀ s src c hpa want dpa hint cons x ep f, s.m.accepts src c → s.m.target src c hpa = .at dpa hint cons →
    s.m.checkReq src c (lineOf dpa * 64) = .ok x ep → s.m.lineQuiet (lineOf dpa) → s.m.lineAtHand (lineOf dpa) f →
    ∃ t, exec (.memrd src hpa want .clean) s = .next t ∧ Kept s t ∧ t.m.mem = s.m.mem ∧ t.m.poison = s.m.poison ∧
      t.m.out.getLast? = some (.memData src .i (s.m.line (lineOf dpa)) (s.m.isPoisoned (lineOf dpa))) ∧
      t.m.led.wins = s.m.led.wins ∧ t.m.led.stops = s.m.led.stops ∧ t.m.led.dws = s.m.led.dws ∧ t.m.dir = s.m.dir ∧
      t.m.fab.extents = s.m.fab.extents ∧ t.m.fab.grants = s.m.fab.grants) ∧
  (∀ s src c hpa dpa hint cons x ep f, s.m.accepts src c → s.m.target src c hpa = .at dpa hint cons →
    s.m.checkReq src c (lineOf dpa * 64) = .ok x ep → s.m.lineQuiet (lineOf dpa) → s.m.lineAtHand (lineOf dpa) f →
    ∃ t, exec (.memrddata src hpa) s = .next t ∧ Kept s t ∧ t.m.mem = s.m.mem ∧ t.m.poison = s.m.poison ∧
      t.m.out.getLast? = some (.memData src .i (s.m.line (lineOf dpa)) (s.m.isPoisoned (lineOf dpa))) ∧
      t.m.led.wins = s.m.led.wins ∧ t.m.led.stops = s.m.led.stops ∧ t.m.led.dws = s.m.led.dws ∧ t.m.dir = s.m.dir ∧
      t.m.fab.extents = s.m.fab.extents ∧ t.m.fab.grants = s.m.fab.grants) ∧
  (∀ s src c hpa keep data poison dpa hint cons x ep f, s.m.accepts src c → s.m.target src c hpa = .at dpa hint cons →
    s.m.checkReq src c (lineOf dpa * 64) = .ok x ep → s.m.lineQuiet (lineOf dpa) → s.m.lineAtHand (lineOf dpa) f →
    ∃ t, exec (.memwr src hpa keep data poison) s = .next t ∧ Kept s t ∧
      t.m.mem = Memory.putBytes s.m.mem (lineOf dpa * 64) (asLine data) ∧
      t.m.poison = (if poison = true then mapPut s.m.poison (lineOf dpa) 1 else mapDel s.m.poison (lineOf dpa)) ∧
      t.m.out.getLast? = some (.memDone src) ∧
      t.m.led.wins = s.m.led.wins ∧ t.m.led.stops = s.m.led.stops ∧ t.m.led.dws = s.m.led.dws ∧
      t.m.fab.extents = s.m.fab.extents ∧ t.m.fab.grants = s.m.fab.grants) ∧
  (∀ s src c hpa data be poison dpa hint cons x ep f, s.m.accepts src c → s.m.target src c hpa = .at dpa hint cons →
    s.m.checkReq src c (lineOf dpa * 64) = .ok x ep → s.m.lineQuiet (lineOf dpa) → s.m.lineAtHand (lineOf dpa) f →
    ∃ t, exec (.memwrptl src hpa data be poison) s = .next t ∧ Kept s t ∧
      t.m.mem = Memory.putBytes s.m.mem (lineOf dpa * 64) (mergeMask (be % 2 ^ 64) (s.m.line (lineOf dpa)) (asLine data)) ∧
      t.m.poison = (if s.m.mergedPoison (lineOf dpa) (be % 2 ^ 64) poison = true then mapPut s.m.poison (lineOf dpa) 1
        else mapDel s.m.poison (lineOf dpa)) ∧ t.m.out.getLast? = some (.memDone src) ∧
      t.m.led.wins = s.m.led.wins ∧ t.m.led.stops = s.m.led.stops ∧ t.m.led.dws = s.m.led.dws ∧
      t.m.fab.extents = s.m.fab.extents ∧ t.m.fab.grants = s.m.fab.grants)

/-- Evictions, snoop responses and conflicts of hosts (R217, R219, R226, R231): the context leaves the line's entry; a response to a wake
or to a set's walk ends its snoop with its effect on the entry; a conflict is acknowledged, behind the context's response unless a request of
it waits at the line. Memory and the grants are as before. -/
def Obligations.HostNoticesMoveTheDirectory : Prop :=
  (∀ s src c hpa dpa hint cons x ep, s.m.accepts src c → s.m.target src c hpa = .at dpa hint cons → s.m.checkReq src c dpa = .ok x ep →
    ∃ t, exec (.memclnevct src hpa) s = .next t ∧ Kept s t ∧ t.m.mem = s.m.mem ∧ t.m.led = s.m.led ∧
      t.m.dir = (if s.m.coherent (lineOf dpa) = true then (s.m.dirDrop (lineOf dpa) c).dir else s.m.dir) ∧
      t.m.fab.grants = s.m.fab.grants ∧ t.m.out.getLast? = some (.memDone src)) ∧
  (∀ s port id c dpa shared x, port < 96 → s.m.runs = true → s.m.hostRole port = true → s.m.portUp port = true →
    s.m.ctxOf { port := port, id := id, tag := 0, ideOk := true } = some c →
    (s.m.dir.snoops.find? fun q => q.line = lineOf dpa && q.ctx = c && q.port = port) = some x → x.why = .wake ∨ x.why = .walk →
    ∃ t, exec (.birsp port id dpa shared) s = .next t ∧ Kept s t ∧ t.m.mem = s.m.mem ∧ t.m.led = s.m.led ∧ t.m.fab = s.m.fab ∧
      t.m.dir.snoops = s.m.dir.snoops.filter (fun q => q != x) ∧
      t.m.dir.onDie = ((({ s.m with dir := { s.m.dir with snoops := s.m.dir.snoops.filter fun q => q != x } } : Mod).snoopEffect
        (lineOf dpa) c x.inv shared).clearBisnp (lineOf dpa)).dir.onDie) ∧
  (∀ s port id c dpa, port < 96 → s.m.runs = true → s.m.hostRole port = true → s.m.portUp port = true →
    s.m.ctxOf { port := port, id := id, tag := 0, ideOk := true } = some c →
    ∃ t, exec (.biconflict port id dpa) s = .next t ∧ Kept s t ∧ t.m.work = s.m.work ∧
      t.m.out.getLast? = some (.conflictAck port c dpa (!(s.m.led.reqs.any fun r => r.line = lineOf dpa && r.ctx = some c))))

/-- What falls due at a line (R216, R228, R230, R236, R242, R364, R373): the only request that waits at a slice is admitted and served, the
next request of a line starts, a tenure ends at its tick, a snoop that times out counts as answered and its context leaves the entry, a
recovered directory set is valid again, and a probe shows what the directory holds. Where time passes to a deadline, the tick moves there:
the model's choice (log entry 12). -/
def Obligations.DueEventsOfLinesRun : Prop :=
  (∀ s slice pick r src c x ep f, slice < 64 → s.m.runs = true → s.m.saving = false → s.m.led.reqs = [r] → r.wait = .ingress →
    sliceOf r.line = slice → r.who = .host src c → r.mute = false → r.op = .rdCur → s.m.checkReq src c (r.line * 64) = .ok x ep →
    s.m.stopHeld r.line = false → s.m.dir.lost = [] → s.m.entriesUsed slice < 1024 → s.m.lineAtHand r.line f →
    ∃ t, exec (.ingressAdmit slice pick) s = .next t ∧ Kept s t ∧ t.m.mem = s.m.mem ∧ t.m.led.reqs = [] ∧ t.m.dir = s.m.dir ∧
      t.m.out.getLast? = some (.memData src .i (s.m.line r.line) (s.m.isPoisoned r.line))) ∧
  (∀ s dpa r src c f, s.m.runs = true → s.m.saving = false → s.m.led.reqs = [r] → r.wait = .line → r.line = lineOf dpa →
    r.who = .host src c → r.mute = false → r.op = .rdCur → s.m.stopHeld r.line = false → s.m.dir.lost = [] → s.m.lineAtHand r.line f →
    ∃ t, exec (.lineTransactionStart dpa) s = .next t ∧ Kept s t ∧ t.m.mem = s.m.mem ∧ t.m.led.reqs = [] ∧ t.m.dir = s.m.dir ∧
      t.m.out.getLast? = some (.memData src .i (s.m.line r.line) (s.m.isPoisoned r.line))) ∧
  (∀ s dpa e, s.m.runs = true → s.m.dirEnt (lineOf dpa) = some e → e.tenure = true → s.m.dir.wakePend = [] →
    (∀ r, r ∈ s.m.led.reqs → r.line ≠ lineOf dpa) →
    ∃ t, exec (.tenureEnd dpa) s = .next t ∧ Kept s t ∧ t.m.mem = s.m.mem ∧ t.m.led = s.m.led ∧ t.m.tick = max s.m.tick e.tend ∧
      t.m.dirEnt (lineOf dpa) = some { e with tenure := false } ∧ t.m.fab = s.m.fab) ∧
  (∀ s dpa ctx x, s.m.runs = true → (s.m.dir.snoops.find? fun q => q.line = lineOf dpa && q.ctx = ctx) = some x → x.why = .wake →
    bit (s.m.get (pgHsl (sliceOf (lineOf dpa))) HdrF.errSev) 8 = false →
    ∃ t, exec (.bisnpTimeout dpa ctx) s = .next t ∧ Kept s t ∧ t.m.mem = s.m.mem ∧ t.m.led = s.m.led ∧
      t.m.tick = max s.m.tick (x.sent + s.m.get (pgHsl 0) HslF.bisnpTimeoutMs * ms) ∧ (lineOf dpa, ctx) ∈ t.m.dir.late ∧
      t.m.dir.snoops = s.m.dir.snoops.filter (fun q => q != x) ∧
      bit (t.m.get (pgHsl (sliceOf (lineOf dpa))) HdrF.err) 8 = true) ∧
  (∀ s slice x, slice < 64 → s.m.runs = true → s.m.dir.lost = [x] → x.slice = slice →
    (∀ q, q ∈ s.m.dir.snoops → q.why = .walk → sliceOf q.line ≠ slice) →
    exec (.dirSetRecoveryDone slice) s =
      .next (s.withM (({ s.m with dir := { s.m.dir with lost := [] } } : Mod).progress (pgHsl slice) 0 10000 x.total))) ∧
  (∀ s slice, slice < 64 →
    (∀ d, d ∈ s.m.dir.onDie ++ s.m.dir.inMem → ∀ e, e ∈ d.2 → sliceOf e.line = slice →
      sliceLine e.line ≠ s.m.get (pgHsl slice) HslF.probeLine) →
    ∃ t, exec (.dirProbe slice) s = .next t ∧ Kept s t ∧ t.m.work = s.m.work ∧ t.m.out = s.m.out ∧ t.m.get (pgHsl slice) HslF.found = 0 ∧
      t.m.get (pgHsl slice) HslF.probeLo = 0 ∧ t.m.get (pgHsl slice) HslF.probeHi = 0) ∧
  (∀ s slice d e, slice < 64 → d ∈ s.m.dir.onDie → e ∈ d.2 → sliceOf e.line = slice →
    sliceLine e.line = s.m.get (pgHsl slice) HslF.probeLine →
    ∃ t, ∃ q : DirEnt, exec (.dirProbe slice) s = .next t ∧ Kept s t ∧ t.m.work = s.m.work ∧ t.m.out = s.m.out ∧
      t.m.get (pgHsl slice) HslF.found = 1 ∧ t.m.get (pgHsl slice) HslF.where_ = 0 ∧ sliceOf q.line = slice ∧
      sliceLine q.line = sliceLine e.line ∧ t.m.get (pgHsl slice) HslF.probeLo = q.word % 2 ^ 64)

/-- WATCH_SET (R238, R240): a watched line needs an ACTIVE grant of a line of an HDM-DB extent; VALID 0 clears it. -/
def Obligations.WatchSetSetsTheWatchedLine : Prop :=
  (∀ s via ctx dpa n e, s.m.mailbox via = true → ctx < 4096 → s.m.extAt dpa = some (n, e) → dpa % 64 = 0 →
    (s.m.extReg e).hdmDb = true → s.m.granted ctx n = true →
    ∃ t, exec (.watchSet via ctx true dpa) s = .next t ∧ Kept s t ∧ mapGet t.m.dir.watch ctx = some (lineOf dpa) ∧
      t.m.work = { s.m with dir := { s.m.dir with watch := t.m.dir.watch, wakePend := s.m.dir.wakePend.filter fun x => x != ctx } }.work ∧
      t.m.out.getLast? = some (.reply via .success [])) ∧
  (∀ s via ctx dpa, s.m.mailbox via = true → ctx < 4096 →
    ∃ t, exec (.watchSet via ctx false dpa) s = .next t ∧ Kept s t ∧ t.m.dir.watch = mapDel s.m.dir.watch ctx ∧
      t.m.work = { s.m with dir := { s.m.dir with watch := t.m.dir.watch, wakePend := s.m.dir.wakePend.filter fun x => x != ctx } }.work ∧
      t.m.out.getLast? = some (.reply via .success []))

/-- Journal windows in a module that is in no group (R50, R51, R52): JW_SET defines a window OPEN, or SUSPENDED in a suspended extent,
or is refused by its first check that fails;
JW_DELETE takes it to DELETING and, with no full stop held, it becomes FREE; a FREE one is deleted at once. Everything but the window table
and the background commands is as before. -/
def Obligations.WindowCommandsDefineAndDelete : Prop :=
  (∀ s via e n x, s.m.mailbox via = true → s.m.winShapeOk e = true → mapGet s.m.led.wins e.id = none → s.m.winExtent e = some (n, x) →
    s.m.winClear e = true → s.m.grp.map = none →
    ∃ t, exec (.jwSet via e) s = .next t ∧ Kept s t ∧
      t.m.led = { s.m.led with wins := mapPut s.m.led.wins e.id { entry := e, st := if x.suspended then .suspended else .open_, epoch := 0, degraded := false, lastSeq := 0, stopsDone := 0 } } ∧
      t.m.work = { s.m with led := t.m.led }.work ∧ t.m.out.getLast? = some (.reply via .success [])) ∧
  (∀ s via e, s.m.mailbox via = true → s.m.winShapeOk e = false →
    ∃ t, exec (.jwSet via e) s = .next t ∧ Answers s t (.reply via .invalidInput [])) ∧
  (∀ s via e w, s.m.mailbox via = true → s.m.winShapeOk e = true → mapGet s.m.led.wins e.id = some w →
    ∃ t, exec (.jwSet via e) s = .next t ∧ Answers s t (.reply via .busy [])) ∧
  (∀ s via e, s.m.mailbox via = true → s.m.winShapeOk e = true → mapGet s.m.led.wins e.id = none →
    (s.m.winExtent e = none ∨ s.m.winClear e = false) →
    ∃ t, exec (.jwSet via e) s = .next t ∧ Answers s t (.reply via .invalidInput [])) ∧
  (∀ s via w, s.m.mailbox via = true → w < 32768 → mapGet s.m.led.wins w = none →
    ∃ t, exec (.jwDelete via w) s = .next t ∧ Answers s t (.reply via .success [])) ∧
  (∀ s via w x, s.m.mailbox via = true → w < 32768 → mapGet s.m.led.wins w = some x → x.st ≠ .deleting → s.m.bgBusy via = false →
    s.m.grp.map = none →
    ∃ t, exec (.jwDelete via w) s = .next t ∧ Kept s t ∧ mapGet t.m.led.wins w = some { x with st := .deleting } ∧
      (∀ v, v ≠ w → mapGet t.m.led.wins v = mapGet s.m.led.wins v) ∧ t.m.mgmt.bg = s.m.mgmt.bg ++ [{ via := via, opcode := 0xC401, arg := w }] ∧
      t.m.mem = s.m.mem ∧ t.m.led.stops = s.m.led.stops ∧ t.m.led.dws = s.m.led.dws ∧ t.m.out.getLast? = some (.reply via .background [])) ∧
  (∀ s w x, mapGet s.m.led.wins w = some x → x.st = .deleting → s.m.heldStops w = [] → s.m.saving = false → s.m.grp.map = none →
    ∃ t via, exec (.jwDeleteDone w) s = .next t ∧ Kept s t ∧ t.m.led = { s.m.led with wins := mapDel s.m.led.wins w } ∧
      t.m.mem = s.m.mem ∧ t.m.fab = s.m.fab ∧ t.m.mgmt.bg = s.m.mgmt.bg.filter (fun b => b.via != via) ∧
      t.m.out.getLast? = some (.reply via .success []))

/-- A full stop in a module that is in no group (R55, R59, R60): once no write counted in the closed epoch awaits protection it is staged;
once staged with nothing owed the stop line takes the merged data, LAST_SEQ the first eight bytes and STOPS_DONE counts, and the host's
completion is issued. Every other byte of memory is as before. -/
def Obligations.FullStopIsStagedAndApplied : Prop :=
  (∀ s w st x n e, s.m.headStop w = some st → mapGet s.m.led.wins w = some x → st.step = .closing → s.m.unprot w st.epoch = 0 →
    s.m.fences = [] → s.m.saving = false → s.m.aux.reconciling = false → s.m.runs = true → s.m.extAt x.entry.stopDpa = some (n, e) →
    e.adopted = none → s.m.awayLine (lineOf x.entry.stopDpa) = false → s.m.grp.map = none →
    ∃ t, exec (.epochDrained w) s = .next t ∧ Kept s t ∧ t.m.mem = s.m.mem ∧ t.m.led.wins = s.m.led.wins ∧ t.m.fab = s.m.fab ∧
      t.m.headStop w = some { st with step := .staged, owed := [], data := mergeMask st.mask (s.m.line (lineOf x.entry.stopDpa)) st.data, mask := fullMask, poison := st.poison || (s.m.isPoisoned (lineOf x.entry.stopDpa) && st.mask != fullMask) }) ∧
  (∀ s w st x n e src c, s.m.heldStops w = [st] → mapGet s.m.led.wins w = some x → st.step = .staged → st.owed = [] → x.st = .open_ →
    s.m.lineHeld (lineOf x.entry.stopDpa) = false → s.m.fences = [] → s.m.saving = false → s.m.aux.reconciling = false →
    s.m.runs = true → s.m.extAt x.entry.stopDpa = some (n, e) → e.adopted = none → s.m.grp.map = none →
    (s.m.fcGet (lineOf x.entry.stopDpa)).isSome = true →
    (s.m.fcSet (lineOf x.entry.stopDpa)).length ≤ s.m.fcWays (lineOf x.entry.stopDpa) → st.who = .host src c → st.mute = false →
    st.consumer = none →
    ∃ t, exec (.fullStopApply w) s = .next t ∧ Kept s t ∧ t.m.mem = Memory.putBytes s.m.mem (lineOf x.entry.stopDpa * 64) st.data ∧
      mapGet t.m.led.wins w = some { x with lastSeq := leAt st.data 0 8, stopsDone := (x.stopsDone + 1) % 2 ^ 32 } ∧
      t.m.heldStops w = [] ∧ t.m.led.dws = s.m.led.dws ∧ t.m.fab = s.m.fab ∧ t.m.out.getLast? = some (.memDone src))

/-- Global Persistent Flush (R68, R397): Phase 1 is acknowledged at once; Phase 2 starts a save with trigger 4 whose seal completes it. -/
def Obligations.GlobalPersistentFlushStartsASave : Prop :=
  (∀ s port, port < 96 → s.m.runs = true → s.m.hostRole port = true → s.m.portUp port = true →
    exec (.gpfPhase1 port) s = .next (s.withM (s.m.send (.gpf port 1)))) ∧
  (∀ s port, port < 96 → s.m.runs = true → s.m.hostRole port = true → s.m.portUp port = true → s.m.vlt.save = none →
    s.m.restored = true → s.m.glb.tampered = false →
    ∃ t, exec (.gpfPhase2 port) s = .next t ∧ Kept s t ∧ t.m.mem = s.m.mem ∧ t.m.fab = s.m.fab ∧ t.m.led = s.m.led ∧ t.m.out = s.m.out ∧
      t.m.vlt.save = some { trigger := 4, step := .prepare, after := .resume, start := s.m.tick, truncated := false, parityCut := 0, volCut := 0, durable := true, gpf := [port] } ∧
      t.m.get pgGlb GlbF.moduleState = msSaving ∧ t.m.get pgVlt VltF.lastTrigger = 4 ∧ t.m.drz.under = none)

/-- The messages that change the group map (R81 to R84): a proposal on the map in force with a term not below the highest seen is accepted; an
acceptance counts towards the majority; a commit of a map this module missed fetches it, one it has already is answered; the map in force
goes back in segments; a newer term is taken by a claim, whose replies are gathered. Memory, extents, windows and parity are as before. -/
def Obligations.MapMessagesAreAnsweredAndCounted : Prop :=
  (∀ s frm tag term map g, s.m.runs = true → s.m.grp.map = some g → s.m.holdsMap map = false → s.m.grp.highTerm ≤ term →
    s.m.acceptedOther term g.gen map = false → map.dissolve = false →
    ∃ t, exec (.mapPropose frm tag term g.gen map) s = .next t ∧ Kept s t ∧ Stores s t ∧ Queued s t frm [mkMsg 1 0x01 tag []] ∧
      t.m.grp = { s.m.grp with accepted := some map, highTerm := max s.m.grp.highTerm term }) ∧
  (∀ s frm tag p, s.m.runs = true → s.m.grp.prop = some p → (frm, tag) ∈ p.tags → p.first = none →
    enough s.m.grp.map { p with tags := p.tags.filter fun e => e != (frm, tag), acks := p.acks ++ [frm] } = false →
    ∃ t, exec (.mapAccept frm tag .ok) s = .next t ∧ Kept s t ∧ Stores s t ∧
      t.m.grp = { s.m.grp with prop := some { p with tags := p.tags.filter fun e => e != (frm, tag), acks := p.acks ++ [frm] } }) ∧
  (∀ s frm tag gen, s.m.runs = true → s.m.mapGen < gen → s.m.grp.accepted = none →
    ∃ t b, exec (.mapCommit frm tag gen) s = .next t ∧ Kept s t ∧ Stores s t ∧ t.m.grp = s.m.grp ∧
      Queued s t frm [mkMsg 1 0x02 tag [], mkMsg 0 0x03 b []]) ∧
  (∀ s frm tag gen, s.m.runs = true → gen ≤ s.m.mapGen →
    ∃ t, exec (.mapCommit frm tag gen) s = .next t ∧ Kept s t ∧ Stores s t ∧ t.m.grp = s.m.grp ∧ Queued s t frm [mkMsg 1 0x02 tag []]) ∧
  (∀ s frm tag g, s.m.runs = true → s.m.grp.map = some g →
    ∃ t, exec (.mapFetch frm tag) s = .next t ∧ Kept s t ∧ Stores s t ∧ t.m.grp = s.m.grp ∧
      Queued s t frm ((segments 4096 (mapBody g)).map (mkMsg 1 0x03 tag))) ∧
  (∀ s frm tag g, s.m.runs = true → s.m.grp.map = some g → g.keeper = s.m.own → g.restripe = false → s.m.fences = [] →
    s.m.aux.reconciling = false → s.m.aux.queue = [] →
    ∃ t, exec (.mapFetchRsp frm tag g) s = .next t ∧ Kept s t ∧ Stores s t ∧ t.m.grp = s.m.grp ∧ frm ∈ t.m.aux.fetched ∧
      t.m.aux.rejoin = s.m.aux.rejoin.filter (fun x => x != frm)) ∧
  (∀ s frm tag term, s.m.runs = true → s.m.grp.highTerm ≤ term → s.m.openAccepted = none →
    ∃ t, exec (.mapClaim frm tag term) s = .next t ∧ Kept s t ∧ Stores s t ∧ t.m.grp = { s.m.grp with highTerm := term } ∧
      Queued s t frm [mkMsg 1 0x04 tag []]) ∧
  (∀ s frm tag acc g c, s.m.runs = true → s.m.grp.map = some g → s.m.grp.claim = some c → (∀ e, e ∈ c.got → e.1 ≠ frm) →
    ((s.m.bundle (s.m.idOf frm)).reqs.any fun r => r.tag = tag) = true → 2 * (c.got.length + 1) ≤ g.n →
    ∃ t, exec (.mapClaimRsp frm tag acc) s = .next t ∧ Kept s t ∧ Stores s t ∧
      t.m.grp = { s.m.grp with claim := some { c with got := c.got ++ [(frm, acc)] } })

/-- Stages, reports and timeouts of a group (R85, R99, R100, R123): a holder returns the stages it holds; answers are gathered segment by
segment, and a member that has not answered in 1 ms is marked STALE in the same map; the keeper queues a reported mark; a member out of
reach for GRP_LOSS_TIME is reported to the keeper; without a majority for that time the durable extents are fenced. Where time passes to a
deadline, the tick moves there: the model's choice (log entry 12). -/
def Obligations.GroupReportsAndTimeoutsMark : Prop :=
  (∀ s frm tag x, s.m.runs = true → ∃ t, exec (.stageQuery frm tag x) s = .next t ∧ Kept s t ∧ Stores s t ∧ t.m.grp = s.m.grp ∧
    Queued s t frm ((segments 4096 (stageBytes (s.m.pairIn x).stages)).map (mkMsg 1 0x05 tag))) ∧
  (∀ s frm tag seg count keys a, s.m.runs = true → s.m.grp.ask = some a → (frm, tag) ∈ a.left →
    (a.segs.any fun e => e.1 = frm && e.2.1 = seg) = false → (a.segs.filter fun e => e.1 = frm).length + 1 < count →
    exec (.stageQueryRsp frm tag seg count keys) s =
      .next (s.withM { s.m with grp := { s.m.grp with ask := some { a with segs := a.segs ++ [(frm, seg, count, keys)] } } })) ∧
  (∀ s g a st y tag, s.m.runs = true → s.m.grp.map = some g → s.m.grp.ask = some a → a.marks = [(a.cur, st)] → a.left = [(y, tag)] →
    y ≠ a.cur → takesDeltas (g.stOf y) = true →
    ∃ t b, exec .stageQueryTimeout s = .next t ∧ Kept s t ∧ Stores s t ∧ t.m.tick = max s.m.tick (a.began + ms) ∧
      t.m.grp.map = some g ∧ t.m.grp.ask = some b ∧ b.marks = [(a.cur, st), (y, mbStale)] ∧ b.cur = y ∧ b.req = a.req) ∧
  (∀ s frm tag x p g, s.m.runs = true → s.m.grp.map = some g → g.keeper = s.m.own → s.m.grp.prop = some p →
    s.m.get pgGrp GrpF.lossMs ≠ 0 → takesDeltas (g.stOf x) = true → .mark x mbStale ∉ s.m.aux.queue → p.req ≠ .mark x mbStale →
    s.m.grp.ask = none →
    ∃ t, exec (.memberReport frm tag x 1) s = .next t ∧ Kept s t ∧ Stores s t ∧ t.m.aux.queue = s.m.aux.queue ++ [.mark x mbStale] ∧
      Queued s t frm [mkMsg 1 0x06 tag []] ∧ t.m.grp.map = some g ∧ t.m.grp.prop = some p) ∧
  (∀ s x g t0, s.m.runs = true → s.m.grp.map = some g → mapGet s.m.grp.downAt x = some t0 → s.m.get pgGrp GrpF.lossMs ≠ 0 →
    s.m.reaches x = false → x < g.n → g.stOf x ≠ mbLost → g.keeper ≠ s.m.own →
    ∃ t b, exec (.peerLossTimeout x) s = .next t ∧ Kept s t ∧ Stores s t ∧ t.m.grp = s.m.grp ∧
      t.m.tick = max s.m.tick (t0 + s.m.get pgGrp GrpF.lossMs * ms) ∧
      Queued s t g.keeper [mkMsg 0 0x06 b (leBytes 1 x ++ leBytes 1 1)]) ∧
  (∀ s g t0, s.m.runs = true → s.m.grp.map = some g → s.m.get pgGrp GrpF.lossMs ≠ 0 → s.m.majority = false → .quorum ∉ s.m.fences →
    s.m.majorityLostAt g = some t0 → bit (s.m.get pgGrp HdrF.errSev) 10 = false → bit (s.m.get pgGrp HdrF.errSev) 11 = false →
    ∃ t, exec .quorumTimeout s = .next t ∧ Kept s t ∧ Stores s t ∧ t.m.grp = s.m.grp ∧
      t.m.tick = max s.m.tick (t0 + s.m.get pgGrp GrpF.lossMs * ms) ∧ t.m.fences = s.m.fences ++ [.quorum] ∧ t.m.fenced = true ∧
      bit (t.m.get pgGrp HdrF.err) 10 = true ∧ bit (t.m.get pgGrp HdrF.err) 11 = true)

/-- Bounces and mirrored windows (R84, R105): a message that met a newer map waits for it while the map is fetched, one that met an older
map leaves again 10 µs later; a mirrored window is recorded for its owner or removed; the last answer completes a window command. -/
def Obligations.BouncedMessagesAndMirrorsAreKept : Prop :=
  (∀ s frm bseq gen g, s.m.runs = true → mapGet (s.m.bundle (s.m.idOf frm)).sent bseq = some g → g.cls ≠ 2 → s.m.mapGen < gen →
    (∀ e, e ∈ (s.m.bundle (s.m.idOf frm)).bounced → e.2.1 = false) →
    ∃ t b, exec (.bounce frm bseq gen) s = .next t ∧ Kept s t ∧ Stores s t ∧ t.m.grp = s.m.grp ∧ Queued s t frm [mkMsg 0 0x03 b []] ∧
      (t.m.bundle (s.m.idOf frm)).bounced = (s.m.bundle (s.m.idOf frm)).bounced ++ [(bseq, true, g)] ∧
      (t.m.bundle (s.m.idOf frm)).sent = mapDel (s.m.bundle (s.m.idOf frm)).sent bseq) ∧
  (∀ s frm bseq gen g, s.m.runs = true → mapGet (s.m.bundle (s.m.idOf frm)).sent bseq = some g → g.cls ≠ 2 → gen ≤ s.m.mapGen →
    ∃ t, exec (.bounce frm bseq gen) s = .next t ∧ Kept s t ∧ Stores s t ∧ t.m.grp = s.m.grp ∧ Queued s t frm [] ∧
      (t.m.bundle (s.m.idOf frm)).bounced = (s.m.bundle (s.m.idOf frm)).bounced ++ [(bseq, false, g)]) ∧
  (∀ s frm bseq e, s.m.runs = true →
    ((s.m.bundle (s.m.idOf frm)).bounced.find? fun e => e.1 = bseq && !e.2.1) = some e →
    ∃ t, exec (.bounceResendTimer frm bseq) s = .next t ∧ Kept s t ∧ Stores s t ∧ t.m.grp = s.m.grp ∧ t.m.tick = s.m.tick + 10000 ∧
      Queued s t frm [e.2.2] ∧
      (t.m.bundle (s.m.idOf frm)).bounced = (s.m.bundle (s.m.idOf frm)).bounced.filter (fun x => x.1 != bseq)) ∧
  (∀ s frm tag e st owner, s.m.runs = true → owner ≠ s.m.own →
    ∃ t, exec (.windowMirror frm tag e st owner) s = .next t ∧ Kept s t ∧ Stores s t ∧ t.m.grp = s.m.grp ∧
      Queued s t frm [mkMsg 1 0x0B tag []] ∧
      t.m.led = { s.m.led with mirrors := (s.m.led.mirrors.filter fun r => !(r.owner = owner && r.entry.id = e.id)) ++ if st = 0 then [] else [{ owner := owner, entry := e, st := st }] }) ∧
  (∀ s frm tag st w, s.m.runs = true → s.m.led.mirrorWaits = [w] → w.left = [(frm, tag)] → w.del = false →
    ∃ t, exec (.windowMirrorRsp frm tag st) s = .next t ∧ Kept s t ∧ Stores s t ∧ t.m.grp = s.m.grp ∧
      t.m.led = { s.m.led with mirrorWaits := [] } ∧ t.m.out.getLast? = some (.reply w.via .success []))

/-- Holds, line reads and reconstructions between members (R80, R107, R135): a data member whose deltas are acknowledged answers a hold with
its line and keeps the hold; a release ends it; a holder returns a parity line; an answer reaches the reconstruction that asked for it.
Memory, extents, windows and parity are as before. -/
def Obligations.HoldsAndReadsAreAnswered : Prop :=
  (∀ s frm tag stripe line g j u, s.m.runs = true → s.m.grp.map = some g → line < 64 → s.m.holdRefused g stripe line = none →
    (s.m.heldUnits g stripe).1 = some (j, u) → s.m.led.holds = [] → s.m.grp.recons = [] → frm ≠ s.m.own →
    s.m.holdOwed g { requester := frm, stripe := stripe, line := line, answer := some tag } = false →
    ∃ t, exec (.stripeHold frm tag stripe line) s = .next t ∧ Kept s t ∧ Stores s t ∧ t.m.grp = s.m.grp ∧
      Queued s t frm [mkMsg 1 0x07 tag (s.m.unitLine u line)] ∧
      t.m.led.holds = [{ requester := frm, stripe := stripe, line := line, answer := none }]) ∧
  (∀ s frm tag stripe line, s.m.runs = true →
    ∃ t, exec (.holdRelease frm tag stripe line) s = .next t ∧ Kept s t ∧ Stores s t ∧ t.m.grp = s.m.grp ∧
      Queued s t frm [mkMsg 1 0x08 tag []] ∧
      t.m.led.holds = s.m.led.holds.filter (fun h => !(h.requester = frm && h.stripe = stripe && h.line = line))) ∧
  (∀ s frm tag unit line g, s.m.runs = true → s.m.grp.map = some g → keyStore unit = 0 →
    keyStripe unit < (g.units + g.k - 1) / g.k * g.m → s.m.parityGone g (geoBy g 0) s.m.own (keyStripe unit) = false →
    ∃ t, exec (.lineRead frm tag unit line) s = .next t ∧ Kept s t ∧ Stores s t ∧ t.m.grp = s.m.grp ∧
      Queued s t frm [mkMsg 1 0x0A tag (s.m.parityLine 0 (keyStripe unit) line)]) ∧
  (∀ s frm tag data g r j o, s.m.runs = true → s.m.grp.map = some g → g.restripe = false → s.m.grp.walk = none → s.m.aux.step = none →
    s.m.aux.reconciling = false → s.m.grp.recons = [r] → r.out = [(frm, tag, j), o] → o ≠ (frm, tag, j) → j ≠ r.want →
    (∀ e, e ∈ r.got → e.1 ≠ r.want) →
    (∃ t, exec (.stripeHoldRsp frm tag .ok data) s = .next t ∧ Kept s t ∧ Stores s t ∧
      t.m.grp.recons = [{ r with out := [o], got := r.got ++ [(j, asLine data)] }]) ∧
    (∃ t, exec (.unitData frm tag data) s = .next t ∧ Kept s t ∧ Stores s t ∧
      t.m.grp.recons = [{ r with out := [o], got := r.got ++ [(j, asLine data)] }]) ∧
    (∃ t, exec (.lineReadRsp frm tag .ok data) s = .next t ∧ Kept s t ∧ Stores s t ∧
      t.m.grp.recons = [{ r with out := [o], got := r.got ++ [(j, asLine data)] }]))

/-- The steps of a rebuild, a resync and a re-stripe (R110, R111, R112): a boundary told by a walking member is taken and answered; the last
answer but one is taken off the step; a block whose units are written, or that has none, sends the step to every other live member; a new
step of a re-stripe asks for the holds of its stripes. -/
def Obligations.WalkStepsAdvanceAndAnswer : Prop :=
  (∀ s frm tag q g, s.m.runs = true → s.m.grp.map = some g → g.stOf frm = mbRebuilding → g.keeper ≠ s.m.own →
    ∃ t, exec (.rebuildStep frm tag 1 q) s = .next t ∧ Kept s t ∧ Stores s t ∧ Queued s t frm [mkMsg 1 0x0E tag []] ∧
      t.m.grp = { s.m.grp with bounds := mapPut s.m.grp.bounds frm (1, q) }) ∧
  (∀ s frm tag st w o, s.m.runs = true → s.m.grp.walk = some w → w.left = [(frm, tag), o] → o ≠ (frm, tag) →
    ∃ t, exec (.rebuildStepRsp frm tag st) s = .next t ∧ Kept s t ∧ Stores s t ∧
      t.m.grp = { s.m.grp with walk := some { w with left := [o] } }) ∧
  (∀ s frm tag b g, s.m.runs = true → s.m.grp.map = some g → g.restripe = true → g.keeper = frm → b ≤ g.units → s.m.aux.restripeB < b →
    0 < g.tk → s.m.stepStripes g b ≠ [] →
    ∃ t st, exec (.restripeStep frm tag b) s = .next t ∧ Kept s t ∧ Stores s t ∧ t.m.grp = s.m.grp ∧ t.m.aux.step = some st ∧
      st.b = b ∧ st.answer = some (frm, tag) ∧ st.held = [] ∧ st.asked ≠ []) ∧
  (∀ s frm tag st o, s.m.runs = true → s.m.aux.stepLeft = [(frm, tag), o] → o ≠ (frm, tag) →
    ∃ t, exec (.restripeStepRsp frm tag st) s = .next t ∧ Kept s t ∧ Stores s t ∧ t.m.grp = s.m.grp ∧
      t.m.aux = { s.m.aux with stepLeft := [o] }) ∧
  (∀ s g w x, s.m.runs = true → s.m.aux.reconciling = false → s.m.grp.map = some g → s.m.grp.walk = some w → w.kind = .rebuild →
    w.stepping = false → w.asked = [] → s.m.aux.parityRuns = [] → x < g.n → x ≠ s.m.own → g.stOf x ≠ mbLost →
    (∀ e, e ∈ s.m.walkStripes g w → ∃ j u, s.m.walkUnit g w (keyStore (stripeKey e.1 e.2)) (keyStripe (stripeKey e.1 e.2)) = some (j, u) ∧
      ∀ n, n < 64 → s.m.lineOfUnit u n = none ∧ (walkLineOf g w (stripeKey e.1 e.2) j n).isSome = true) →
    ∃ t left, exec .rebuildBlockHeld s = .next t ∧ Kept s t ∧ t.m.mem = s.m.mem ∧ t.m.fab = s.m.fab ∧
      t.m.grp.walk = some { w with stepping := true, left := left } ∧
      left.map Prod.fst = (upto g.n).filter (fun y => y != s.m.own && g.stOf y != mbLost)) ∧
  (∀ s g w x, s.m.runs = true → s.m.aux.reconciling = false → s.m.grp.map = some g → s.m.grp.walk = some w → w.kind = .resync →
    w.stepping = false → w.asked = [] → s.m.walkStripes g w = [] → x < g.n → x ≠ s.m.own → g.stOf x ≠ mbLost →
    ∃ t left, exec .resyncBlockHeld s = .next t ∧ Kept s t ∧ Stores s t ∧
      t.m.grp = { s.m.grp with walk := some { w with stepping := true, left := left } } ∧
      left.map Prod.fst = (upto g.n).filter (fun y => y != s.m.own && g.stOf y != mbLost))

/-- Deltas at their holder (R92, R93, R95, R98): fresh DATA is folded into its parity line, a fresh STAGE is held under its key, a fresh
COMMIT folds the stage held, and each takes its place in the pair's window; A leaves in a STATUS message. Memory, extents and windows are as
before. -/
def Obligations.DeltasFoldStageAndCommit : Prop :=
  (∀ s frm dseq line standin data g q u f n, s.m.runs = true → s.m.grp.map = some g → q.store = 0 →
    s.m.deltaUnit g frm line standin = some (q, u) → (s.m.pairIn frm).seen (nearestSeq (s.m.pairIn frm).a dseq) = .fresh →
    s.m.parityGone g q s.m.own u = false → s.m.parityAtHand (u * 64 + line % 64) f n →
    ∃ t, exec (.deltaData frm dseq line standin data) s = .next t ∧ Kept s t ∧ t.m.mem = s.m.mem ∧ t.m.fab = s.m.fab ∧ t.m.led = s.m.led ∧
      t.m.grp.parity = (s.m.foldParity 0 u (line % 64) (asLine data)).grp.parity ∧
      t.m.pairIn frm = (s.m.pairIn frm).take (nearestSeq (s.m.pairIn frm).a dseq)) ∧
  (∀ s frm dseq line standin data g q u, s.m.runs = true → s.m.grp.map = some g → s.m.deltaUnit g frm line standin = some (q, u) →
    (s.m.pairIn frm).seen (nearestSeq (s.m.pairIn frm).a dseq) = .fresh →
    ∃ t, exec (.deltaStage frm dseq line standin data) s = .next t ∧ Kept s t ∧ Stores s t ∧ t.m.led = s.m.led ∧
      t.m.pairIn frm = ({ s.m.pairIn frm with stages := stagePut (s.m.pairIn frm).stages { key := lineField line standin, seq := nearestSeq (s.m.pairIn frm).a dseq, data := asLine data } }).take
        (nearestSeq (s.m.pairIn frm).a dseq)) ∧
  (∀ s frm dseq line standin g q u f n st, s.m.runs = true → s.m.grp.map = some g → q.store = 0 →
    s.m.deltaUnit g frm line standin = some (q, u) → (s.m.pairIn frm).seen (nearestSeq (s.m.pairIn frm).a dseq) = .fresh →
    s.m.parityGone g q s.m.own u = false → s.m.parityAtHand (u * 64 + line % 64) f n →
    ((s.m.pairIn frm).stages.find? fun x => x.key = lineField line standin) = some st →
    ∃ t, exec (.deltaCommit frm dseq line standin) s = .next t ∧ Kept s t ∧ t.m.mem = s.m.mem ∧ t.m.fab = s.m.fab ∧ t.m.led = s.m.led ∧
      t.m.grp.parity = (s.m.foldParity 0 u (line % 64) st.data).grp.parity ∧
      t.m.pairIn frm = ({ s.m.pairIn frm with stages := (s.m.pairIn frm).stages.filter fun x => x.key != lineField line standin }).take
        (nearestSeq (s.m.pairIn frm).a dseq)) ∧
  (∀ s x g n r, s.m.runs = true → s.m.grp.map = some g → ((s.m.bundlePorts (s.m.idOf x)).filter fun n => s.m.bState n = bsUp) = n :: r →
    (s.m.pairIn x).a ≠ (s.m.pairIn x).sentA → s.m.gcm n = false →
    ∃ t, exec (.ackTimer x) s = .next t ∧ Kept s t ∧ Stores s t ∧ t.m.pairIn x = { s.m.pairIn x with sentA := (s.m.pairIn x).a } ∧
      (s.m.out ++ [.frame n (frameRaw (linkWord (s.m.get (pgPrt n) PrtF.peerTxNext) (s.m.ackNow n) tyCtl false 0 0 (s.m.ctlMsg 1 (s.m.statusPrefix n)).length) (s.m.ctlMsg 1 (s.m.statusPrefix n)))]) <+: t.m.out)

/-- The mailbox commands that manage a group (R83, R102, R104, R106, R110 to R112, R115): GRP_FORM keeps the map until it is adopted; at a
member that is not the keeper a checked change is forwarded to it and its command waits for the commit; at the keeper with a change under
way it queues; a stand-in asked to clear stops serving; GRP_KEEPER_SET claims the next term; formations and dissolutions that time out end
with Busy. Memory, extents, windows and parity are as before. Where time passes to a deadline, the tick moves there: the model's choice (log
entry 12). How a forwarded command looks, and that the own ID is an operand of GRP_FORM, are the model's (log entries 32 and 34). -/
def Obligations.GroupCommandsAreKeptOrForwarded : Prop :=
  (∀ s via map own, s.m.mailbox via = true → s.m.grp.map = none → formOk map own = true → s.m.extentsFit map.units = true →
    s.m.grp.form = none → s.m.grp.prop = none → s.m.aux.heldPropose = none → own ≠ 0 →
    exec (.grpForm via map own) s =
      .next (s.withM { s.m with grp := { s.m.grp with form := some (via, map, s.m.tick), ownId := map.idOf own } })) ∧
  (∀ s via x g, s.m.mailbox via = true → s.m.grp.map = some g → x < g.n → g.stOf x ≠ mbLost → g.keeper ≠ s.m.own →
    s.m.reaches g.keeper = true → exec (.grpMarkLost via x) s =
      .next (s.withM ((s.m.waitCmd via (.markLost x)).send (.forwardCmd g.keeper (.markLost x))))) ∧
  (∀ s via x g p, s.m.mailbox via = true → s.m.grp.map = some g → x < g.n → g.stOf x ≠ mbLost → g.keeper = s.m.own →
    s.m.grp.prop = some p → p.req ≠ .mark x mbLost → .mark x mbLost ∉ s.m.aux.queue → s.m.grp.ask = none →
    ∃ t, exec (.grpMarkLost via x) s = .next t ∧ Kept s t ∧
      t.m = { s.m with aux := { s.m.aux with waits := s.m.aux.waits ++ [(via, .markLost x)], queue := s.m.aux.queue ++ [.mark x mbLost] } }) ∧
  (∀ s via lost b g, s.m.mailbox via = true → s.m.grp.map = some g → lost < g.n → b < g.n → g.stOf lost = mbLost → g.stOf b = mbActive →
    g.standsFor b = none → (g.members[lost]?).bind Member.standin ≠ some b → g.keeper ≠ s.m.own → s.m.reaches g.keeper = true →
    exec (.grpStandinSet via lost b) s =
      .next (s.withM ((s.m.waitCmd via (.standinSet lost b)).send (.forwardCmd g.keeper (.standinSet lost b))))) ∧
  (∀ s via lost g, s.m.mailbox via = true → s.m.grp.map = some g → (g.members[lost]?).bind Member.standin = some s.m.own →
    g.stOf lost = mbActive → ∃ t, exec (.grpStandinClear via lost) s = .next t ∧ Kept s t ∧ Stores s t ∧
      t.m.aux = { s.m.aux with waits := s.m.aux.waits ++ [(via, .standinClear lost)] } ∧
      t.m.grp = { s.m.grp with clearing := some (via, lost) }) ∧
  (∀ s via lost g, s.m.runs = true → s.m.grp.map = some g → s.m.grp.clearing = some (via, lost) →
    (∀ st, st ∈ s.m.led.stops → st.win < 16384) → (∀ o d, o ∈ s.m.grp.outs → d ∈ o.2.unacked → d.standin = false) →
    g.keeper ≠ s.m.own →
    exec .standinClearDrained s = .next (s.withM (s.m.send (.forwardCmd g.keeper (.standinClear lost))))) ∧
  (∀ s via x id g, s.m.mailbox via = true → s.m.grp.map = some g → x < g.n → g.stOf x = mbLost → id ≠ 0 → id < 0xFFFF →
    (∀ y, y ∈ g.members → y.id ≠ id) → g.keeper ≠ s.m.own → s.m.reaches g.keeper = true →
    exec (.grpReplace via x id) s = .next (s.withM ((s.m.waitCmd via (.replace x id)).send (.forwardCmd g.keeper (.replace x id))))) ∧
  (∀ s via k mm g rs, s.m.mailbox via = true → s.m.grp.map = some g → 2 ≤ k → k ≤ 14 → 1 ≤ mm → mm ≤ 4 → k + mm ≤ g.n →
    g.restripe = false → (∀ y, y ∈ g.members → y.st ≠ mbStale ∧ y.st ≠ mbLost) → s.m.allocRuns (parityUnits g.units k mm) = some rs →
    g.keeper ≠ s.m.own → s.m.reaches g.keeper = true →
    exec (.grpRestripe via k mm) s = .next (s.withM ((s.m.waitCmd via (.restripe k mm)).send (.forwardCmd g.keeper (.restripe k mm))))) ∧
  (∀ s via g, s.m.mailbox via = true → s.m.grp.map = some g → g.stOf s.m.own = mbActive →
    ∃ t, exec (.grpKeeperSet via) s = .next t ∧ Kept s t ∧ Stores s t ∧
      t.m.aux = { s.m.aux with waits := s.m.aux.waits ++ [(via, .keeperSet)] } ∧
      t.m.grp = { s.m.grp with highTerm := max s.m.grp.highTerm (g.term + 1), claim := some { term := g.term + 1, got := [(s.m.own, s.m.openAccepted)], via := via } }) ∧
  (∀ s via g, s.m.mailbox via = true → s.m.grp.map = some g → s.m.durables = [] → g.keeper ≠ s.m.own → s.m.reaches g.keeper = true →
    exec (.grpDissolve via g.groupId) s = .next (s.withM ((s.m.waitCmd via .dissolve).send (.forwardCmd g.keeper .dissolve)))) ∧
  (∀ s via map t0, s.m.runs = true → s.m.grp.map = none → s.m.grp.form = some (via, map, t0) →
    ∃ t, exec .grpFormTimeout s = .next t ∧ Kept s t ∧ Stores s t ∧ t.m.tick = max s.m.tick (t0 + 10 * second) ∧
      t.m.grp = { s.m.grp with form := none, prop := none } ∧ t.m.out.getLast? = some (.reply via .busy [])) ∧
  (∀ s p via, s.m.runs = true → s.m.grp.prop = some p → p.req = .dissolve → s.m.aux.queue = [] → s.m.aux.waits = [(via, .dissolve)] →
    ∃ t, exec .grpDissolveTimeout s = .next t ∧ Kept s t ∧ Stores s t ∧ t.m.tick = max s.m.tick (p.began + ms) ∧
      t.m.grp = { s.m.grp with prop := none } ∧ t.m.aux.waits = [] ∧ t.m.out.getLast? = some (.reply via .busy []))

/-- Frames received on a Berfel port (R129, R130, R141 to R143, R145): a DATA frame in sequence is accepted and its bytes join what the port
holds; STATUS messages of a CTL frame are handed up; the ACK of an IDLE frame frees the frames it covers; a RETRAIN_MARK brings a retraining
port UP. -/
def Obligations.BerfelFramesAreReceived : Prop :=
  (∀ s n raw bs w, s.m.hearsFrame n tyData raw bs w → s.m.ackCount n w = 0 → bit w 42 = false → s.m.bState n = bsUp → s.m.gcm n = false →
    bits w 0 20 = s.m.get (pgPrt n) PrtF.peerRxNext → ((s.m.pp n).partial_ ++ slice bs 8 (bits w 52 8)).length < 16 →
    ∃ t, exec (.dataFrameReceive n raw) s = .next t ∧ Kept s t ∧ t.m.mem = s.m.mem ∧ t.m.led = s.m.led ∧ t.m.grp = s.m.grp ∧
      t.m.get (pgPrt n) PrtF.peerRxNext = (bits w 0 20 + 1) % 2 ^ 20 ∧
      t.m.pp n = { s.m.pp n with partial_ := (s.m.pp n).partial_ ++ slice bs 8 (bits w 52 8), naked := false }) ∧
  (∀ s n raw bs w, s.m.hearsFrame n tyCtl raw bs w → s.m.ackCount n w = 0 → bit w 42 = false → s.m.gcm n = false →
    ∃ t pre, exec (.ctlFrameReceive n raw) s = .next t ∧ Kept s t ∧ t.m.work = s.m.work ∧
      t.m.out = pre ++ ((splitMsgs 15 (slice bs 8 (bits w 52 8))).1.filter fun x => msgCls x = clsCtl && msgOp x = 1).map
        (fun x => .delivered ((s.m.pp n).peer.getD 0) x)) ∧
  (∀ s n raw bs w, s.m.hearsFrame n tyIdle raw bs w → 0 < s.m.ackCount n w → s.m.ackCount n w ≤ (s.m.pp n).frames.length →
    bit w 42 = false → (∀ f, f ∈ (s.m.pp n).frames → f.puts = []) →
    ∃ t, exec (.idleFrameReceive n raw) s = .next t ∧ Kept s t ∧ t.m.mem = s.m.mem ∧ t.m.led = s.m.led ∧ t.m.grp = s.m.grp ∧
      (t.m.pp n).frames = (s.m.pp n).frames.drop (s.m.ackCount n w) ∧ t.m.get (pgPrt n) PrtF.peerSquall = 0 ∧
      t.m.get (pgPrt n) PrtF.peerTxOldest = (s.m.get (pgPrt n) PrtF.peerTxOldest + s.m.ackCount n w) % 2 ^ 20 ∧ t.m.out = s.m.out) ∧
  (∀ s n raw bs w, s.m.hearsFrame n tyMark raw bs w → s.m.ackCount n w = 0 → s.m.bState n = bsRetraining → (s.m.pp n).frames = [] →
    ∃ t, exec (.retrainMark n raw) s = .next t ∧ Kept s t ∧ t.m.mem = s.m.mem ∧ t.m.led = s.m.led ∧ t.m.grp = s.m.grp ∧
      t.m.bState n = bsUp ∧ t.m.get (pgPrt n) PrtF.peerRetrain = 0 ∧ t.m.out = s.m.out)

/-- Frames sent on a Berfel port (R131, R140, R141, R143, R145): a waiting message leaves in a DATA frame that is numbered and kept; the
replay timer sends the kept frames again; a STATUS message leaves in a CTL frame; a retrain ends with RETRAIN_MARK. Where time passes to a
deadline, the tick moves there: the model's choice (log entry 12). -/
def Obligations.BerfelFramesAreSent : Prop :=
  (∀ s n id g, n < 96 → s.m.runs = true → s.m.peerRole n = true → s.m.maySend n = true → s.m.gcm n = false → s.m.grp.map = none →
    (s.m.pp n).rest = none → (s.m.pp n).peer = some id → (s.m.bundle id).returned = [] → (s.m.bundle id).queue = [g] → g.cls < 4 →
    (msgBytes (s.m.bundle id).tx 0 s.m.grp.ownId g).length ≤ framePayload →
    s.m.mayBegin n g.cls (msgBytes (s.m.bundle id).tx 0 s.m.grp.ownId g).length = true →
    ∃ t f, exec (.dataFrameSend n) s = .next t ∧ Kept s t ∧ t.m.mem = s.m.mem ∧ t.m.led = s.m.led ∧ t.m.grp = s.m.grp ∧
      (t.m.pp n).frames = (s.m.pp n).frames ++ [f] ∧ f.fseq = s.m.get (pgPrt n) PrtF.peerTxNext ∧
      f.payload = msgBytes (s.m.bundle id).tx 0 s.m.grp.ownId g ∧ f.first = 0 ∧ f.keygen = 0 ∧
      t.m.get (pgPrt n) PrtF.peerTxNext = (s.m.get (pgPrt n) PrtF.peerTxNext + 1) % 2 ^ 20 ∧ (t.m.bundle id).queue = [] ∧
      (t.m.bundle id).tx = ((s.m.bundle id).tx + 1) % 2 ^ 32) ∧
  (∀ s n, n < 96 → s.m.hears n = true → (s.m.pp n).frames ≠ [] → s.m.bState n ≠ bsRetraining →
    s.m.get (pgPrt n) PrtF.peerSquall < s.m.get (pgPrt n) PrtF.peerReplayLimit →
    ∃ t, exec (.replayTimer n) s = .next t ∧ Kept s t ∧ t.m.mem = s.m.mem ∧ t.m.led = s.m.led ∧ t.m.grp = s.m.grp ∧
      t.m.tick = max s.m.tick ((s.m.pp n).lastAck + s.m.get (pgPrt n) PrtF.peerReplayTimer * 250) ∧
      t.m.get (pgPrt n) PrtF.peerSquall = (s.m.get (pgPrt n) PrtF.peerSquall + 1) % 2 ^ 5 ∧ (t.m.pp n).frames = (s.m.pp n).frames ∧
      (t.m.pp n).lastAck = t.m.tick) ∧
  (∀ s n, n < 96 → s.m.runs = true → s.m.bState n = bsUp → s.m.gcm n = false →
    ∃ t, exec (.statusTimer n) s = .next t ∧ Kept s t ∧ t.m.work = s.m.work ∧
      (s.m.out ++ [.frame n (frameRaw (linkWord (s.m.get (pgPrt n) PrtF.peerTxNext) (s.m.ackNow n) tyCtl false 0 0 (s.m.ctlMsg 1 (s.m.statusPrefix n)).length) (s.m.ctlMsg 1 (s.m.statusPrefix n)))]) <+: t.m.out) ∧
  (∀ s n, n < 96 → s.m.runs = true → s.m.bState n = bsRetraining →
    exec (.retrainDone n true) s = .next (s.withM (s.m.send (.frame n (frameRaw
      (linkWord (s.m.get (pgPrt n) PrtF.peerTxOldest) (s.m.ackNow n) tyMark false 0 0xFF 0) [])))))

/-- The states of a Berfel port (R145, R149, R157, R158): training is scheduled 100 ms after the port went down or starts as the peer
trains; a trained port enters HELLO with a HELLO kept for its peer, or falls DOWN; an accepted HELLO brings it UP; 1 ms without one takes it
down; a forced retrain sets its bits; a STATUS raises the limits. Where time passes to a deadline, the tick moves there: the model's choice
(log entry 12). -/
def Obligations.BerfelPortStatesChange : Prop :=
  (∀ s n, n < 96 → s.m.mayTrain n = true →
    ∃ t, exec (.berfelTrainSchedule n) s = .next t ∧ Kept s t ∧ t.m.mem = s.m.mem ∧ t.m.led = s.m.led ∧ t.m.grp = s.m.grp ∧
      t.m.bState n = bsTraining ∧ t.m.tick = max s.m.tick ((s.m.pp n).entered + 100 * ms)) ∧
  (∀ s n, n < 96 → s.m.mayTrain n = true → exec (.peerTrainingSeen n) s = .next (s.withM (s.m.setBState n bsTraining))) ∧
  (∀ s n, n < 96 → s.m.runs = true → s.m.restored = true → s.m.saving = false → s.m.bState n = bsTraining → s.m.clocked n = true →
    ∃ t f, exec (.berfelTrainDone n true) s = .next t ∧ Kept s t ∧ t.m.mem = s.m.mem ∧ t.m.led = s.m.led ∧ t.m.grp = s.m.grp ∧
      t.m.bState n = bsHello ∧ t.m.get (pgPrt n) PrtF.peerWidth = s.m.portWidth n % 8 ∧
      (t.m.pp n).frames = (s.m.pp n).frames ++ [f] ∧ f.fseq = s.m.get (pgPrt n) PrtF.peerTxNext ∧ msgCls f.payload = clsCtl ∧
      msgOp f.payload = 4 ∧ f.keygen = 0) ∧
  (∀ s n, n < 96 → s.m.runs = true → s.m.restored = true → s.m.saving = false → s.m.bState n = bsTraining → s.m.clocked n = true →
    exec (.berfelTrainDone n false) s = .next (s.withM (s.m.setBState n bsDown))) ∧
  (∀ s n h, n < 96 → s.m.runs = true → s.m.peerRole n = true → s.m.bState n = bsHello → s.m.helloRefused n h = false →
    (s.m.bundle h.moduleId).peerInc = h.ownInc → (s.m.bundle h.moduleId).ownInc = h.peerInc → s.m.gcm n = false → s.m.grp.map = none →
    s.m.indexOf h.moduleId = none → s.m.grp.form = none →
    ∃ t, exec (.hello n h) s = .next t ∧ Kept s t ∧ t.m.mem = s.m.mem ∧ t.m.led = s.m.led ∧ t.m.grp = s.m.grp ∧ t.m.bState n = bsUp ∧
      (t.m.pp n).peer = some h.moduleId ∧ t.m.get (pgPrt n) PrtF.peerPeerId = h.moduleId % 2 ^ 16 ∧
      (s.m.phase = 5 → t.m.phase = 6)) ∧
  (∀ s n, n < 96 → s.m.runs = true → s.m.bState n = bsHello → (s.m.pp n).peer = none → bit (s.m.get (pgPrt n) HdrF.errSev) 32 = false →
    ∃ t, exec (.helloTimeout n) s = .next t ∧ Kept s t ∧ t.m.mem = s.m.mem ∧ t.m.led = s.m.led ∧ t.m.grp = s.m.grp ∧
      t.m.bState n = bsDown ∧ (t.m.pp n).frames = [] ∧ t.m.tick = max s.m.tick ((s.m.pp n).entered + ms) ∧
      bit (t.m.get (pgPrt n) HdrF.err) 32 = true) ∧
  (∀ s n limits applied, n < 96 → s.m.runs = true → bsUp ≤ s.m.bState n → ((s.m.pp n).peer.bind fun id => s.m.indexOf id) = none →
    ∃ t, exec (.ctlStatus n limits applied) s = .next t ∧ Kept s t ∧
      t.m = s.m.setPp n { s.m.pp n with limit := (upto 5).map fun i => if (limits.getD i 0 + 2 ^ 32 - (s.m.pp n).limit.getD i 0) % 2 ^ 32 < 2 ^ 31 then limits.getD i 0 else (s.m.pp n).limit.getD i 0 }) ∧
  (∀ s n, n < 96 → s.m.runs = true → s.m.peerRole n = true → s.m.bState n = bsUp → bit (s.m.get (pgPrt n) HdrF.errSev) 33 = false →
    ∃ t, exec (.portRetrainForce n) s = .next t ∧ Kept s t ∧ t.m.mem = s.m.mem ∧ t.m.led = s.m.led ∧ t.m.grp = s.m.grp ∧
      t.m.bState n = bsRetraining ∧ t.m.get (pgPrt n) PrtF.peerRetrain = 1 ∧ (t.m.pp n).frames = (s.m.pp n).frames ∧
      t.m.get (pgPrt n) PrtF.peerRetrains = (s.m.get (pgPrt n) PrtF.peerRetrains + 1) % 2 ^ 32 ∧
      bit (t.m.get (pgPrt n) HdrF.err) 33 = true)

/-- Keys and runs under AES-256-GCM (R150, R151): a key is loaded into a generation that is not in use; the transmitter moves to its other
generation; a run closes 500 ns after its first frame; a run whose tag verifies is released. Where time passes to a deadline, the tick moves
there: the model's choice (log entry 12). -/
def Obligations.GcmKeysAndRunsMove : Prop :=
  (∀ s via n gen salt key, s.m.mailbox via = true → n < 96 → gen ≤ 1 → key.length = 32 → gen ≠ (s.m.pp n).tx.gen →
    (∀ k, mapGet (s.m.pp n).tx.keys (1 - gen) = some k → k.2 ≠ key) →
    ∃ t, exec (.bfKeySet via n 0 gen salt key) s = .next t ∧
      Answers (s.withM (s.m.setPp n { s.m.pp n with tx := { (s.m.pp n).tx with keys := mapPut (s.m.pp n).tx.keys gen (salt, key) } })) t
        (.reply via .success [])) ∧
  (∀ s via n gen salt key, s.m.mailbox via = true → n < 96 → gen ≤ 1 → key.length = 32 →
    ∃ t, exec (.bfKeySet via n 1 gen salt key) s = .next t ∧
      Answers (s.withM (s.m.setPp n { s.m.pp n with rxKeys := { (s.m.pp n).rxKeys with keys := mapPut (s.m.pp n).rxKeys.keys gen (salt, key) }, rxCount := (s.m.pp n).rxCount.set gen 0 })) t
        (.reply via .success [])) ∧
  (∀ s via n k, s.m.mailbox via = true → n < 96 → mapGet (s.m.pp n).tx.keys (1 - (s.m.pp n).tx.gen) = some k → (s.m.pp n).runTx = none →
    ∃ t, exec (.bfKeySwitch via n) s = .next t ∧ Kept s t ∧ t.m.mem = s.m.mem ∧
      t.m.pp n = { s.m.pp n with tx := { keys := mapDel (s.m.pp n).tx.keys (s.m.pp n).tx.gen, gen := 1 - (s.m.pp n).tx.gen, count := 0, switch := false } } ∧
      t.m.get (pgPrt n) PrtF.peerKeygenTx = (1 - (s.m.pp n).tx.gen) % 2 ∧ t.m.out.getLast? = some (.reply via .success [])) ∧
  (∀ s n r, n < 96 → s.m.runs = true → (s.m.pp n).runTx = some r → s.m.bState n = bsUp → s.m.maySend n = false →
    ∃ t, exec (.gcmRunTimer n) s = .next t ∧ Kept s t ∧ t.m.mem = s.m.mem ∧ t.m.grp = s.m.grp ∧
      t.m.pp n = { s.m.pp n with runTx := some { r with closing := true } } ∧ t.m.tick = max s.m.tick (r.opened + 500)) ∧
  (∀ s n tag gen ks text, n < 96 → s.m.runs = true → bsUp ≤ s.m.bState n → s.m.gcm n = true →
    (s.m.pp n).runRx.head?.map Prod.fst = some gen → mapGet (s.m.pp n).rxKeys.keys gen = some ks →
    ((s.m.pp n).runRx.flatMap fun r => r.2.2).take (((s.m.pp n).runRx.flatMap fun r => r.2.2).length - 56) = text →
    gcmTag ks.2 (gcmIv ks.1 ((s.m.pp n).rxCount.getD gen 0)) ((s.m.pp n).runRx.flatMap fun r => r.2.1) text = tag →
    ((s.m.pp n).partial_ ++ gcmText ks.2 (gcmIv ks.1 ((s.m.pp n).rxCount.getD gen 0)) text).length < 16 →
    ∃ t, exec (.macTag n tag) s = .next t ∧ Kept s t ∧ t.m.mem = s.m.mem ∧ t.m.grp = s.m.grp ∧ (t.m.pp n).runRx = [] ∧
      (t.m.pp n).rxCount = (s.m.pp n).rxCount.set gen ((s.m.pp n).rxCount.getD gen 0 + (s.m.pp n).runRx.length) ∧
      (t.m.pp n).partial_ = (s.m.pp n).partial_ ++ gcmText ks.2 (gcmIv ks.1 ((s.m.pp n).rxCount.getD gen 0)) text)

/-- A lane quad changes role (R154, R155, R161): APPLY of a well-formed change of an unconfigured quad sets it under way; one
that would take the steward port away is refused; once the old ports
have stopped the new configuration is in force, the quad and its ports bear the new role, its peer ports train, and APPLY clears. -/
def Obligations.QuadsChangeRole : Prop :=
  (∀ s q, q < 32 → s.m.runs = true → s.m.isMemberQuad q = false → s.m.bfl.changing = [] → quadOk q (s.m.askedQuad q) = true →
    (s.m.askedQuad q).members q = [] → limitsOk (s.m.quadsWith [(q, s.m.askedQuad q)]) = true →
    s.m.stewardKept [(q, s.m.askedQuad q)] = true → (s.m.quad q).ports = [] →
    ∃ t, exec (.lnqApply q) s = .next t ∧ Kept s t ∧ t.m.bfl = { s.m.bfl with changing := [(q, s.m.askedQuad q)] } ∧
      t.m.work = { s.m with bfl := t.m.bfl }.work ∧ t.m.get (pgLnq q) LnqF.apply = 1 ∧ t.m.get (pgLnq q) LnqF.changing = 1) ∧
  (∀ s q, q < 32 → s.m.runs = true → s.m.stewardKept (s.m.applySet q) = false → bit (s.m.get (pgLnq q) HdrF.errSev) 0 = false →
    ∃ t, exec (.lnqApply q) s = .next t ∧ Kept s t ∧ t.m.work = s.m.work ∧ bit (t.m.get (pgLnq q) HdrF.err) 0 = true) ∧
  (∀ s q c, q < 32 → s.m.runs = true → mapGet s.m.bfl.changing q = some c → c.members q = [] → c.role = 2 → c.base + c.count ≤ 96 →
    (∀ n, n ∈ (s.m.quad q).ports → n < 96) → s.m.is (pgLnq q) LnqF.apply = true → s.m.quadStopped q = true →
    ∃ t, exec (.lnqRoleChangeDone q) s = .next t ∧ Kept s t ∧ t.m.mem = s.m.mem ∧ t.m.fab = s.m.fab ∧ mapGet t.m.bfl.quads q = some c ∧
      t.m.bfl.changing = mapDel s.m.bfl.changing q ∧ t.m.get (pgLnq q) LnqF.apply = 0 ∧ t.m.get (pgLnq q) HdrF.roleCode = 2 ∧
      ∀ n, n ∈ c.ports → t.m.bState n = bsTraining ∧ t.m.get (pgPrt n) HdrF.roleCode = 2)

/-- Dynamic capacity handed out (R171 to R173): an add makes an extent at epoch 1 in the lowest free DPA with a grant for each host, or adds
hosts to one that exists under the next epoch; a response takes up or declines what is reserved; a stand-in adopts an extent without frames.
Memory is as before. That the lowest free number, DPA and stripe are taken is the model's choice (log entry 14). -/
def Obligations.CapacityIsAddedAndAccepted : Prop :=
  (∀ s via region size hosts b n rs, s.m.mailbox via = true → region < 8 → hosts ≠ [] → hosts.length ≤ 4096 →
    s.m.addRefused s.fuse.lifecycle (s.m.region region) size hosts = false → (s.m.region region).durable = false →
    s.m.freeDpa (s.m.region region) size = some b → s.m.freeExt = some n →
    (if (s.m.region region).thin then some [] else s.m.allocRuns (size / 4096)) = some rs → s.m.grantRoom hosts →
    ∃ t, exec (.initiateDcAdd via none region size none hosts) s = .next t ∧ Kept s t ∧ t.m.mem = s.m.mem ∧
      t.m.fab.extents = mapPut s.m.fab.extents n { base := b, size := size, region := region, epoch := 1, hosts := hosts, order := s.m.fab.order, adopted := none, stripe := none, runs := rs, suspended := false, closing := false, zeroing := false } ∧
      t.m.fab.grants = (s.m.fab.grants.filter fun g => !(hosts.contains g.ctx && g.ext = n)) ++ hosts.map (fun c => { ctx := c, ext := n, epoch := 1, st := if s.m.isDirect c then .reserved else .active }) ∧
      t.m.out.getLast? = some (.replyVals via .success [n])) ∧
  (∀ s via n e hosts region size base, s.m.mailbox via = true → s.m.ext n = some e → hosts ≠ [] → e.closing = false → e.zeroing = false →
    (e.hosts ++ hosts).length ≤ 4096 →
    s.m.addBad s.fuse.lifecycle { s.m.extReg e with durable := false } (e.hosts ++ hosts) = false →
    s.m.ringsClear e → s.m.grantRoom hosts →
    ∃ t, exec (.initiateDcAdd via (some n) region size base hosts) s = .next t ∧ Kept s t ∧ t.m.mem = s.m.mem ∧
      mapGet t.m.fab.extents n = some { e with epoch := (e.epoch + 1) % 65536, hosts := e.hosts ++ hosts } ∧
      (∀ c, c ∈ hosts → t.m.grant c n = some { ctx := c, ext := n, epoch := (e.epoch + 1) % 65536, st := if s.m.isDirect c then .reserved else .active }) ∧
      t.m.out.getLast? = some (.replyVals via .success [n])) ∧
  (∀ s port ld ext g e, port < 96 → s.m.ldMailbox port ld = true → s.m.grant (s.m.ldOf port ld).1 ext = some g → g.st = .reserved →
    s.m.ext ext = some e → exec (.addDcResponse port ld ext true) s =
      .next (s.withM (({ s.m with fab := { s.m.fab with grants := s.m.fab.grants.map fun x => if x = g then { x with st := .active, epoch := e.epoch } else x } }).send (.ldReply port ld .success [])))) ∧
  (∀ s port ld ext g e, port < 96 → s.m.ldMailbox port ld = true → s.m.grant (s.m.ldOf port ld).1 ext = some g → g.st = .reserved →
    s.m.ext ext = some e → (e.hosts.filter fun c => !List.contains [(s.m.ldOf port ld).1] c) ≠ [] → s.m.ringsClear e →
    mapGet s.m.dir.watch (s.m.ldOf port ld).1 = none →
    ∃ t, exec (.addDcResponse port ld ext false) s = .next t ∧ Kept s t ∧ t.m.mem = s.m.mem ∧ t.m.led = s.m.led ∧ t.m.tier = s.m.tier ∧
      mapGet t.m.fab.extents ext = some { e with hosts := e.hosts.filter (fun c => !List.contains [(s.m.ldOf port ld).1] c), epoch := (e.epoch + 1) % 65536 } ∧
      t.m.out = s.m.out ++ [.ldReply port ld .success []]) ∧
  (∀ s via lost region base size stripe n, s.m.mailbox via = true → region < 8 → (s.m.region region).durable = true → lost ≠ 0xFF →
    s.m.standsFor = some lost → size ≠ 0 → size % granuleBytes = 0 → base % granuleBytes = 0 → (s.m.region region).base ≤ base →
    base + size ≤ (s.m.region region).base + (s.m.region region).len →
    (∀ e, e ∈ s.m.fab.extents → overlaps base size e.2.base e.2.size = false) → stripe + size / granuleBytes ≤ s.m.stripeSpace / 512 →
    s.m.isDomain (s.m.region region).domain = true → s.m.freeExt = some n → (∀ w, w ∈ s.m.led.wins → w.1 < 16384) →
    ∃ t, exec (.extAdopt via lost region base size stripe) s = .next t ∧ Kept s t ∧
      t.m.fab = { s.m.fab with order := s.m.fab.order + 1, extents := mapPut s.m.fab.extents n { base := base, size := size, region := region, epoch := 1, hosts := [], order := s.m.fab.order, adopted := some lost, stripe := some stripe, runs := [], suspended := false, closing := false, zeroing := false } } ∧
      t.m.work = { s.m with fab := t.m.fab }.work ∧ t.m.out.getLast? = some (.replyVals via .success [n]))

/-- Dynamic capacity taken back (R177): a release asks the named hosts and waits, a move replaces the host set under the next epoch, a host
leaves by its own release, and when every slice has taken the epoch the change completes and an extent without hosts is freed. That the
release runs as a background command is the model's reading (log entry 112). -/
def Obligations.CapacityIsReleasedAndMoved : Prop :=
  (∀ s via ext hosts e, s.m.mailbox via = true → s.m.ext ext = some e → (∀ h, h ∈ hosts → h ∈ e.hosts) → hosts.Nodup →
    s.m.bgBusy via = false → s.m.releaseBlocked e hosts = false → s.m.noChange ext →
    ∃ t, exec (.initiateDcRelease via ext hosts false) s = .next t ∧ Kept s t ∧ t.m.mem = s.m.mem ∧ t.m.led = s.m.led ∧
      t.m.fab = { s.m.fab with changes := s.m.fab.changes ++ [{ ext := ext, kind := .release hosts, via := some via, started := true }] } ∧
      t.m.mgmt.bg = s.m.mgmt.bg ++ [{ via := via, opcode := 0x5605, arg := ext }] ∧ .reply via .background [] ∈ t.m.out) ∧
  (∀ s via ext hosts e, s.m.mailbox via = true → s.m.ext ext = some e → hosts ≠ [] → hosts.Nodup → (∀ h, h ∈ hosts → h < 4096) →
    (2 ≤ hosts.length → (s.m.extReg e).hdmDb = true) → s.m.bgBusy via = false → s.m.noChange ext → s.m.ringsClear e →
    s.m.grantRoom (hosts.filter fun h => !e.hosts.contains h) →
    (∀ h, h ∈ e.hosts → mapGet s.m.dir.watch h = none) →
    ∃ t, exec (.extMove via ext hosts) s = .next t ∧ Kept s t ∧ t.m.mem = s.m.mem ∧ t.m.led = s.m.led ∧
      mapGet t.m.fab.extents ext = some { e with epoch := (e.epoch + 1) % 65536, hosts := hosts } ∧
      t.m.fab.changes = s.m.fab.changes ++ [{ ext := ext, kind := .move hosts, via := some via, started := true }] ∧
      .reply via .background [] ∈ t.m.out) ∧
  (∀ s port ld ext e c, port < 96 → s.m.ldMailbox port ld = true → (s.m.ldOf port ld).1 = c → s.m.ext ext = some e → c ∈ e.hosts →
    s.m.releaseBlocked e (e.hosts.filter fun h => h = c) = false → (e.hosts.filter fun h => !List.contains [c] h) ≠ [] → s.m.ringsClear e →
    mapGet s.m.dir.watch c = none →
    ∃ t, exec (.releaseDc (.ld port ld) ext) s = .next t ∧ Kept s t ∧ t.m.mem = s.m.mem ∧ t.m.led = s.m.led ∧ t.m.tier = s.m.tier ∧
      mapGet t.m.fab.extents ext = some { e with hosts := e.hosts.filter (fun h => !List.contains [c] h), epoch := (e.epoch + 1) % 65536 } ∧
      t.m.out = s.m.out ++ [.ldReply port ld .success []]) ∧
  (∀ s via ext e c, s.m.mailbox via = true → s.m.ext ext = some e → c ∈ e.hosts →
    s.m.releaseBlocked e (e.hosts.filter fun h => h = c) = false → (e.hosts.filter fun h => !List.contains [c] h) ≠ [] → s.m.ringsClear e →
    mapGet s.m.dir.watch c = none →
    ∃ t, exec (.releaseDc (.gfd via c) ext) s = .next t ∧ Kept s t ∧ t.m.mem = s.m.mem ∧ t.m.led = s.m.led ∧ t.m.tier = s.m.tier ∧
      mapGet t.m.fab.extents ext = some { e with hosts := e.hosts.filter (fun h => !List.contains [c] h), epoch := (e.epoch + 1) % 65536 } ∧
      t.m.out.getLast? = some (.reply via .success [])) ∧
  (∀ s ext e c v, s.m.runs = true → s.m.ext ext = some e → c ∈ s.m.fab.changes → c.ext = ext → c.started = true → c.kind = .release [] →
    c.via = some v → (∀ x, x ∈ s.m.fab.changes → x.ext = ext → x = c) → s.m.oldEpochWork ext e = false → s.m.saving = false →
    e.hosts ≠ [] →
    exec (.epochTakenAllSlices ext) s =
      .next (s.withM ((({ s.m with fab := { s.m.fab with changes := s.m.fab.changes.filter fun x => x != c } }).bgDone v).reply v .success []))) ∧
  (∀ s ext e c v, s.m.runs = true → s.m.ext ext = some e → c ∈ s.m.fab.changes → c.ext = ext → c.started = true → c.kind = .release [] →
    c.via = some v → (∀ x, x ∈ s.m.fab.changes → x.ext = ext → x = c) → s.m.oldEpochWork ext e = false → s.m.saving = false →
    e.hosts = [] → (s.m.extReg e).durable = false → s.m.key.fronts = [] →
    (∀ w, w ∈ s.m.dir.watch → inLines e.base e.size w.2 = false) →
    ∃ t, exec (.epochTakenAllSlices ext) s = .next t ∧ Kept s t ∧ t.m.mem = Memory.clear s.m.mem e.base e.size ∧
      t.m.fab.extents = mapDel s.m.fab.extents ext ∧ t.m.fab.changes = s.m.fab.changes.filter (fun x => x != c) ∧ t.m.led = s.m.led ∧
      t.m.out.getLast? = some (.reply v .success [])) ∧
  (∀ s via port ld, port < 96 → s.m.mailbox via = true → ld < 16 → (s.m.ldOf port ld).2 = true →
    (∃ t, exec (.tunnelManagementCommand via port ld .extentList) s = .next t ∧ Answers s t (.replyVals via .success (s.m.ldExtents port ld))) ∧
    ∃ t, exec (.tunnelManagementCommand via port ld .other) s = .next t ∧ Answers s t (.reply via .unsupported []))

/-- The steward function (R189, R190, R193, R196, R207 to R211): bus-master enable, MSI-X and the power state change and what is pending
goes out when it may; an FLR resets the function; a new port is designated with a function reset; the value 0xFF
withdraws the designation. -/
def Obligations.StewardFunctionChanges : Prop :=
  (∀ s, ∃ t, exec .bmeSet s = .next t ∧ Kept s t ∧ t.m.work = s.m.work ∧ t.m.get pgStw StwF.bme = 1 ∧
    t.m.stw = { s.m.stw with pend := s.m.stw.pend.filter fun v => !(s.m.set pgStw StwF.bme 1).msixOpen v } ∧
    ∀ v e, v ∈ s.m.stw.pend → mapGet s.m.stw.msix v = some e → (s.m.set pgStw StwF.bme 1).msixOpen v = true → .msix v e.addr e.data ∈ t.m.out) ∧
  (∀ s, s.m.stw.fetch = none → exec .bmeClear s = .next (s.withM (s.m.set pgStw StwF.bme 0))) ∧
  (∀ s f, s.m.stw.fetch = some f → bit (s.m.get pgStw HdrF.errSev) 8 = false →
    ∃ t, exec .bmeClear s = .next t ∧ Kept s t ∧ t.m.work = s.m.work ∧ t.m.get pgStw StwF.bme = 0 ∧ t.m.stw.fetch = none ∧
      t.m.get pgStw StwF.state = 5 ∧ t.m.get pgStw StwF.result = 1 ∧ t.m.stw.quar = s.m.stw.quar ++ f.out.map Prod.fst) ∧
  (∀ s, s.m.is pgStw StwF.valid = true → s.m.stw.fetch = none →
    ∃ t, exec .flr s = .next t ∧ Kept s t ∧ t.m.work = s.m.work ∧ t.m.out = s.m.out ∧
      t.m.stw = { s.m.stw with bars := [], msix := [], pend := [], flr := true } ∧
      t.m.get pgStw StwF.flrCount = (s.m.get pgStw StwF.flrCount + 1) % 65536 ∧ t.m.get pgStw StwF.bme = 0 ∧
      t.m.get pgStw StwF.msixEn = 0 ∧ t.m.get pgStw StwF.funcMask = 0 ∧ t.m.get pgStw StwF.d3hot = 0) ∧
  (∀ s, exec .flrDone s = .next (s.withM { s.m with stw := { s.m.stw with flr := false } })) ∧
  (∀ s enable mask, ∃ t, exec (.msixEnableChange enable mask) s = .next t ∧ Kept s t ∧ t.m.work = s.m.work ∧
    t.m.get pgStw StwF.msixEn = b2n enable ∧ t.m.get pgStw StwF.funcMask = b2n mask ∧
    ((enable = false ∨ mask = true) → t.m = (s.m.set pgStw StwF.msixEn (b2n enable)).set pgStw StwF.funcMask (b2n mask))) ∧
  (∀ s v, v < 2048 → ∃ t, exec (.msixVectorUnmask v) s = .next t ∧ Kept s t ∧ t.m.work = s.m.work ∧
    (∃ e, mapGet t.m.stw.msix v = some e ∧ e.masked = false) ∧
    (∀ n, n ≠ v → mapGet t.m.stw.msix n = mapGet s.m.stw.msix n) ∧
    (s.m.is pgStw StwF.msixEn = true → s.m.is pgStw StwF.bme = true → s.m.is pgStw StwF.funcMask = false → s.m.is pgStw StwF.d3hot = false →
      v ∉ t.m.stw.pend)) ∧
  (∀ s d, ∃ t, exec (.powerStateChange d) s = .next t ∧ Kept s t ∧ t.m.work = s.m.work ∧ t.m.get pgStw StwF.d3hot = b2n d ∧
    (d = true → t.m = s.m.set pgStw StwF.d3hot 1)) ∧
  (∀ s via port, s.m.mailbox via = true → port ≠ 0xFF → s.m.leadsDirect port = true → s.m.stw.fetch = none →
    bit (s.m.get pgStw HdrF.errSev) 11 = false →
    ∃ t, exec (.stwDesignate via port) s = .next t ∧ Kept s t ∧ t.m.work = s.m.work ∧ .reply via .success [] ∈ t.m.out ∧
      t.m.get pgStw StwF.stewardPort = port ∧ t.m.get pgStw StwF.valid = 1 ∧ t.m.get pgStw HdrF.roleCode = 1 ∧ t.m.stw.msix = [] ∧
      t.m.get pgStw StwF.bme = 0 ∧ t.m.get pgStw StwF.msixEn = 0 ∧ bit (t.m.get pgStw HdrF.err) 11 = true) ∧
  (∀ s via, s.m.mailbox via = true → s.m.stw.fetch = none → bit (s.m.get pgStw HdrF.errSev) 11 = false →
    ∃ t, exec (.stwDesignate via 0xFF) s = .next t ∧ Kept s t ∧ t.m.work = s.m.work ∧ .reply via .success [] ∈ t.m.out ∧
      t.m.get pgStw StwF.valid = 0 ∧ t.m.get pgStw HdrF.roleCode = 0 ∧ t.m.mailbox .steward = false ∧ t.m.mailbox .fmLink = false ∧
      (s.m.mailbox .sideband = true → t.m.mailbox .sideband = true)) ∧
  (∀ s via port, s.m.mailbox via = true → port ≠ 0xFF → s.m.leadsDirect port = false →
    ∃ t, exec (.stwDesignate via port) s = .next t ∧ Answers s t (.reply via .invalidInput []))

/-- The firmware fetch (R204 to R206): START begins reads of at most 512 bytes under at most 16 tags, or is refused with INVALID for a wrong
request; completions are staged; an abort, a timeout or an error ends the fetch and quarantines its tags; an image that authenticates is
written to its slot. -/
def Obligations.FirmwareFetchRuns : Prop :=
  (∀ s, s.m.stw.fetch = none → s.m.stw.transfer = none → s.m.is pgStw StwF.bme = true → s.m.is pgStw StwF.msixEn = true → s.m.stw.quar = [] →
    4096 ≤ s.m.get pgStw StwF.fwLen → s.m.get pgStw StwF.fwLen ≤ 16777216 → s.m.get pgStw StwF.fwLen % 4 = 0 →
    (s.m.get pgStw StwF.slot = 1 ∨ s.m.get pgStw StwF.slot = 2) → s.m.get pgStw StwF.slot ≠ s.m.get pgGlb GlbF.fwSlot →
    ∃ t f, exec .fwFetchStart s = .next t ∧ Kept s t ∧ t.m.work = s.m.work ∧ t.m.stw.fetch = some f ∧
      f.addr = s.m.get pgStw StwF.fwAddr * 4096 ∧ f.len = s.m.get pgStw StwF.fwLen ∧ f.slot = s.m.get pgStw StwF.slot ∧ f.staged = 0 ∧
      f.next = min f.len 8192 ∧ f.out.length = min 16 ((f.len + 511) / 512) ∧ (∀ o, o ∈ f.out → .fwRead o.1 (f.addr + 512 * o.1) o.2 ∈ t.m.out) ∧
      t.m.get pgStw StwF.state = 1) ∧
  (∀ s, s.m.stw.fetch = none → s.m.stw.transfer = none → s.m.is pgStw StwF.bme = true → s.m.is pgStw StwF.msixEn = true →
    (s.m.get pgStw StwF.fwLen < 4096 ∨ 16777216 < s.m.get pgStw StwF.fwLen ∨ s.m.get pgStw StwF.fwLen % 4 ≠ 0 ∨
      s.m.get pgStw StwF.slot = s.m.get pgGlb GlbF.fwSlot) → bit (s.m.get pgStw HdrF.errSev) 9 = false →
    ∃ t, exec .fwFetchStart s = .next t ∧ Kept s t ∧ t.m.work = s.m.work ∧ t.m.stw.fetch = none ∧ t.m.stw.quar = s.m.stw.quar ∧
      t.m.get pgStw StwF.state = 5 ∧ t.m.get pgStw StwF.result = 7 ∧ bit (t.m.get pgStw HdrF.err) 9 = true) ∧
  (∀ s f, s.m.stw.fetch = some f → bit (s.m.get pgStw HdrF.errSev) 8 = false →
    ∃ t, exec .fwFetchAbort s = .next t ∧ Kept s t ∧ t.m.work = s.m.work ∧ t.m.stw.fetch = none ∧ t.m.get pgStw StwF.state = 5 ∧
      t.m.get pgStw StwF.result = 3 ∧ t.m.get pgStw StwF.abort = 0 ∧ t.m.stw.quar = s.m.stw.quar ++ f.out.map Prod.fst) ∧
  (∀ s f tag len, s.m.stw.fetch = some f → tag ∉ s.m.stw.quar → tag ∈ f.out.map Prod.fst → f.next = f.len → 0 < f.len →
    ∃ t, exec (.fwReadCompletion tag true len) s = .next t ∧ Kept s t ∧ t.m.work = s.m.work ∧ t.m.out = s.m.out ∧
      t.m.stw = { s.m.stw with fetch := some { f with out := f.out.filter (fun o => o.1 != tag), staged := f.staged + len } } ∧
      (f.len ≤ f.staged + len → t.m.get pgStw StwF.state = 2)) ∧
  (∀ s tag ok len, tag ∈ s.m.stw.quar → bit (s.m.get pgStw HdrF.errSev) 10 = false →
    ∃ t, exec (.fwReadCompletion tag ok len) s = .next t ∧ Kept s t ∧ t.m.work = s.m.work ∧ t.m.stw.fetch = s.m.stw.fetch ∧
      t.m.stw.quar = s.m.stw.quar.filter (fun x => x != tag) ∧
      t.m.get pgStw StwF.stwLateCpl = (s.m.get pgStw StwF.stwLateCpl + 1) % 2 ^ 48 ∧ bit (t.m.get pgStw HdrF.err) 10 = true) ∧
  (∀ s tag, tag ∈ s.m.stw.quar → exec (.fwCplTimeout tag) s =
    .next (s.withM { s.m with stw := { s.m.stw with quar := s.m.stw.quar.filter fun x => x != tag } })) ∧
  (∀ s f tag, s.m.stw.fetch = some f → tag ∉ s.m.stw.quar → tag ∈ f.out.map Prod.fst → bit (s.m.get pgStw HdrF.errSev) 9 = false →
    ∃ t, exec (.fwCplTimeout tag) s = .next t ∧ Kept s t ∧ t.m.work = s.m.work ∧ t.m.stw.fetch = none ∧ t.m.get pgStw StwF.state = 5 ∧
      t.m.get pgStw StwF.result = 4 ∧ t.m.stw.quar = s.m.stw.quar ++ (f.out.filter (fun o => o.1 != tag)).map Prod.fst) ∧
  (∀ s f v, s.m.stw.fetch = some f → f.len ≤ f.staged → ∃ t, exec (.fwFetchDone true v) s = .next t ∧ Kept s t ∧ t.m.mem = s.m.mem ∧
    t.m.boot = (if f.slot = 1 then { s.m.boot with slot1 := { image := true, good := true, version := v } } else { s.m.boot with slot2 := { image := true, good := true, version := v } }) ∧
    t.m.stw.fetch = none ∧ t.m.get pgStw StwF.state = 4 ∧ t.m.get pgStw StwF.result = 0) ∧
  (∀ s f v, s.m.stw.fetch = some f → f.len ≤ f.staged → bit (s.m.get pgStw HdrF.errSev) 9 = false →
    ∃ t, exec (.fwFetchDone false v) s = .next t ∧ Kept s t ∧ t.m.work = s.m.work ∧ t.m.stw.fetch = none ∧
      t.m.get pgStw StwF.state = 5 ∧ t.m.get pgStw StwF.result = 6)

/-- A memory channel in service (R301, R327 to R331): reads that decode are counted and served, one that does not freezes the channel;
refreshes are issued or held in a lull; temperatures set the hot mode; lulls start and end; the scrub walks rows. Memory is as before. -/
def Obligations.ChannelsReadRefreshAndScrub : Prop :=
  (∀ s ch l u n w e act a, ch < 96 → s.m.runs = true → s.m.linePlace l = some (u, n) → chanOf u = ch → s.m.works (pgMch ch) = true →
    e < s.m.get (pgMch ch) MchF.edcRetryLimit → eccDecode (w.map BitVec.toNat) = .clean → s.m.lineAs l = some a → a.kind ≠ 2 →
    s.m.modeOf a.d = 0 →
    ∃ t, exec (.mchReadReturn ch l w e act none) s = .next t ∧ Kept s t ∧ t.m.mem = s.m.mem ∧ t.m.poison = s.m.poison ∧ t.m.tier = s.m.tier ∧
      t.m.fab = s.m.fab ∧ t.m.get (pgMch ch) MchF.linesRead = (s.m.get (pgMch ch) MchF.linesRead + 1) % 2 ^ 48 ∧
      t.m.get (pgMch ch) MchF.edcRetries = (s.m.get (pgMch ch) MchF.edcRetries + e) % 2 ^ 48) ∧
  (∀ s ch f n w e act, ch < 96 → s.m.runs = true → chanOf f = ch → s.m.works (pgMch ch) = true →
    e < s.m.get (pgMch ch) MchF.edcRetryLimit → eccDecode (w.map BitVec.toNat) = .bad → s.m.tier.moves = [] →
    s.m.frozenCount < s.m.get pgGlb GlbF.maxFrozen → bit (s.m.get (pgMch ch) HdrF.errSev) 8 = false →
    ∃ t, exec (.mchReadReturn ch (.pool f n) w e act none) s = .next t ∧ Kept s t ∧ t.m.mem = s.m.mem ∧ t.m.poison = s.m.poison ∧
      t.m.blockState (pgMch ch) = stFrozen ∧ t.m.get (pgMch ch) MchF.cause = 1 ∧ t.m.get (pgMch ch) MchF.selfRefresh = 1 ∧
      t.m.get (pgMch ch) MchF.ueLines = (s.m.get (pgMch ch) MchF.ueLines + 1) % 2 ^ 48) ∧
  (∀ s ch, ch < 96 → s.m.runs = true → s.m.works (pgMch ch) = true → s.m.is (pgMch ch) MchF.selfRefresh = false →
    (s.m.chan ch).lull = false →
    ∃ t, exec (.refreshDue ch) s = .next t ∧ Kept s t ∧ t.m.mem = s.m.mem ∧ t.m.tier = s.m.tier ∧ t.m.key = s.m.key ∧
      t.m.get (pgMch ch) MchF.refreshes = (s.m.get (pgMch ch) MchF.refreshes + 1) % 2 ^ 48 ∧
      (t.m.chan ch).spellUse.getD 1 0 = (s.m.chan ch).spellUse.getD 1 0 + (7 + s.m.get (pgMch ch) MchF.refreshes % 2)) ∧
  (∀ s ch, ch < 96 → s.m.runs = true → s.m.works (pgMch ch) = true → s.m.is (pgMch ch) MchF.selfRefresh = false →
    (s.m.chan ch).lull = true → exec (.refreshDue ch) s =
      .next (s.withM (s.m.setChan ch { s.m.chan ch with refreshHeld := (s.m.chan ch).refreshHeld + 1 }))) ∧
  (∀ s p a b, p < 48 → s.m.runs = true → s.m.glb.dramUp = true → a ≤ 255 → b ≤ 255 →
    (∀ c, c = 2 * p ∨ c = 2 * p + 1 → bit (s.m.get (pgMch c) HdrF.errSev) 15 = false ∧ bit (s.m.get (pgMch c) HdrF.errSev) 16 = false) →
    ∃ t, exec (.tempPoll p a b) s = .next t ∧ Kept s t ∧ t.m.mem = s.m.mem ∧ t.m.tier = s.m.tier ∧ t.m.chn = s.m.chn ∧
      ∀ c, c = 2 * p ∨ c = 2 * p + 1 → t.m.get (pgMch c) MchF.tempA = a ∧ t.m.get (pgMch c) MchF.tempB = b ∧
        (85 < max a b → t.m.is (pgMch c) MchF.hot = true) ∧ (max a b ≤ 82 → t.m.get (pgMch c) MchF.hot = 0) ∧
        (82 < max a b → max a b ≤ 85 → t.m.get (pgMch c) MchF.hot = s.m.get (pgMch c) MchF.hot)) ∧
  (∀ s ch, ch < 96 → s.m.runs = true → s.m.saving = false → s.m.works (pgMch ch) = true → (s.m.chan ch).lull = false →
    (s.m.chan ch).spellUse.getD 2 0 = 0 → exec (.lullDue ch) s = .next (s.withM (s.m.setChan ch { s.m.chan ch with lull := true }))) ∧
  (∀ s ch rd wr, ch < 96 → s.m.runs = true → (s.m.chan ch).lull = true → rd < 256 → wr < 256 →
    ∃ t, exec (.lullDone ch true rd wr) s = .next t ∧ Kept s t ∧ t.m.mem = s.m.mem ∧ t.m.tier = s.m.tier ∧ (t.m.chan ch).lull = false ∧
      (t.m.chan ch).refreshHeld = 0 ∧ t.m.get (pgMch ch) MchF.eyeRd = rd ∧ t.m.get (pgMch ch) MchF.eyeWr = wr ∧
      t.m.get (pgMch ch) MchF.lulls = (s.m.get (pgMch ch) MchF.lulls + 1) % 2 ^ 48 ∧
      t.m.get (pgMch ch) MchF.refreshes % 2 ^ 48 = (s.m.get (pgMch ch) MchF.refreshes + (s.m.chan ch).refreshHeld) % 2 ^ 48) ∧
  (∀ s ch h, ch < 96 → s.m.runs = true → s.m.saving = false → s.m.works (pgMch ch) = true → s.m.is (pgMch ch) MchF.scrubEn = true →
    (s.m.chan ch).lull = false → headerOk ch (s.m.get (pgMch ch) MchF.scrubRow) h = true →
    ∃ t, exec (.scrubRow ch h []) s = .next t ∧ Kept s t ∧ t.m.mem = s.m.mem ∧ t.m.poison = s.m.poison ∧ t.m.tier = s.m.tier ∧
      t.m.get (pgMch ch) MchF.scrubRow = (s.m.get (pgMch ch) MchF.scrubRow + 1) % 2 ^ 21 ∧
      t.m.get (pgMch ch) MchF.scrubLines = (s.m.get (pgMch ch) MchF.scrubLines + 28) % 2 ^ 48)

/-- A channel that leaves service and returns (R32, R332, R334, R335): FREEZE and THAW act on channels alone; a freeze stops it in
self-refresh; a thaw trains it and settles what was touched; RETIRE starts an evacuation or is refused; a step moves what a unit holds.
Memory is as before. -/
def Obligations.ChannelsFreezeThawAndRetire : Prop :=
  (∀ s ch, ch < 96 → s.m.runs = true → s.m.works (pgMch ch) = true → s.m.tier.moves = [] →
    s.m.frozenCount < s.m.get pgGlb GlbF.maxFrozen → bit (s.m.get (pgMch ch) HdrF.errSev) 13 = false →
    ∃ t, exec (.pageFreeze (pgMch ch)) s = .next t ∧ Kept s t ∧ t.m.mem = s.m.mem ∧ t.m.poison = s.m.poison ∧ t.m.tier = s.m.tier ∧
      t.m.blockState (pgMch ch) = stFrozen ∧ t.m.get (pgMch ch) MchF.cause = 6 ∧ t.m.get (pgMch ch) MchF.selfRefresh = 1 ∧
      (t.m.chan ch).touched = (s.m.chan ch).touched ∧ ∀ c, c < 96 → c ≠ ch → t.m.blockState (pgMch c) = s.m.blockState (pgMch c)) ∧
  (∀ s p, pageOk p = true → p.ty ≠ .mch → exec (.pageFreeze p) s = .next s ∧ exec (.pageThaw p) s = .next s) ∧
  (∀ s ch, ch < 96 → s.m.runs = true → s.m.frozen ch = true → (s.m.chan ch).retiring = none →
    exec (.pageThaw (pgMch ch)) s = .next (s.withM ((s.m.setChan ch { s.m.chan ch with thawing := true }).set (pgMch ch) MchF.selfRefresh 0))) ∧
  (∀ s ch, ch < 96 → s.m.runs = true → s.m.frozen ch = true → (s.m.chan ch).thawing = true →
    (∃ t, exec (.thawTrainDone ch true) s = .next t ∧ Kept s t ∧ t.m.work = { s.m with chn := t.m.chn }.work ∧
      t.m.blockState (pgMch ch) = (if s.m.is (pgMch ch) HdrF.enable then stReady else stOff) ∧
      t.m.chan ch = { s.m.chan ch with thawing := false, settling := true, settleTotal := (s.m.chan ch).touched.length }) ∧
    (bit (s.m.get (pgMch ch) HdrF.errSev) 13 = false →
      ∃ t, exec (.thawTrainDone ch false) s = .next t ∧ Kept s t ∧ t.m.work = { s.m with chn := t.m.chn }.work ∧ t.m.frozen ch = true ∧
        t.m.get (pgMch ch) MchF.selfRefresh = 1 ∧ t.m.chan ch = { s.m.chan ch with thawing := false } ∧
        bit (t.m.get (pgMch ch) HdrF.err) 13 = true)) ∧
  (∀ s ch x rest l, ch < 96 → s.m.runs = true → s.m.saving = false → s.m.works (pgMch ch) = true → (s.m.chan ch).settling = true →
    (∀ e, e ∈ s.m.chn.internalFrames → chanOf e.1 ≠ ch) → (s.m.chan ch).touched = x :: rest → s.m.grp.recons = [] →
    s.m.lineAtPlace (x / 64 * 96 + ch) (x % 64) = some l → s.m.fcGet l = none → s.m.isDurable l = false →
    ∃ t, exec (.settleStep ch) s = .next t ∧ Kept s t ∧ t.m.mem = s.m.mem ∧ t.m.poison = mapPut s.m.poison l 1 ∧ t.m.fab = s.m.fab ∧
      t.m.tier = s.m.tier ∧ (pageOfLine l * 4096, 4096) ∈ t.m.mgmt.poisonList) ∧
  (∀ s ch, ch < 96 → s.m.runs = true → s.m.saving = false → s.m.works (pgMch ch) = true → (s.m.chan ch).settling = true →
    (∀ e, e ∈ s.m.chn.internalFrames → chanOf e.1 ≠ ch) → (s.m.chan ch).touched = [] →
    ∃ t, exec (.settleStep ch) s = .next t ∧ Kept s t ∧ t.m.work = { s.m with chn := t.m.chn }.work ∧ t.m.out = s.m.out ∧
      t.m.chan ch = { s.m.chan ch with settling := false } ∧ t.m.get (pgMch ch) HdrF.opState = 0) ∧
  (∀ s ch, ch < 96 → s.m.runs = true → s.m.frozen ch = true → (s.m.chan ch).retiring = none → s.m.retireShort ch = false →
    ∃ t, exec (.mchRetire ch) s = .next t ∧ Kept s t ∧ t.m.work = { s.m with chn := t.m.chn }.work ∧ t.m.out = s.m.out ∧
      t.m.chan ch = { s.m.chan ch with retiring := some 0, thawing := false, settling := false } ∧ t.m.get (pgMch ch) MchF.retire = 1 ∧
      t.m.get (pgMch ch) MchF.selfRefresh = 0 ∧ t.m.frozen ch = true) ∧
  (∀ s ch, ch < 96 → s.m.runs = true → s.m.retireShort ch = true → bit (s.m.get (pgMch ch) HdrF.errSev) 0 = false →
    ∃ t, exec (.mchRetire ch) s = .next t ∧ Kept s t ∧ t.m.work = s.m.work ∧ bit (t.m.get (pgMch ch) HdrF.err) 0 = true) ∧
  (∀ s ch v l f, ch < 96 → (s.m.chan ch).retiring = some v → s.m.runs = true → s.m.saving = false → (s.m.chan ch).touched = [] →
    v + 1 < chanUnits → s.m.chn.internalFrames = [] → v * 96 + ch < poolFrames → runsIndex s.m.aux.parityRuns (v * 96 + ch) = none →
    runsIndex s.m.aux.targetRuns (v * 96 + ch) = none → s.m.lineAtPlace (v * 96 + ch) 0 = some l → s.m.tier.moves = [] →
    s.m.evacFrame (s.m.backedBy (pageOfLine l)).isSome = some f → s.m.modeOf (s.m.domainAt l) ≠ 2 →
    ∃ t, exec (.evacuateStep ch []) s = .next t ∧ Kept s t ∧ t.m.mem = s.m.mem ∧ t.m.poison = s.m.poison ∧ t.m.fab = s.m.fab ∧
      (t.m.page (pageOfLine l)).st = .plain f ∧ (t.m.chan ch).retiring = some (v + 1))

/-- Pages between tiers (R251 to R259): a move is committed and the old place freed; a page placed at a peer leaves the module; a holder
stores, sends and frees pages of peers; a page its holder has not is LOST; the cooling walk visits a warm page and halves its heat. The
frame or slot taken is the lowest free one (log entry 14). -/
def Obligations.PagesMoveBetweenTiers : Prop :=
  (∀ s page f fr, s.m.runs = true → s.m.saving = false → mapGet s.m.tier.moves page = some (.plain f) → (s.m.page page).st = .plain fr →
    ∃ t, exec (.pageMoveCommit page) s = .next t ∧ Kept s t ∧ t.m.mem = s.m.mem ∧ t.m.poison = s.m.poison ∧ t.m.fab = s.m.fab ∧
      t.m.led = s.m.led ∧ (t.m.page page).st = .plain f ∧ (t.m.page page).moving = false ∧ (t.m.page page).keep = (s.m.page page).keep ∧
      t.m.tier.moves = mapDel s.m.tier.moves page ∧ t.m.get pgMov MovF.promoted = (s.m.get pgMov MovF.promoted + 1) % 2 ^ 48) ∧
  (∀ s page x slot, s.m.runs = true → s.m.saving = false → mapGet s.m.tier.moves page = some (.peer x slot) →
    (∀ q, q ∈ s.m.tier.puts → q.1 ≠ page) →
    ∃ t, exec (.pageMoveCommit page) s = .next t ∧ Kept s t ∧ t.m.mem = Memory.clear s.m.mem (page * 4096) 4096 ∧
      t.m.poison = s.m.poison.filter (fun e => decide (e.1 < page * 64) || decide (page * 64 + 64 ≤ e.1)) ∧ t.m.fab = s.m.fab ∧
      (t.m.page page).st = .peer x slot ∧ (t.m.page page).moving = false ∧ (t.m.page page).keep = false ∧
      t.m.get pgMov MovF.demotedPeer = (s.m.get pgMov MovF.demotedPeer + 1) % 2 ^ 48) ∧
  (∀ s x slot data f, s.m.runs = true → mapGet s.m.tier.heldFrames (heldKey x (slot % 2 ^ 36)) = none → s.m.heldFor x < s.m.share →
    (s.m.allocRuns 1).bind (fun l => runsNth l 0) = some f →
    ∃ t, exec (.pagePut x slot data) s = .next t ∧ Kept s t ∧ t.m.mem = s.m.mem ∧ t.m.fab = s.m.fab ∧
      t.m.tier.held = mapPut s.m.tier.held (heldKey x (slot % 2 ^ 36)) data ∧
      t.m.tier.heldFrames = mapPut s.m.tier.heldFrames (heldKey x (slot % 2 ^ 36)) f ∧ t.m.tier.pages = s.m.tier.pages) ∧
  (∀ s x slot data, s.m.runs = true → mapGet s.m.tier.heldFrames (heldKey x (slot % 2 ^ 36)) = none → s.m.share ≤ s.m.heldFor x →
    ∃ t, exec (.pagePut x slot data) s = .next t ∧ Kept s t ∧ t.m.mem = s.m.mem ∧ t.m.tier = s.m.tier ∧
      bit (t.m.get pgMov HdrF.err) 13 = true) ∧
  (∀ s x tag slot d f, s.m.runs = true → mapGet s.m.tier.held (heldKey x (slot % 2 ^ 36)) = some d →
    mapGet s.m.tier.heldFrames (heldKey x (slot % 2 ^ 36)) = some f →
    ∃ t, exec (.pageRead x tag slot) s = .next t ∧ Kept s t ∧ t.m.mem = s.m.mem ∧ t.m.tier = s.m.tier ∧
      Queued s t x [mkMsg 4 0x02 tag (bulkBody slot d)]) ∧
  (∀ s x tag slot, s.m.runs = true → mapGet s.m.tier.held (heldKey x (slot % 2 ^ 36)) = none →
    ∃ t, exec (.pageRead x tag slot) s = .next t ∧ Kept s t ∧ t.m.work = { s.m with bfl := t.m.bfl }.work ∧
      Queued s t x [mkMsg 1 0x0C (tag + 65536) []]) ∧
  (∀ s x tag slot, s.m.runs = true →
    ∃ t, exec (.pageFree x tag slot) s = .next t ∧ Kept s t ∧ t.m.mem = s.m.mem ∧ t.m.tier.pages = s.m.tier.pages ∧
      t.m.tier.held = s.m.tier.held.filter (fun e => e.1 != heldKey x (slot % 2 ^ 36)) ∧
      t.m.tier.heldFrames = s.m.tier.heldFrames.filter (fun e => e.1 != heldKey x (slot % 2 ^ 36)) ∧ Queued s t x [mkMsg 1 0x0D tag []]) ∧
  (∀ s x tag slot data p q, s.m.runs = true → (s.m.tier.fetches.find? fun f => f.2 = (tag, x)) = some (p, q) →
    (s.m.page p).st = .peer x slot → (∀ r, r ∈ s.m.led.reqs → r.wait ≠ .fetch) → s.m.frontAt p = none →
    (∀ i, i < 64 → (s.m.openLine (p * 64 + i) (slice data (64 * i) 64) ((mapGetD s.m.tier.tags slot []).getD i 0)).isSome = true) →
    ∃ t, exec (.pageData x tag slot data) s = .next t ∧ Kept s t ∧ t.m.mem = s.m.mem ∧ t.m.poison = s.m.poison ∧ t.m.led = s.m.led ∧
      t.m.tier = { s.m.tier with fetches := s.m.tier.fetches.filter fun f => f.1 != p }) ∧
  (∀ s x tag p q slot, s.m.runs = true → (s.m.tier.fetches.find? fun f => f.2 = (tag, x)) = some (p, q) →
    (s.m.page p).st = .peer x slot → (∀ r, r ∈ s.m.led.reqs → r.wait ≠ .fetch) →
    ∃ t, exec (.pageReadRefused x tag) s = .next t ∧ Kept s t ∧ (t.m.page p).st = .lost ∧
      t.m.mem = Memory.clear s.m.mem (p * 4096) 4096 ∧ t.m.fab = s.m.fab ∧ t.m.led = s.m.led ∧
      (p * 4096, 4096) ∈ t.m.mgmt.poisonList ∧ bit (t.m.get pgMov HdrF.err) 11 = true ∧ bit (t.m.get pgMov HdrF.err) 12 = true) ∧
  (∀ s p f, s.m.runs = true → s.m.saving = false → s.m.is pgMov HdrF.enable = true → s.m.works pgMov = true →
    s.m.get pgMov HdrF.opState ≠ 3 → s.m.get pgMov HdrF.position % dpaPages = p → p + 1 ≠ dpaPages → (s.m.page p).st = .plain f →
    (s.m.page p).heat ≠ 0 →
    ∃ t, exec .coolingWalkStep s = .next t ∧ Kept s t ∧ t.m.mem = s.m.mem ∧ t.m.fab = s.m.fab ∧ t.m.led = s.m.led ∧
      t.m.page p = { s.m.page p with heat := (s.m.page p).heat / 2 } ∧ t.m.get pgMov HdrF.position = p + 1 ∧
      t.m.tier.moves = s.m.tier.moves)

/-- Poison and LOST pages by command (R201, R263, R264, R299): a line is poisoned and listed, or written free of poison; LOST_CLEAR runs in
the background and returns the LOST pages of its range. -/
def Obligations.PoisonAndLostPagesAreCleared : Prop :=
  (∀ s via dpa n e f, s.m.mailbox via = true → dpa % 64 = 0 → s.m.extAt dpa = some (n, e) → e.adopted = none → s.m.lineAtHand (lineOf dpa) f →
    ∃ t, exec (.injectPoison via dpa) s = .next t ∧ Kept s t ∧ t.m.poison = mapPut s.m.poison (lineOf dpa) 1 ∧
      t.m.mem = Memory.putBytes s.m.mem (lineOf dpa * 64) (s.m.line (lineOf dpa)) ∧ t.m.fab = s.m.fab ∧ t.m.led = s.m.led ∧
      (dpa, 64) ∈ t.m.mgmt.poisonList ∧ t.m.out.getLast? = some (.reply via .success [])) ∧
  (∀ s via dpa, s.m.mailbox via = true → s.m.extAt dpa = none →
    ∃ t, exec (.injectPoison via dpa) s = .next t ∧ Answers s t (.reply via .invalidInput [])) ∧
  (∀ s via dpa data x f, s.m.mailbox via = true → dpa % 64 = 0 → s.m.extAt dpa = some x → s.m.lineAtHand (lineOf dpa) f →
    s.m.lineQuiet (lineOf dpa) →
    ∃ t, exec (.clearPoison via dpa data) s = .next t ∧ Kept s t ∧ t.m.poison = mapDel s.m.poison (lineOf dpa) ∧
      t.m.mem = Memory.putBytes s.m.mem (lineOf dpa * 64) (asLine data) ∧ t.m.fab.extents = s.m.fab.extents ∧ t.m.led.wins = s.m.led.wins ∧
      t.m.led.stops = s.m.led.stops ∧ t.m.led.dws = s.m.led.dws ∧ t.m.mgmt.poisonList = s.m.mgmt.poisonList.filter (fun e => e != (dpa, 64)) ∧
      t.m.out.getLast? = some (.reply via .success [])) ∧
  (∀ s via base len, s.m.mailbox via = true → base % 4096 = 0 → len % 4096 = 0 → base + len ≤ dpaBytes → s.m.bgBusy via = false →
    ∃ t, exec (.lostClear via base len) s = .next t ∧ Kept s t ∧ t.m.mem = s.m.mem ∧
      t.m.tier = { s.m.tier with clearing := s.m.tier.clearing ++ [(via, base, len)] } ∧
      t.m.mgmt.bg = s.m.mgmt.bg ++ [{ via := via, opcode := 0xC450, arg := 0 }] ∧ t.m.out.getLast? = some (.reply via .background [])) ∧
  (∀ s via base len rest, s.m.tier.clearing = (via, base, len) :: rest → s.m.runs = true → s.m.saving = false →
    (s.m.tier.pages.map Prod.fst).Pairwise (fun a b => a < b) →
    ∃ t, exec .lostClearDone s = .next t ∧ Kept s t ∧ t.m.mem = s.m.mem ∧ t.m.fab = s.m.fab ∧ t.m.tier.clearing = rest ∧
      t.m.mgmt.bg = s.m.mgmt.bg.filter (fun b => b.via != via) ∧
      (∀ p, (s.m.page p).st = .lost → inPages base len p = true → (t.m.page p).st = .unbacked) ∧
      (∀ p, inPages base len p = false → t.m.page p = s.m.page p) ∧
      t.m.out.getLast? = some (.reply via .success (leBytes 4 (s.m.tier.pages.filter fun e => e.2.st = .lost && inPages base len e.1).length)))

/-- Preset lexicons and the engines (R254, R279 to R281, R287, R349, R398): bytes are loaded, a matching CRC makes the lexicon READY and
copies it to the vault, one that nothing refers to is deleted, a domain takes one; a block starts by class and arrival, and ends with a pack
placed or given up, or a verb's result. Memory is as before. What the compressor makes of a block is free (log entry 20). -/
def Obligations.LexiconsLoadAndEnginesRun : Prop :=
  (∀ s via n off data, s.m.mailbox via = true → lexOk n = true → data ≠ [] → data.length ≤ 16376 → off + data.length ≤ 32768 →
    mapGet s.m.lex.presets n = none →
    ∃ t, exec (.lexWrite via n off data) s = .next t ∧ Kept s t ∧ t.m.work = { s.m with lex := t.m.lex }.work ∧
      t.m.lex = { s.m.lex with presets := mapPut s.m.lex.presets n { st := .loading, bytes := patch (zeros off) off data, len := 0, crc := 0 } } ∧
      t.m.out.getLast? = some (.reply via .success [])) ∧
  (∀ s via n off data x, s.m.mailbox via = true → lexOk n = true → data ≠ [] → data.length ≤ 16376 → off + data.length ≤ 32768 →
    mapGet s.m.lex.presets n = some x → x.st = .loading →
    ∃ t, exec (.lexWrite via n off data) s = .next t ∧ Kept s t ∧ t.m.work = { s.m with lex := t.m.lex }.work ∧
      t.m.lex = { s.m.lex with presets := mapPut s.m.lex.presets n { st := .loading, bytes := patch (x.bytes ++ zeros (off - x.bytes.length)) off data, len := 0, crc := 0 } } ∧
      t.m.out.getLast? = some (.reply via .success [])) ∧
  (∀ s via n off data x, s.m.mailbox via = true → lexOk n = true → data ≠ [] → data.length ≤ 16376 → off + data.length ≤ 32768 →
    mapGet s.m.lex.presets n = some x → x.st = .ready →
    ∃ t, exec (.lexWrite via n off data) s = .next t ∧ Answers s t (.reply via .busy [])) ∧
  (∀ s via n len crc x bs, s.m.mailbox via = true → lexOk n = true → len ≠ 0 → len ≤ 32768 → mapGet s.m.lex.presets n = some x →
    x.st = .loading → bs = (x.bytes ++ zeros (len - x.bytes.length)).take len → crc32c 0 bs = crc →
    ∃ t, exec (.lexCommit via n len crc) s = .next t ∧ Kept s t ∧ t.m.mem = s.m.mem ∧ t.m.tier = s.m.tier ∧
      t.m.lex = { s.m.lex with presets := mapPut s.m.lex.presets n { st := .ready, bytes := bs, len := len, crc := crc } } ∧
      t.m.vlt = { s.m.vlt with lexGen := s.m.vlt.lexGen + 1, lexArea := mapPut s.m.vlt.lexArea n { st := .ready, bytes := bs, len := len, crc := crc } } ∧
      t.m.out.getLast? = some (.reply via .success [])) ∧
  (∀ s via n len crc x, s.m.mailbox via = true → lexOk n = true → len ≠ 0 → len ≤ 32768 → mapGet s.m.lex.presets n = some x →
    x.st = .loading → crc32c 0 ((x.bytes ++ zeros (len - x.bytes.length)).take len) ≠ crc →
    ∃ t, exec (.lexCommit via n len crc) s = .next t ∧ Answers s t (.reply via .invalidInput [])) ∧
  (∀ s via n, s.m.mailbox via = true → lexOk n = true → s.m.lexRefs n = 0 →
    ∃ t, exec (.lexDelete via n) s = .next t ∧ Kept s t ∧ t.m.mem = s.m.mem ∧ t.m.tier = s.m.tier ∧
      t.m.lex = { s.m.lex with presets := mapDel s.m.lex.presets n } ∧
      t.m.vlt = { s.m.vlt with lexGen := s.m.vlt.lexGen + 1, lexArea := mapDel s.m.vlt.lexArea n } ∧
      t.m.out.getLast? = some (.reply via .success [])) ∧
  (∀ s via n, s.m.mailbox via = true → lexOk n = true → s.m.lexRefs n ≠ 0 →
    ∃ t, exec (.lexDelete via n) s = .next t ∧ Answers s t (.reply via .busy [])) ∧
  (∀ s via slot n, s.m.mailbox via = true → lexOk n = true → slot ≠ 0 → slot < 4096 → s.m.lexReady n = true →
    ∃ t, exec (.lexDomainSet via slot n) s = .next t ∧ Kept s t ∧ t.m.work = { s.m with lex := t.m.lex }.work ∧
      t.m.lex = { s.m.lex with domains := mapPut s.m.lex.domains slot n } ∧ t.m.out.getLast? = some (.reply via .success [])) ∧
  (∀ s e j, e < 32 → s.m.runs = true → s.m.saving = false → s.m.works (pgLex e) = true → mapGet s.m.lex.running e = none →
    s.m.nextJob e = some j →
    ∃ t, exec (.lexBlockStart e) s = .next t ∧ Kept s t ∧ t.m.work = { s.m with lex := t.m.lex }.work ∧ t.m.out = s.m.out ∧
      t.m.lex = { s.m.lex with waiting := mapPut s.m.lex.waiting e (dropJob j (mapGetD s.m.lex.waiting e [])), running := mapPut s.m.lex.running e j } ∧
      t.m.get (pgLex e) LexF.class_ = j.cls % 8) ∧
  (∀ s e j c st, e < 32 → s.m.runs = true → s.m.saving = false → mapGet s.m.lex.running e = some j → j.cls = 5 →
    mapGet s.m.tier.moves j.owner = some (.packing j.lexicon) → s.m.lexReady j.lexicon = true → s.m.is pgMov MovF.peerEn = false →
    compressBlock (s.m.lexBytes j.lexicon) false false j.bytes = (c, st) →
    ∃ t, exec (.lexBlockDone e) s = .next t ∧ Kept s t ∧ t.m.mem = s.m.mem ∧ t.m.fab = s.m.fab ∧
      t.m.lex = { s.m.lex with running := mapDel s.m.lex.running e } ∧
      (st = true ∨ 14 < (c.length + 255) / 256 → t.m.tier.moves = mapDel s.m.tier.moves j.owner) ∧
      (st = false → (c.length + 255) / 256 ≤ 14 → ∀ m f a,
        s.m.allocGrains (s.m.domainAt (j.owner * 64)) ((c.length + 255) / 256) = some (m, f, a) →
        t.m.tier.pages = s.m.tier.pages ∧
        t.m.tier.moves = mapPut s.m.tier.moves j.owner (.packed f a ((c.length + 255) / 256) j.lexicon))) ∧
  (∀ s e j v c, e < 32 → s.m.runs = true → s.m.saving = false → mapGet s.m.lex.running e = some j → j.cls ≠ 5 →
    s.m.verb (j.owner / 2 ^ 32) (j.owner % 2 ^ 32) = some v → s.m.lexReady j.lexicon = true → j.compress = true →
    compressBlock (if v.resets then (s.m.jobHist j).2 else (s.m.jobHist j).1) v.stream v.resets j.bytes = c →
    ∃ t, exec (.lexBlockDone e) s = .next t ∧ Kept s t ∧ t.m.mem = s.m.mem ∧ t.m.tier = s.m.tier ∧ t.m.led = s.m.led ∧
      t.m.lex.running = mapDel s.m.lex.running e ∧
      t.m.verb (j.owner / 2 ^ 32) (j.owner % 2 ^ 32) = some { v with lex := some (dcOk, c.1) })

/-- Key slots (R281, R292, R295): a domain is created with its mode and key, destroyed when no region names it, and changes its mode while
it holds no extent. -/
def Obligations.KeyDomainsAreCreatedAndDestroyed : Prop :=
  (∀ s via slot mode src, s.m.mailbox via = true → slotBad slot = false → s.m.modeBad slot mode = false → importTwins src = false →
    mapGet s.m.key.slots slot = none →
    ∃ t, exec (.keyDomainCreate via slot mode src) s = .next t ∧ Kept s t ∧ t.m.mem = s.m.mem ∧ t.m.fab = s.m.fab ∧
      t.m.key = { s.m.key with slots := mapPut s.m.key.slots slot { target := false, mode := mode, g := 0, key := (s.m.keyOf src).2, lost := false } } ∧
      t.m.lex = { s.m.lex with domains := mapDel s.m.lex.domains slot } ∧ t.m.out.getLast? = some (.reply via .success [])) ∧
  (∀ s via slot mode src, s.m.mailbox via = true → slotBad slot = true ∨ s.m.modeBad slot mode = true ∨ importTwins src = true →
    ∃ t, exec (.keyDomainCreate via slot mode src) s = .next t ∧ Answers s t (.reply via .invalidInput [])) ∧
  (∀ s via slot, s.m.mailbox via = true → slotBad slot = false → s.m.regionsOf slot = [] → s.m.frontOn slot = false →
    ∃ t, exec (.keyDomainDestroy via slot) s = .next t ∧ Kept s t ∧ t.m.mem = s.m.mem ∧ t.m.fab = s.m.fab ∧
      t.m.key.slots = mapDel s.m.key.slots slot ∧ (∀ c, c ∈ t.m.key.caches → slot ∉ c.2) ∧
      t.m.lex = { s.m.lex with domains := mapDel s.m.lex.domains slot } ∧ t.m.out.getLast? = some (.reply via .success [])) ∧
  (∀ s via slot mode, s.m.mailbox via = true → slotBad slot = false → s.m.isDomain slot = true → s.m.modeBad slot mode = false →
    s.m.extentsOf slot = 0 → s.m.frontOn slot = false →
    ∃ t, exec (.keyDomainMode via slot mode) s = .next t ∧ Kept s t ∧ t.m.work = { s.m with key := t.m.key }.work ∧
      t.m.key = { s.m.key with slots := mapUpd s.m.key.slots slot fun k => { k with mode := mode } } ∧
      t.m.out.getLast? = some (.reply via .success [])) ∧
  (∀ s via slot mode, s.m.mailbox via = true → slotBad slot = false → s.m.isDomain slot = true → s.m.modeBad slot mode = false →
    0 < s.m.extentsOf slot ∨ s.m.frontOn slot = true →
    ∃ t, exec (.keyDomainMode via slot mode) s = .next t ∧ Answers s t (.reply via .busy []))

/-- Fronts, write-backs and recovery (R303, R308, R310 to R313): a front takes a target slot and an engine, is paused, and passes its lines
step by step; a deferred one starts; a dirty line is written back; a walk of one leaf below a lost node ends. Memory is as before. -/
def Obligations.FrontsAndWalksPass : Prop :=
  (∀ s via slot src e tg, s.m.mailbox via = true → slotBad slot = false → s.m.isDomain slot = true → s.m.frontOf slot = none →
    s.m.freeSlot = some tg → s.m.freeEngine = some e →
    ∃ t, exec (.keyFrontStart via slot src) s = .next t ∧ Kept s t ∧ t.m.mem = s.m.mem ∧ t.m.fab = s.m.fab ∧
      t.m.key.fronts = mapPut s.m.key.fronts e { domain := slot, target := some tg, key := (s.m.keyOf src).2, walk := s.m.frontWalk slot, passed := 0, total := walkTotal (s.m.frontWalk slot), auto := false } ∧
      t.m.key.slots = mapPut s.m.key.slots tg { target := true, mode := s.m.modeOf slot, g := 1 - ((s.m.slot slot).map KeySlot.g).getD 0, key := (s.m.keyOf src).2, lost := false } ∧
      t.m.out.getLast? = some (.reply via .success (leBytes 1 e ++ leBytes 2 tg))) ∧
  (∀ s via slot b e f, s.m.mailbox via = true → slotBad slot = false → s.m.frontOf slot = some (e, f) → e < 16 →
    ∃ t, exec (.keyFrontPause via slot b) s = .next t ∧ Kept s t ∧ t.m.work = s.m.work ∧ t.m.get (pgFrn e) FrnF.pause = b2n b ∧
      t.m.out.getLast? = some (.reply via .success [])) ∧
  (∀ s e b, e < 16 → s.m.runs = true → ∃ t, exec (.frnPause e b) s = .next t ∧ Kept s t ∧ t.m.work = s.m.work ∧ t.m.out = s.m.out ∧
    t.m.get (pgFrn e) FrnF.pause = b2n b ∧
    ((mapGet s.m.key.fronts e).isSome = true → t.m.get (pgFrn e) HdrF.opState = if b then 2 else 1)) ∧
  (∀ s d rest e tg, s.m.runs = true → s.m.saving = false → s.m.key.deferred = d :: rest → d ≠ 0 → s.m.isDomain d = true →
    s.m.frontOf d = none → s.m.freeSlot = some tg → s.m.freeEngine = some e →
    ∃ t, exec .frontDeferredStart s = .next t ∧ Kept s t ∧ t.m.mem = s.m.mem ∧ t.m.key.deferred = rest ∧
      ∃ f, mapGet t.m.key.fronts e = some f ∧ f.domain = d ∧ f.target = some tg ∧ f.auto = true ∧ f.passed = 0 ∧ f.walk = s.m.frontWalk d) ∧
  (∀ s e f l, e < 16 → s.m.runs = true → s.m.saving = false → s.m.is (pgFrn e) FrnF.pause = false → s.m.works (pgFrn e) = true →
    mapGet s.m.key.fronts e = some f → f.domain ≠ 0 → f.next = some l → mapGet s.m.tier.moves (pageOfLine l) = none →
    (s.m.page (pageOfLine l)).st = .unbacked ∨ (s.m.page (pageOfLine l)).st = .lost → f.passed + (64 - l % 64) < f.total →
    ∃ t, exec (.frontStep e) s = .next t ∧ Kept s t ∧ t.m.mem = s.m.mem ∧ t.m.tier = s.m.tier ∧
      t.m.key = { s.m.key with fronts := mapPut s.m.key.fronts e { f with passed := f.passed + (64 - l % 64) } }) ∧
  (∀ s e f l fr, e < 16 → s.m.runs = true → s.m.saving = false → s.m.is (pgFrn e) FrnF.pause = false → s.m.works (pgFrn e) = true →
    mapGet s.m.key.fronts e = some f → f.domain ≠ 0 → f.next = some l → mapGet s.m.tier.moves (pageOfLine l) = none →
    (s.m.page (pageOfLine l)).st = .plain fr → s.m.frontWaits fr = false → s.m.modeOf f.domain ≠ 2 → f.passed + 1 < f.total →
    ∃ t, exec (.frontStep e) s = .next t ∧ Kept s t ∧ t.m.mem = s.m.mem ∧ t.m.tier = s.m.tier ∧ t.m.key.slots = s.m.key.slots ∧
      t.m.key.fronts = mapPut s.m.key.fronts e { f with passed := f.passed + 1 }) ∧
  (∀ s fr n l e u k, s.m.runs = true → s.m.lineAtPlace fr n = some l → s.m.fcGet l = some e → e.dirty = true → s.m.placeOf l = some (u, k) →
    s.m.frozen (chanOf u) = false → s.m.modeOf (s.m.domainAt l) ≠ 2 →
    ∃ t, exec (.lineWriteback (.pool fr n)) s = .next t ∧ Kept s t ∧ t.m.mem = s.m.mem ∧ t.m.fab = s.m.fab ∧
      t.m.fcGet l = some { e with dirty := false } ∧ t.m.tier.pages = s.m.tier.pages ∧
      t.m.get (pgMch (chanOf u)) MchF.linesWritten = (s.m.get (pgMch (chanOf u)) MchF.linesWritten + 1) % 2 ^ 48) ∧
  (∀ s w later, s.m.runs = true → s.m.saving = false → s.m.key.walks = w :: later → w.first + w.done = w.node → w.leaves ≤ w.done + 1 →
    w.node < poolFrames → s.m.reservedAt w.node = none → runsIndex s.m.aux.parityRuns w.node = none →
    runsIndex s.m.aux.targetRuns w.node = none → s.m.lineAtPlace w.node 0 = none → s.m.pagesIn w.node = [] →
    (∀ r, r ∈ s.m.led.reqs → r.wait ≠ .line) →
    ∃ t, exec .nodeRecoveryStep s = .next t ∧ Kept s t ∧ t.m.work = { s.m with key := t.m.key }.work ∧ t.m.out = s.m.out ∧
      t.m.key = { s.m.key with walks := later })

/-- Ring pairs (R340 to R344, R353, R356): a DISABLED pair's entry is written, ENABLE is granted or refused, an ENABLED pair drains, a
drained or reset one is DISABLED with its streams closed; a doorbell hands over its values, the next entry is read and its verb started, a
completion is posted, and a coalescing timer notifies. Where time passes to a deadline, the tick moves there: the model's choice (log entry
12). -/
def Obligations.RingPairsChangeState : Prop :=
  (∀ s via ring vals, s.m.mailbox via = true → ring < 8192 → s.m.rf ring RingEF.state = 0 → vals.getD 5 0 = 0 →
    ∃ t, exec (.ringSet via ring vals) s = .next t ∧ Kept s t ∧ t.m.work = s.m.work ∧ t.m.rf ring RingEF.state = 0 ∧
      t.m.rf ring RingEF.sqBase = vals.getD 0 0 / 2 ^ 12 % 2 ^ 29 ∧ t.m.rf ring RingEF.cqBase = vals.getD 1 0 / 2 ^ 12 % 2 ^ 29 ∧
      t.m.rf ring RingEF.doorbell = vals.getD 2 0 / 2 ^ 6 % 2 ^ 35 ∧ t.m.rf ring RingEF.ownerCtx = vals.getD 3 0 % 2 ^ 12 ∧
      t.m.rf ring RingEF.domain = vals.getD 3 0 / 2 ^ 16 % 2 ^ 12 ∧ t.m.rf ring RingEF.notify = vals.getD 4 0 % 2 ^ 2 ∧
      t.m.out.getLast? = some (.reply via .success [])) ∧
  (∀ s ring, ring < 8192 → s.m.runs = true → s.m.rf ring RingEF.state = 0 → s.m.rf ring RingEF.enable ≠ 1 → s.m.enableReason ring = none →
    ∃ t, exec (.ringEnable ring) s = .next t ∧ Kept s t ∧ t.m.work = { s.m with rng := t.m.rng }.work ∧ t.m.out = s.m.out ∧
      t.m.rng = mapPut s.m.rng ring Pair.fresh ∧ t.m.rf ring RingEF.state = 1 ∧ t.m.rf ring RingEF.enable = 1 ∧
      t.m.rf ring RingEF.sqHead = 0 ∧ t.m.rf ring RingEF.cqTail = 0 ∧ t.m.rf ring RingEF.errorCause = 0) ∧
  (∀ s ring c, ring < 8192 → s.m.runs = true → s.m.rf ring RingEF.state = 0 → s.m.rf ring RingEF.enable ≠ 1 →
    s.m.enableReason ring = some c → bit (s.m.get pgRng HdrF.errSev) 9 = false →
    ∃ t, exec (.ringEnable ring) s = .next t ∧ Kept s t ∧ t.m.work = s.m.work ∧ t.m.rf ring RingEF.state = 0 ∧
      t.m.rf ring RingEF.enable = 0 ∧ bit (t.m.get pgRng HdrF.err) 9 = true) ∧
  (∀ s ring, ring < 8192 → s.m.runs = true → s.m.rf ring RingEF.state = 1 →
    ∃ t, exec (.ringDisable ring) s = .next t ∧ Kept s t ∧ t.m.work = s.m.work ∧ t.m.out = s.m.out ∧ t.m.rf ring RingEF.state = 3 ∧
      t.m.rf ring RingEF.enable = 0 ∧ t.m.rf ring RingEF.ringEpoch = (s.m.rf ring RingEF.ringEpoch + 1) % 2 ^ 16) ∧
  (∀ s ring, ring < 8192 → s.m.runs = true →
    ∃ t, exec (.ringReset ring) s = .next t ∧ Kept s t ∧ t.m.mem = s.m.mem ∧ t.m.fab = s.m.fab ∧ t.m.tier = s.m.tier ∧
      t.m.rng = mapDel s.m.rng ring ∧ t.m.rf ring RingEF.state = 0 ∧ t.m.rf ring RingEF.enable = 0 ∧ t.m.rf ring RingEF.reset = 0 ∧
      t.m.lex.streams = s.m.lex.streams.filter (fun e => e.2.pair != ring)) ∧
  (∀ s ring, ring < 8192 → s.m.runs = true → s.m.rf ring RingEF.state = 3 → (s.m.pair ring).verbs = [] →
    ∃ t, exec (.ringDrained ring) s = .next t ∧ Kept s t ∧ t.m.mem = s.m.mem ∧ t.m.out = s.m.out ∧ t.m.tier = s.m.tier ∧
      t.m.rng = mapDel s.m.rng ring ∧ t.m.rf ring RingEF.state = 0 ∧ t.m.rf ring RingEF.enable = 0 ∧
      t.m.lex = { s.m.lex with streams := s.m.lex.streams.filter fun e => e.2.pair != ring }) ∧
  (∀ s ring p b c rest, ring < 8192 → s.m.runs = true → s.m.saving = false → s.m.ringOn ring = true → mapGet s.m.rng ring = some p →
    p.bells = (b, c) :: rest → b < 2 ^ s.m.rf ring RingEF.sqLog2 → c < 2 ^ s.m.rf ring RingEF.cqLog2 →
    ∃ t, exec (.doorbell ring) s = .next t ∧ Kept s t ∧ t.m.work = { s.m with rng := t.m.rng }.work ∧
      t.m.rng = mapPut s.m.rng ring { p with bells := rest, tail := b, head := c } ∧
      t.m.get pgRng RngF.doorbells = (s.m.get pgRng RngF.doorbells + 1) % 2 ^ 48) ∧
  (∀ s ring p f l, ring < 8192 → s.m.runs = true → s.m.saving = false → s.m.rf ring RingEF.state = 1 → mapGet s.m.rng ring = some p →
    (∀ e, e ∈ s.m.rng → e.2.verbs = []) → p.verbs = [] → p.tail ≠ s.m.rf ring RingEF.sqHead →
    0 < s.m.rf ring RingEF.maxInflight → l = s.m.rf ring RingEF.sqBase * 64 + s.m.rf ring RingEF.sqHead → s.m.verbLine ring l f →
    s.m.isPoisoned l = false →
    ∃ t w, exec (.sqEntryRead ring) s = .next t ∧ Kept s t ∧ t.m.mem = s.m.mem ∧ t.m.verb ring p.taken = some w ∧ w.entry = s.m.line l ∧
      w.idx = s.m.rf ring RingEF.sqHead ∧ w.started = true ∧
      t.m.rf ring RingEF.sqHead = (s.m.rf ring RingEF.sqHead + 1) % 2 ^ s.m.rf ring RingEF.sqLog2 % 2 ^ 16) ∧
  (∀ s ring p v o f l, ring < 8192 → s.m.runs = true → s.m.saving = false → s.m.ringOn ring = true → mapGet s.m.rng ring = some p →
    p.verbs = [v] → (∀ e, e ∈ s.m.rng → e.1 ≠ ring → e.2.verbs = []) → v.outcome = some o → v.step ≠ .post → s.m.cqFull ring = false →
    s.m.rf ring RingEF.notify = 0 → l = s.m.rf ring RingEF.cqBase * 64 + s.m.rf ring RingEF.cqTail → s.m.verbLine ring l f →
    ∃ t, exec (.verbComplete ring v.idx) s = .next t ∧ Kept s t ∧
      t.m.mem = Memory.putBytes s.m.mem (l * 64) (mergeMask fullMask (s.m.line l) (s.m.cqEntry ring v)) ∧ t.m.verb ring v.ser = none ∧
      t.m.rf ring RingEF.cqTail = (s.m.rf ring RingEF.cqTail + 1) % 2 ^ s.m.rf ring RingEF.cqLog2 % 2 ^ 16 ∧
      t.m.get pgRng RngF.verbsDone = (s.m.get pgRng RngF.verbsDone + 1) % 2 ^ 48) ∧
  (∀ s ring p, ring < 8192 → s.m.runs = true → s.m.saving = false → s.m.ringOn ring = true → mapGet s.m.rng ring = some p →
    p.unnotified ≠ 0 → s.m.rf ring RingEF.coalesceTicks ≠ 0 → s.m.rf ring RingEF.notify = 2 →
    ∃ t, exec (.coalesceTimer ring) s = .next t ∧ Kept s t ∧ t.m.mem = s.m.mem ∧
      t.m.rng = mapPut s.m.rng ring { p with unnotified := 0 } ∧ t.m.tick = max s.m.tick (p.since + s.m.rf ring RingEF.coalesceTicks) ∧
      t.m.get pgRng RngF.notifications = (s.m.get pgRng RngF.notifications + 1) % 2 ^ 48)

/-- Verbs whose sources are read (R345, R347, R348, R349, R352): NOP does nothing; CHECKSUM and COMPARE give their result, or stop at
poison; COPY, FILL, the erasure-coding verbs and the lexicon verbs write their destination, here one line, and complete with what they
wrote. -/
def Obligations.VerbsComputeAndWrite : Prop :=
  (∀ s ring idx v, s.m.verbAtHand ring idx 0 v →
    ∃ t, exec (.verbNop ring idx) s = .next t ∧ Kept s t ∧ t.m.work = { s.m with rng := t.m.rng }.work ∧ t.m.out = s.m.out ∧
      VerbDone t ring v 0 0 0) ∧
  (∀ s ring idx v, s.m.verbAtHand ring idx 3 v → v.step = .source → v.bad = [] → v.poisonIn v.opA v.len = [] →
    ∃ t, exec (.verbChecksum ring idx) s = .next t ∧ Kept s t ∧ t.m.work = { s.m with rng := t.m.rng }.work ∧
      VerbDone t ring v 0 (if leAt v.entry 32 1 = 0 then crc32c v.opB (v.bytes v.opA v.len) else crc64 v.opB (v.bytes v.opA v.len)) 0) ∧
  (∀ s ring idx v, s.m.verbAtHand ring idx 3 v → v.step = .source → v.bad = [] → v.poisonIn v.opA v.len ≠ [] →
    ∃ t, exec (.verbChecksum ring idx) s = .next t ∧ Kept s t ∧ t.m.work = { s.m with rng := t.m.rng }.work ∧
      VerbDone t ring v 0x16 (v.sound v.opA v.len) 0) ∧
  (∀ s ring idx v, s.m.verbAtHand ring idx 4 v → v.step = .source → v.bad = [] → v.poisonIn v.opA v.len = [] → v.poisonIn v.opB v.len = [] →
    ∃ t, exec (.verbCompare ring idx) s = .next t ∧ Kept s t ∧ t.m.work = { s.m with rng := t.m.rng }.work ∧
      VerbDone t ring v 0 (firstDiff (v.bytes v.opA v.len) (v.bytes v.opB v.len)) 0) ∧
  (∀ s ring idx v p f, s.m.verbAtHand ring idx 1 v → v.step = .source → v.bad = [] →
    putsOf v.opB v.len (fun i => (v.bytes v.opA v.len).getD i 0#8) (fun i k => (v.poisonIn (v.opA + i) k) != []) = [p] →
    s.m.verbLine ring p.line f → p.poison = false →
    ∃ t, exec (.verbCopy ring idx) s = .next t ∧ Kept s t ∧
      t.m.mem = Memory.putBytes s.m.mem (p.line * 64) (mergeMask p.mask (s.m.line p.line) p.data) ∧ VerbDone t ring v 0 p.count 0) ∧
  (∀ s ring idx v p f, s.m.verbAtHand ring idx 2 v → v.step = .taken → v.bad = [] →
    putsOf v.opA v.len (fun i => v.entry.getD (16 + (v.opA + i) % 8) 0#8) (fun _ _ => false) = [p] → s.m.verbLine ring p.line f →
    ∃ t, exec (.verbFill ring idx) s = .next t ∧ Kept s t ∧
      t.m.mem = Memory.putBytes s.m.mem (p.line * 64) (mergeMask p.mask (s.m.line p.line) p.data) ∧ VerbDone t ring v 0 p.count 0) ∧
  (∀ s ring idx v p f, s.m.verbAtHand ring idx 5 v → v.step = .source → v.bad = [] →
    v.ecPuts (ecList v ((v.lex.getD (0, [])).2)) = [p] → s.m.verbLine ring p.line f → p.poison = false →
    ∃ t, exec (.verbEcEncode ring idx) s = .next t ∧ Kept s t ∧
      t.m.mem = Memory.putBytes s.m.mem (p.line * 64) (mergeMask p.mask (s.m.line p.line) p.data) ∧ VerbDone t ring v 0 1 0) ∧
  (∀ s ring idx v p f, s.m.verbAtHand ring idx 6 v → v.step = .source → v.bad = [] →
    v.ecPuts (ecList v ((v.lex.getD (0, [])).2)) = [p] → s.m.verbLine ring p.line f → p.poison = false →
    ∃ t, exec (.verbEcReconstruct ring idx) s = .next t ∧ Kept s t ∧
      t.m.mem = Memory.putBytes s.m.mem (p.line * 64) (mergeMask p.mask (s.m.line p.line) p.data) ∧ VerbDone t ring v 0 1 0) ∧
  (∀ s ring idx v out p f, s.m.verbAtHand ring idx 7 v → v.step = .lexicon → v.bad = [] → v.lex = some (0, out) →
    putsOf v.opB out.length (fun i => out.getD i 0#8) (fun _ _ => false) = [p] → s.m.verbLine ring p.line f →
    ∃ t, exec (.verbCompress ring idx) s = .next t ∧ Kept s t ∧
      t.m.mem = Memory.putBytes s.m.mem (p.line * 64) (mergeMask p.mask (s.m.line p.line) p.data) ∧ VerbDone t ring v 0 p.count v.lexResult) ∧
  (∀ s ring idx v out p f, s.m.verbAtHand ring idx 8 v → v.step = .lexicon → v.bad = [] → v.lex = some (0, out) →
    putsOf v.opB out.length (fun i => out.getD i 0#8) (fun _ _ => false) = [p] → s.m.verbLine ring p.line f →
    ∃ t, exec (.verbDecompress ring idx) s = .next t ∧ Kept s t ∧
      t.m.mem = Memory.putBytes s.m.mem (p.line * 64) (mergeMask p.mask (s.m.line p.line) p.data) ∧ VerbDone t ring v 0 p.count v.lexResult)

/-- FULL_STOP (R346, R350): the line read is written to the window's stop line, where it is held as a full stop of the verb; a poisoned
source ends the verb before anything is written. -/
def Obligations.FullStopVerbIsHeldAtItsWindow : Prop :=
  (∀ s ring idx v w win n e f, s.m.verbAtHand ring idx 9 v → v.step = .source → v.bad = [] → v.poisoned (v.opB / 64) = false →
    s.m.lineQuiet (v.opA / 64) → (∃ x ep, s.m.checkGrant (s.m.rf ring RingEF.ownerCtx) (v.opA / 64 * 64) = .ok x ep) →
    s.m.stopOf (v.opA / 64) = some (w, win) → s.m.extAt (v.opA / 64 * 64) = some (n, e) → (s.m.extReg e).durable = true →
    e.adopted = none → s.m.fences = [] → s.m.lineHeld (v.opA / 64) = false → s.m.coherent (v.opA / 64) = false →
    (s.m.page (pageOfLine (v.opA / 64))).st = .plain f → s.m.unverifiable f = false → (s.m.fcGet (v.opA / 64)).isSome = true →
    s.m.glb.tampered = false → s.m.keyLost (v.opA / 64) = false →
    ((mapGetD s.m.tier.mapCache (sliceOf (v.opA / 64)) []).any fun x => x.1 = pageOfLine (v.opA / 64)) = true →
    s.m.durableUsed (sliceOf (v.opA / 64)) < 768 → s.m.spillFull = false →
    ∃ t st, exec (.verbFullStop ring idx) s = .next t ∧ Kept s t ∧ t.m.mem = s.m.mem ∧ st ∈ t.m.heldStops w ∧
      st.who = .verb ring v.ser ∧ st.data = v.bytes v.opB 64 ∧ st.mask = fullMask ∧
      ∃ x, t.m.verb ring v.ser = some x ∧ x.outcome = none) ∧
  (∀ s ring idx v, s.m.verbAtHand ring idx 9 v → v.step = .source → v.bad = [] → v.poisoned (v.opB / 64) = true →
    ∃ t, exec (.verbFullStop ring idx) s = .next t ∧ Kept s t ∧ t.m.work = { s.m with rng := t.m.rng }.work ∧
      VerbDone t ring v 0x16 0 0)

/-- Spells and floors (R365, R366, R378, R380): a boundary ends the spell SPELL_TICKS after it began, counts it and takes the new
SPELL_TICKS; while a save runs only the time passes; FLOOR_SET writes a master's entry and has the sum checked at the next boundary;
FLOOR_GET reads it whole; a reserved master number, 4,117 or more, is Invalid Input. Where time passes to a deadline, the tick moves there:
the model's choice (log entry 12). -/
def Obligations.SpellsEndAndFloorsAreSet : Prop :=
  (∀ s, s.m.runs = true → s.m.saving = false → bit (s.m.get pgSpl HdrF.errSev) 8 = false → bit (s.m.get pgSpl HdrF.errSev) 9 = false →
    ∃ t, exec .spellBoundary s = .next t ∧ Kept s t ∧ t.m.mem = s.m.mem ∧ t.m.poison = s.m.poison ∧ t.m.fab = s.m.fab ∧ t.m.led = s.m.led ∧
      t.m.tier = s.m.tier ∧ t.m.grp = s.m.grp ∧ t.m.key = s.m.key ∧ t.m.tick = max s.m.tick (s.m.spl.began + s.m.spl.ticks) ∧
      t.m.spl.began = s.m.spl.began + s.m.spl.ticks ∧ t.m.spl.ticks = s.m.get pgSpl SplF.spellTicks ∧
      t.m.get pgSpl SplF.spellCount = (s.m.get pgSpl SplF.spellCount + 1) % 2 ^ 64) ∧
  (∀ s, s.m.glb.powered = true → s.m.saving = true →
    ∃ t, exec .spellBoundary s = .next t ∧ Kept s t ∧ t.m.tick = max s.m.tick (s.m.spl.began + s.m.spl.ticks) ∧
      t.m.work = { s.m with tick := t.m.tick, spl := { s.m.spl with began := s.m.spl.began + s.m.spl.ticks } }.work) ∧
  (∀ s via n f g w, s.m.mailbox via = true → n ≤ 4116 →
    ∃ t, exec (.floorSet via n f g w) s = .next t ∧ Kept s t ∧ t.m.out.getLast? = some (.reply via .success []) ∧
      t.m.work = { s.m with spl := { s.m.spl with check := true } }.work ∧ t.m.floorFld n FloorEF.floor = f % 2 ^ 26 ∧
      t.m.floorFld n FloorEF.gustMax = g % 2 ^ 26 ∧ t.m.floorFld n FloorEF.weight = w % 256 ∧
      ∀ k, k ≤ 4116 → k ≠ n → t.m.floorFld k FloorEF.floor = s.m.floorFld k FloorEF.floor) ∧
  (∀ s via n f g w, s.m.mailbox via = true → 4116 < n →
    ∃ t, exec (.floorSet via n f g w) s = .next t ∧ Answers s t (.reply via .invalidInput [])) ∧
  (∀ s via n, s.m.mailbox via = true → n ≤ 4116 →
    ∃ t bs, exec (.floorGet via n) s = .next t ∧ bs.length = 64 ∧ Answers s t (.reply via .success bs) ∧
      ∀ i, i < 8 → leAt bs (8 * i) 8 = s.m.floorWord n (8 * i) % 2 ^ 64) ∧
  (∀ s via n, s.m.mailbox via = true → 4116 < n →
    ∃ t, exec (.floorGet via n) s = .next t ∧ Answers s t (.reply via .invalidInput []))

/-- The barometer (R386 to R391): REPLAN and the timer start a plan, or it is held by a save; a plan sets the voltage, its components and
its capacity; the tracking loop steps the voltage; the poll follows the bank; the start-up plan sets the voltage alone. Where time passes to
a deadline, the tick moves there: the model's choice (log entry 12). -/
def Obligations.BarometerPlansTracksAndPolls : Prop :=
  (∀ s, s.m.age.plan = none → s.m.saving = false → s.m.vlt.restoring = false → exec .replan s =
    .next (s.withM (({ s.m.set pgAge AgeF.replan 1 with age := { s.m.age with plan := some 0 } }).progress pgAge 1 0 0))) ∧
  (∀ s n, s.m.age.plan = some n → exec .replan s = .next (s.withM (s.m.set pgAge AgeF.replan 1))) ∧
  (∀ s, s.m.age.plan = none → s.m.saving = false → s.m.vlt.restoring = false →
    ∃ t, exec .planTimer s = .next t ∧ Kept s t ∧
      t.m.tick = max s.m.tick (s.m.get pgAge AgeF.lastPlanTick + s.m.get pgAge AgeF.planHours * hour) ∧
      t.m.work = { s.m with tick := t.m.tick, age := { s.m.age with plan := some 0 } }.work ∧ t.m.get pgAge HdrF.opState = 1) ∧
  (∀ s, s.m.age.plan = none → s.m.saving = true →
    ∃ t, exec .planTimer s = .next t ∧ Kept s t ∧ t.m.work = { s.m with tick := t.m.tick, age := { s.m.age with planHeld := true } }.work) ∧
  (∀ s r, s.m.age.plan.isSome = true → (∀ b, 8 ≤ b → b ≤ 17 → bit (s.m.get pgAge HdrF.errSev) b = false) →
    ∃ t, exec (.planDone r) s = .next t ∧ Kept s t ∧ t.m.mem = s.m.mem ∧ t.m.tier = s.m.tier ∧ t.m.key = s.m.key ∧ t.m.age.plan = none ∧
      t.m.get pgAge AgeF.vPlan = stepMv (s.m.planStep r.delays) ∧ t.m.get pgAge AgeF.vNow = stepMv (s.m.planStep r.delays) ∧
      t.m.get pgAge AgeF.delay = s.m.compDelay r.dRefPoint ∧ t.m.get pgAge AgeF.nand = s.m.compNand r.tprogNs ∧
      t.m.get pgAge AgeF.plans = (s.m.get pgAge AgeF.plans + 1) % 65536 ∧ t.m.get pgAge AgeF.replan = 0 ∧
      t.m.get pgAge AgeF.lastPlanTick = s.m.tick % 2 ^ 64 ∧ t.m.get pgAge HdrF.opState = 0 ∧
      (let i := s.m.planStep r.delays
       let d := r.delays.getD i 0
       let full := if d = 0 then s.m.memCap else s.m.memCap * min d s.m.dTgt / d
       t.m.age.capNext = some (capByPower full r.railMw r.load (s.m.get pgAge AgeF.vNow) (stepMv i))) ∧
      (∀ v1 v10 st, r.bank = some (v1, v10, st) → v10 < v1 → t.m.get pgAge AgeF.cMf = 18000000 / (v1 - v10) % 65536 ∧
        t.m.get pgAge AgeF.esrMohm = st / 2000 % 65536 ∧ t.m.get pgAge AgeF.bankStale = 0 ∧
        t.m.get pgAge AgeF.vLow = s.m.vLowOf (st / 2000 % 65536) % 65536) ∧
      (r.bank = none → t.m.get pgAge AgeF.cMf = s.m.get pgAge AgeF.cMf ∧ t.m.get pgAge AgeF.bankStale = 1)) ∧
  (∀ s d temp, s.m.dTgt < d → s.m.get pgAge AgeF.vNow < 870 →
    ∃ t, exec (.trackingTick d temp) s = .next t ∧ Kept s t ∧ t.m.get pgAge AgeF.vNow = s.m.get pgAge AgeF.vNow + 10 ∧
      t.m.work = { s.m with age := { s.m.age with tempMax := max s.m.age.tempMax temp } }.work) ∧
  (∀ s d temp, s.m.dTgt < d → s.m.get pgAge AgeF.vNow = 870 → bit (s.m.get pgAge HdrF.errSev) 8 = false → s.m.age.plan = none →
    s.m.saving = false → s.m.vlt.restoring = false →
    ∃ t, exec (.trackingTick d temp) s = .next t ∧ Kept s t ∧ t.m.get pgAge AgeF.vNow = 880 ∧ bit (t.m.get pgAge HdrF.err) 8 = true ∧
      t.m.mem = s.m.mem ∧ t.m.age = { s.m.age with tempMax := max s.m.age.tempMax temp, plan := some 0 }) ∧
  (∀ s d temp, d * 100 < 97 * s.m.dTgt → s.m.get pgAge AgeF.vPlan < s.m.get pgAge AgeF.vNow →
    ∃ t, exec (.trackingTick d temp) s = .next t ∧ Kept s t ∧ t.m.get pgAge AgeF.vNow = (s.m.get pgAge AgeF.vNow - 10) % 1024 ∧
      t.m.work = { s.m with age := { s.m.age with tempMax := max s.m.age.tempMax temp } }.work) ∧
  (∀ s d temp, d ≤ s.m.dTgt → (97 * s.m.dTgt ≤ d * 100 ∨ s.m.get pgAge AgeF.vNow ≤ s.m.get pgAge AgeF.vPlan) →
    exec (.trackingTick d temp) s =
      .next (s.withM ({ s.m with age := { s.m.age with tempMax := max s.m.age.tempMax temp } }.set pgAge AgeF.dMedPs d))) ∧
  (∀ s v r, r.cellMax ≤ 2150 → bit (s.m.get pgAge HdrF.errSev) 11 = false → bit (s.m.get pgVlt HdrF.errSev) 13 = false →
    ∃ t, exec (.energyPoll v r) s = .next t ∧ Kept s t ∧ t.m.mem = s.m.mem ∧ t.m.tier = s.m.tier ∧ t.m.key = s.m.key ∧ t.m.grp = s.m.grp ∧
      t.m.get pgAge AgeF.vBank = v % 65536 ∧ (s.pwr.pg = false → t.m.get pgPwr PwrF.charging = 0) ∧
      (s.pwr.pg = true → v < 4950 → t.m.get pgPwr PwrF.charging = 1) ∧ (5000 ≤ v → t.m.get pgPwr PwrF.charging = 0) ∧
      t.m.get pgAge AgeF.eStoredJ = (if v % 65536 ≤ s.m.get pgAge AgeF.vLow then 0 else
        energyMj (s.m.get pgAge AgeF.cMf) (v % 65536) (s.m.get pgAge AgeF.vLow) / 1000) % 65536) ∧
  (∀ s ds d, s.m.phase = 2 → s.m.runs = true → exec (.startPlanDone ds d) s =
    .next (s.withM ((((s.m.set pgAge AgeF.vPlan (stepMv (s.m.planStep ds))).set pgAge AgeF.vNow (stepMv (s.m.planStep ds))).set
      pgAge AgeF.dMedPs d).set pgGlb GlbF.phase 3)))

/-- A save (R397, R399 to R405, R412): TEST_SAVE starts one; preparation ends with the header in the target area, unsealed, the other area
as it was; at the energy reserve the writing stops and what is left is recorded; the target's erase makes the vault ready; a bank below
V_LOW ends the save unsealed. With no sealed image the target is area A, and the size of sections 5 to 7 is free (log entries 52 and 4). -/
def Obligations.SaveRunsUpToItsSeal : Prop :=
  (∀ s, s.m.runs = true → s.m.vlt.save = none → s.m.restored = true → s.m.glb.tampered = false →
    ∃ t, exec .testSave s = .next t ∧ Kept s t ∧
      t.m.vlt.save = some { trigger := 6, step := .prepare, after := .resume, start := s.m.tick, truncated := false, parityCut := 0, volCut := 0, durable := true, gpf := [] } ∧
      t.m.work = { s.m with vlt := t.m.vlt, age := { s.m.age with plan := none }, drz := { s.m.drz with under := none, paused := true } }.work ∧
      t.m.get pgVlt VltF.testSave = 1 ∧ t.m.get pgGlb GlbF.moduleState = 4 ∧ t.m.get pgVlt VltF.state = 2) ∧
  (∀ s, s.m.saving = false → s.m.restored = false → exec .testSave s = .next s) ∧
  (∀ s v, s.m.vlt.save = some v → v.step = .prepare → s.m.glb.powered = true → s.m.cachesClean →
    ∃ t, exec (.savePrepared none) s = .next t ∧ Kept s t ∧ t.m.work = { s.m with vlt := t.m.vlt }.work ∧ t.m.out = s.m.out ∧
      t.m.area s.m.targetB = some (s.m.imageOf v s.fuse.keyGen) ∧ t.m.area (!s.m.targetB) = s.m.area (!s.m.targetB) ∧
      t.m.vlt.erased = false ∧
      t.m.vlt.save = some { v with step := .writing, volCut := if s.m.is pgVlt VltF.volatileEn then 0 else s.m.volPages.length + s.m.tier.held.length }) ∧
  (∀ s v d, s.m.vlt.save = some v → v.step = .prepare → s.m.glb.powered = true → s.m.cachesClean → d < 64 →
    bit (s.m.get pgVlt HdrF.errSev) 14 = false →
    ∃ t i, exec (.savePrepared (some d)) s = .next t ∧ Kept s t ∧ t.m.mem = s.m.mem ∧ t.m.area s.m.targetB = some i ∧ i.sealed_ = false ∧
      i.seq = s.m.nextSeq ∧ i.trigger = v.trigger ∧ i.saved.mem = s.m.mem ∧ bit (t.m.get pgVlt HdrF.err) 14 = true) ∧
  (∀ s v vb p o d, s.m.vlt.save = some v → v.step = .writing → s.m.glb.powered = true →
    (v.truncated = true ∨ d + p + o = 0 ∨ s.m.reserveMj (s.m.nextSeq - 1) < s.m.storedMj vb) →
    ∃ t, exec (.vaultEnergyPoll vb p o d) s = .next t ∧ Kept s t ∧ t.m.work = s.m.work ∧ t.m.out = s.m.out ∧
      t.m.get pgAge AgeF.vBank = vb % 65536) ∧
  (∀ s v vb p o d, s.m.vlt.save = some v → v.step = .writing → s.m.glb.powered = true → v.truncated = false → 0 < d + p + o →
    s.m.storedMj vb ≤ s.m.reserveMj (s.m.nextSeq - 1) → bit (s.m.get pgVlt HdrF.errSev) 9 = false →
    ∃ t, exec (.vaultEnergyPoll vb p o d) s = .next t ∧ Kept s t ∧ t.m.work = { s.m with vlt := t.m.vlt }.work ∧
      t.m.vlt = { s.m.vlt with save := some { v with truncated := true, parityCut := p, volCut := max v.volCut o, durable := d = 0 } } ∧
      bit (t.m.get pgVlt HdrF.err) 9 = true) ∧
  (∀ s, s.m.runs = true → s.m.restored = true → s.m.saving = false → s.m.vlt.erased = false →
    ∃ t, exec .vaultEraseDone s = .next t ∧ Kept s t ∧ t.m.work = { s.m with vlt := t.m.vlt }.work ∧ t.m.out = s.m.out ∧
      t.m.area s.m.targetB = none ∧ t.m.area (!s.m.targetB) = s.m.area (!s.m.targetB) ∧ t.m.vlt.erased = true ∧ t.m.vlt.save = none) ∧
  (∀ s, s.m.vlt.erased = true → exec .vaultEraseDone s = .next s) ∧
  (∀ s, s.pwr.feeds = false → s.m.glb.powered = true →
    ∃ t, exec .bankConverterShutdown s = .next t ∧ t.pending = s.pending ∧ t.fuse = s.fuse ∧ t.pwr = s.pwr.afterSeal ∧
      t.m.glb = { s.m.glb with powered := false } ∧ t.m.vlt.save = none ∧ t.m.area (!s.m.targetB) = s.m.area (!s.m.targetB) ∧
      (∀ v, s.m.vlt.save = some v → v.step = .prepare → t.m.area s.m.targetB = some (s.m.imageOf v s.fuse.keyGen)) ∧
      (∀ v, s.m.vlt.save = some v → v.step = .writing → t.m.area s.m.targetB = s.m.area s.m.targetB)) ∧
  (∀ s, (s.pwr.feeds = true ∨ s.m.glb.powered = false) → exec .bankConverterShutdown s = .next s)

/-- The seal (R397, R404, R412, R463, R464): only a seal page that verifies seals the image, in its area alone; service resumes, the module
powers down, resets with its restore chosen by the image, or halts. With no sealed image the target is area A (log entry 52). -/
def Obligations.SealEndsTheSave : Prop :=
  (∀ s vb, exec (.saveSeal false vb) s = .next s) ∧
  (∀ s v i vb, s.m.writing v i → v.after = .powerDown →
    ∃ t, exec (.saveSeal true vb) s = .next t ∧ t.pending = s.pending ∧ t.fuse = s.fuse ∧ t.pwr = s.pwr.afterSeal ∧
      t.m.glb = { s.m.glb with powered := false } ∧ t.m.vlt.save = none ∧ t.m.area s.m.targetB = some (s.m.sealImage v vb i) ∧
      t.m.area (!s.m.targetB) = s.m.area (!s.m.targetB)) ∧
  (∀ s v i vb, s.m.writing v i → v.after = .resume → bit (s.m.get pgVlt HdrF.errSev) 8 = false →
    ∃ t, exec (.saveSeal true vb) s = .next t ∧ Kept s t ∧ t.m.mem = s.m.mem ∧ t.m.poison = s.m.poison ∧ t.m.fab = s.m.fab ∧
      t.m.led = s.m.led ∧ t.m.tier = s.m.tier ∧ t.m.key = s.m.key ∧ t.m.grp = s.m.grp ∧ t.m.vlt.save = none ∧
      t.m.area s.m.targetB = some (s.m.sealImage v vb i) ∧ t.m.area (!s.m.targetB) = s.m.area (!s.m.targetB) ∧
      t.m.drz.paused = false ∧ t.m.get pgGlb GlbF.moduleState = (if s.m.phase = 7 then 3 else 2) ∧
      t.m.vlt.erased = (t.m.area t.m.targetB).isNone ∧ t.m.get pgVlt VltF.target = b2n t.m.targetB ∧
      bit (t.m.get pgVlt HdrF.err) 8 = true) ∧
  (∀ s v i vb code, s.m.writing v i → v.after = .reset code → s.m.linksOff →
    ∃ t, exec (.saveSeal true vb) s = .next t ∧ Kept s t ∧ t.m.vlt.save = none ∧ t.m.area s.m.targetB = some (s.m.sealImage v vb i) ∧
      t.m.area (!s.m.targetB) = s.m.area (!s.m.targetB) ∧ t.m.phase = 0 ∧ t.m.get pgGlb GlbF.lastReset = code % 4 ∧
      t.m.glb.moduleResets = s.m.glb.moduleResets + 1 ∧ t.m.mem = Mod.reset.mem ∧ t.m.boot = s.m.boot) ∧
  (∀ s v i vb, s.m.writing v i → v.after = .halt → s.m.linksOff →
    ∃ t, exec (.saveSeal true vb) s = .next t ∧ Kept s t ∧ t.m.mem = s.m.mem ∧ t.m.vlt.save = none ∧
      t.m.area s.m.targetB = some (s.m.sealImage v vb i) ∧ t.m.glb.halted = true ∧ t.m.get pgGlb GlbF.moduleState = 5 ∧
      .halted ∈ t.m.fences)

/-- The end of a restore (R407 to R409, R412, R460): with no image the module starts EMPTY, or FAILED and fenced; a block whose tag fails
makes it FAILED; a CURRENT image brings its memory back. The phase is then 5. -/
def Obligations.RestoreDoneChoosesAnImage : Prop :=
  (∀ s ok n, s.m.runs = true → s.m.phase = 4 → s.m.restoreChoice s.fuse = (.empty, none, n) → s.m.mildVlt →
    ∃ t, exec (.restoreDone ok) s = .next t ∧ t.pending = s.pending ∧ t.fuse = s.fuse ∧ t.pwr = { s.pwr with fresh := 0 } ∧
      t.m.mem = s.m.mem ∧ t.m.phase = 5 ∧ t.m.get pgVlt VltF.restoreKind = 3 ∧ t.m.vlt.restoring = false ∧ t.m.fab.grants = s.m.fab.grants ∧
      t.m.get pgGlb GlbF.moduleState = 2) ∧
  (∀ s ok n, s.m.runs = true → s.m.phase = 4 → s.m.restoreChoice s.fuse = (.failed, none, n) → s.m.mildVlt →
    ∃ t, exec (.restoreDone ok) s = .next t ∧ t.pending = s.pending ∧ t.fuse = s.fuse ∧ t.m.mem = s.m.mem ∧ t.m.phase = 5 ∧
      t.m.get pgVlt VltF.restoreKind = 4 ∧ t.m.vlt.restoring = false ∧ .restore ∈ t.m.fences ∧ bit (t.m.get pgVlt HdrF.err) 12 = true) ∧
  (∀ s k i n, s.m.runs = true → s.m.phase = 4 → s.m.restoreChoice s.fuse = (k, some i, n) → (k = .current ∨ k = .stale) → s.m.mildVlt →
    ∃ t, exec (.restoreDone false) s = .next t ∧ t.pending = s.pending ∧ t.fuse = s.fuse ∧ t.m.mem = s.m.mem ∧ t.m.phase = 5 ∧
      t.m.get pgVlt VltF.restoreKind = 4 ∧ .restore ∈ t.m.fences) ∧
  (∀ s i n m, s.m.runs = true → s.m.phase = 4 → s.m.restoreChoice s.fuse = (.current, some i, n) → s.m.restoreCurrent i = some m →
    m.grp.map = none → m.mildVlt →
    ∃ t, exec (.restoreDone true) s = .next t ∧ t.pending = s.pending ∧ t.fuse = s.fuse ∧ t.pwr = { s.pwr with fresh := 0 } ∧
      t.m.mem = m.mem ∧ t.m.phase = 5 ∧ t.m.get pgVlt VltF.restoreKind = 1 ∧ t.m.vlt.restoring = false ∧ .startup ∉ t.m.fences ∧
      t.m.get pgVlt VltF.restores = (i.saved.restores % 2 ^ 48 + 1) % 2 ^ 48 ∧ (i.allDurable s.m → t.m.mem = i.saved.mem)) ∧
  (∀ s ok, (s.m.runs = false ∨ s.m.phase ≠ 4) → exec (.restoreDone ok) s = .next s)

/-- The way up of the power entry stage (R419 to R421, R425, R427, R428, R479): the insertion delay starts when its conditions hold together;
it ramps unless VOUT is high; a complete ramp qualifies; then PG is released, the charger starts and an unpowered die is reset. -/
def Obligations.PowerEntryRampsUp : Prop :=
  (∀ s d, ∃ t, exec (.prsntNAssert d) s = .next t ∧ DieKept s t ∧ t.pwr.present = true ∧ t.pwr.dly = d % 4 ∧ t.pwr.bias = true ∧
    t.pwr.latch = s.pwr.latch ∧ t.pwr.pg = s.pwr.pg ∧ (s.pwr.st ≠ .off → t.pwr.st = s.pwr.st) ∧
    (s.pwr.st = .off → t.pwr.st = (if s.pwr.en && s.pwr.vinValid && s.pwr.latch.isNone && !s.pwr.fetShort && !s.pwr.postSave && !s.pwr.tripHold then .delay else .off))) ∧
  (∀ s, s.m.saving = false → ∃ t, exec .vinValid s = .next t ∧ DieKept s t ∧ t.pwr.vinValid = true ∧ t.pwr.bias = true ∧
    t.pwr.latch = s.pwr.latch ∧ t.pwr.pg = s.pwr.pg ∧ (s.pwr.st ≠ .off → t.pwr.st = s.pwr.st) ∧
    (s.pwr.st = .off → t.pwr.st = (if s.pwr.present && s.pwr.en && s.pwr.latch.isNone && !s.pwr.fetShort && !s.pwr.postSave && !s.pwr.tripHold then .delay else .off))) ∧
  (∀ s, s.m.saving = true → exec .vinValid s = .next { s with pwr := { s.pwr with vinValid := true, bias := true } }) ∧
  (∀ s, s.m.saving = false → s.pwr.latch = none → ∃ t, exec .pwrEnHigh s = .next t ∧ DieKept s t ∧ t.pwr.en = true ∧ t.pwr.enLow = false ∧
    t.pwr.latch = none ∧ (s.pwr.st = .off → t.pwr.st = (if s.pwr.present && s.pwr.vinValid && !s.pwr.fetShort && !s.pwr.postSave && !s.pwr.tripHold then .delay else .off))) ∧
  (∀ s c, s.pwr.latch = some c → s.pwr.enLow = true → s.pwr.coolDown = false → ∃ t, exec .pwrEnHigh s = .next t ∧ DieKept s t ∧
    t.pwr.en = true ∧ t.pwr.latch = none ∧ t.pwr.clearHeld = false ∧ (s.pwr.fetShort = true → t.pwr.st = .fetFail)) ∧
  (∀ s c, s.pwr.latch = some c → s.pwr.enLow = true → s.pwr.coolDown = true → ∃ t, exec .pwrEnHigh s = .next t ∧ DieKept s t ∧
    t.pwr.en = true ∧ t.pwr.latch = some c ∧ t.pwr.clearHeld = true ∧ t.pwr.coolDown = true) ∧
  (∀ s vi ii, s.pwr.st = .delay → s.pwr.ready = true → exec (.insertionDelayExpire false vi ii) s =
    .next { s with pwr := { s.pwr with st := .ramping, timer := some .ramp } }) ∧
  (∀ s vi ii, s.pwr.st = .delay → s.pwr.ready = true → ∃ t, exec (.insertionDelayExpire true vi ii) s = .next t ∧ DieKept s t ∧ t.pwr.fetShort = true ∧
    t.pwr.st = .fetFail ∧ t.pwr.pg = false ∧ t.pwr.log = ({ cause := 6, vinAt := vi, iinAt := ii, rampNo := s.pwr.ramps } :: s.pwr.log).take 16) ∧
  (∀ s v vi ii, s.pwr.st = .delay → s.pwr.ready = false → exec (.insertionDelayExpire v vi ii) s = .next { s with pwr := { s.pwr with st := .off } }) ∧
  (∀ s v vi ii, s.pwr.st ≠ .delay → exec (.insertionDelayExpire v vi ii) s = .next s) ∧
  (∀ s, s.pwr.st = .ramping → s.pwr.timer = some .ramp → exec .rampComplete s =
    .next { s with pwr := { s.pwr with st := .on, timer := none, qualify := true, ramps := s.pwr.ramps + 1 } }) ∧
  (∀ s, s.pwr.st ≠ .ramping → exec .rampComplete s = .next s) ∧
  (∀ s, s.pwr.qualify = true → s.pwr.timer = none → s.pwr.vinValid = true → s.m.glb.powered = false →
    ∃ t, exec .pgQualifyExpire s = .next t ∧ t.pending = s.pending ∧ t.fuse = s.fuse ∧ t.pwr = { s.pwr with pg := true, qualify := false } ∧
      t.m.glb.powered = true ∧ t.m.phase = 0 ∧ t.m.mem = Mod.reset.mem ∧ t.m.get pgPwr PwrF.charging = 1 ∧ t.m.boot = s.m.boot ∧
      t.m.vlt.areaA = s.m.vlt.areaA ∧ t.m.vlt.areaB = s.m.vlt.areaB ∧ t.m.get pgGlb GlbF.lastReset = 0) ∧
  (∀ s, s.pwr.qualify = true → s.pwr.timer = none → s.pwr.vinValid = true → s.m.glb.powered = true → exec .pgQualifyExpire s =
    .next { s with pwr := { s.pwr with pg := true, qualify := false }, m := s.m.set pgPwr PwrF.charging 1 }) ∧
  (∀ s, s.pwr.qualify = false → exec .pgQualifyExpire s = .next s) ∧
  (∀ s, s.m.glb.powered = false → ∃ t, exec .postSaveReinsert s = .next t ∧ DieKept s t ∧ t.pwr.postSave = false ∧ t.pwr.latch = s.pwr.latch ∧
    (s.pwr.st = .off → t.pwr.st = (if s.pwr.present && s.pwr.en && s.pwr.vinValid && s.pwr.latch.isNone && !s.pwr.fetShort && !s.pwr.tripHold then .delay else .off))) ∧
  (∀ s, s.m.glb.powered = false → ∃ t, exec .thermalTripCooloff s = .next t ∧ DieKept s t ∧ t.pwr.tripHold = false ∧ t.pwr.postSave = false ∧
    (s.pwr.st = .off → t.pwr.st = (if s.pwr.present && s.pwr.en && s.pwr.vinValid && s.pwr.latch.isNone && !s.pwr.fetShort then .delay else .off))) ∧
  (∀ s, s.m.glb.powered = true → exec .postSaveReinsert s = .next s ∧ exec .thermalTripCooloff s = .next s)

/-- The faults of the power entry stage (R422 to R426, R429): timers, the fast trip and an over-temperature latch off with their cause, a
shorted FET holds the converters off, a degraded one is logged alone; the breaker's timer starts above 14 A and stops at it; a clear waits
for the cool-down. An unpowered die is as before. -/
def Obligations.PowerEntryFaultsLatchOff : Prop :=
  (∀ s vo vi ii, s.pwr.timer = some .breaker → s.m.glb.powered = false →
    ∃ t, exec (.faultTimerExpire vo vi ii) s = .next t ∧ DieKept s t ∧ LatchedOff s.pwr t.pwr 3 vi ii) ∧
  (∀ s vo vi ii, s.pwr.timer = some .ramp → s.m.glb.powered = false →
    ∃ t, exec (.faultTimerExpire vo vi ii) s = .next t ∧ DieKept s t ∧ LatchedOff s.pwr t.pwr (if vo < 1000 then 1 else 2) vi ii) ∧
  (∀ s vo vi ii, s.pwr.timer = some .breaker → s.m.canSave →
    ∃ t, exec (.faultTimerExpire vo vi ii) s = .next t ∧ LatchedOff s.pwr t.pwr 3 vi ii ∧ SaveBegun s t 1 ∧ bit (t.m.get pgPwr HdrF.err) 10 = true) ∧
  (∀ s vo vi ii, s.pwr.timer = none → exec (.faultTimerExpire vo vi ii) s = .next s) ∧
  (∀ s vi ii, s.pwr.gateOn = true → 45000 < ii → s.m.glb.powered = false →
    ∃ t, exec (.fastTrip vi ii) s = .next t ∧ DieKept s t ∧ LatchedOff s.pwr t.pwr 4 vi ii) ∧
  (∀ s vi ii, s.pwr.gateOn = true → 45000 < ii → s.m.canSave →
    ∃ t, exec (.fastTrip vi ii) s = .next t ∧ LatchedOff s.pwr t.pwr 4 vi ii ∧ SaveBegun s t 1 ∧ bit (t.m.get pgPwr HdrF.err) 11 = true) ∧
  (∀ s vi ii, ii ≤ 45000 → exec (.fastTrip vi ii) s = .next s) ∧
  (∀ s vi ii, s.pwr.bias = true → s.pwr.latch = none →
    ∃ t, exec (.fetOvertemp vi ii) s = .next t ∧ LatchedOff s.pwr t.pwr 5 vi ii ∧ (s.m.glb.powered = false → DieKept s t)) ∧
  (∀ s c vi ii, s.pwr.latch = some c → exec (.fetOvertemp vi ii) s = .next s) ∧
  (∀ s vi ii, s.pwr.bias = true → s.pwr.latch = none → s.m.canSave →
    ∃ t, exec (.fetOvertemp vi ii) s = .next t ∧ LatchedOff s.pwr t.pwr 5 vi ii ∧ SaveBegun s t 1 ∧ bit (t.m.get pgPwr HdrF.err) 12 = true) ∧
  (∀ s vi ii, s.pwr.gateOn = false → s.pwr.fetShort = false → s.m.glb.powered = false →
    ∃ t, exec (.fetShort vi ii) s = .next t ∧ DieKept s t ∧ t.pwr.fetShort = true ∧ t.pwr.st = .fetFail ∧ t.pwr.pg = false ∧
      t.pwr.latch = s.pwr.latch ∧ t.pwr.log = ({ cause := 6, vinAt := vi, iinAt := ii, rampNo := s.pwr.ramps } :: s.pwr.log).take 16) ∧
  (∀ s vi ii, s.pwr.gateOn = false → s.pwr.fetShort = false → s.m.canSave →
    ∃ t, exec (.fetShort vi ii) s = .next t ∧ SaveBegun s t 1 ∧ t.pwr.fetShort = true ∧ t.pwr.st = .fetFail ∧
      bit (t.m.get pgPwr HdrF.err) 13 = true) ∧
  (∀ s vi ii, (s.pwr.gateOn = true ∨ s.pwr.fetShort = true) → exec (.fetShort vi ii) s = .next s) ∧
  (∀ s vi ii, s.pwr.st = .on → s.m.glb.powered = true → s.m.mildVlt →
    ∃ t, exec (.fetDegraded vi ii) s = .next t ∧ t.pending = s.pending ∧ t.fuse = s.fuse ∧ t.m.mem = s.m.mem ∧ t.m.vlt = s.m.vlt ∧
      t.m.glb = s.m.glb ∧ t.pwr.fetDegraded = true ∧ t.pwr.st = .on ∧ t.pwr.pg = s.pwr.pg ∧ t.pwr.latch = s.pwr.latch ∧
      t.pwr.log = ({ cause := 7, vinAt := vi, iinAt := ii, rampNo := s.pwr.ramps } :: s.pwr.log).take 16 ∧
      bit (t.m.get pgPwr HdrF.err) 14 = true) ∧
  (∀ s ii, s.pwr.st = .on → s.pwr.timer = none → 14000 < ii →
    ∃ t, exec (.overcurrentStart ii) s = .next t ∧ t.pending = s.pending ∧ t.fuse = s.fuse ∧ t.m.work = s.m.work ∧
      t.pwr = { s.pwr with timer := some .breaker, qualify := false }) ∧
  (∀ s ii, ii ≤ 14000 → exec (.overcurrentStart ii) s = .next s) ∧
  (∀ s ii, s.pwr.timer = some .breaker → ii ≤ 14000 → exec (.overcurrentEnd ii) s =
    .next { s with pwr := { s.pwr with timer := none, qualify := !s.pwr.pg } }) ∧
  (∀ s ii, 14000 < ii → exec (.overcurrentEnd ii) s = .next s) ∧
  (∀ s c, s.pwr.bias = true → s.pwr.latch = some c → s.pwr.coolDown = true → exec (.restart true) s =
    .next { s with pwr := { s.pwr with clearHeld := true } }) ∧
  (∀ s c b, s.pwr.bias = true → s.pwr.latch = some c → s.pwr.coolDown = false → (b = true ∨ s.m.glb.powered = true) →
    ∃ t, exec (.restart b) s = .next t ∧ DieKept s t ∧ t.pwr.latch = none ∧ t.pwr.clearHeld = false ∧ t.pwr.log = s.pwr.log ∧
      t.pwr.st = (if s.pwr.fetShort then .fetFail else if s.pwr.present && s.pwr.en && s.pwr.vinValid && !s.pwr.postSave && !s.pwr.tripHold then .delay else .off)) ∧
  (∀ s, s.m.glb.powered = false → exec (.restart false) s = .next s) ∧
  (∀ s, s.pwr.clearHeld = false → exec .coolDownExpire s = .next { s with pwr := { s.pwr with coolDown := false } }) ∧
  (∀ s c, s.pwr.clearHeld = true → s.pwr.latch = some c → ∃ t, exec .coolDownExpire s = .next t ∧ DieKept s t ∧ t.pwr.latch = none ∧
    t.pwr.coolDown = false ∧ t.pwr.clearHeld = false ∧
    t.pwr.st = (if s.pwr.fetShort then .fetFail else if s.pwr.present && s.pwr.en && s.pwr.vinValid && !s.pwr.postSave && !s.pwr.tripHold then .delay else .off))

/-- What the module does when its supply goes (R418, R425, R427, R479): the gate is pulled off; an unpowered die is as before, one that runs
starts a save with trigger 1, or 2 for presence; a thermal trip holds the gate off; a bias loss forgets the latch; PFW_N is trigger 3. -/
def Obligations.SupplyLossesStartASave : Prop :=
  (∀ s c, s.m.glb.powered = false → exec (.inputLoss c) s = .next { s with pwr := { s.pwr with vinValid := false }.gateOff }) ∧
  (∀ s c, s.m.canSave → ∃ t, exec (.inputLoss c) s = .next t ∧ SaveBegun s t 1 ∧ t.pwr = { s.pwr with vinValid := false }.gateOff ∧
    (c = .overvoltage → bit (t.m.get pgPwr HdrF.err) 15 = true)) ∧
  (∀ s, s.m.glb.powered = false → exec .prsntNDeassert s = .next { s with pwr := { s.pwr with present := false }.gateOff }) ∧
  (∀ s, s.m.canSave → ∃ t, exec .prsntNDeassert s = .next t ∧ SaveBegun s t 2 ∧ t.pwr = { s.pwr with present := false }.gateOff) ∧
  (∀ s, s.m.glb.powered = false → exec .pwrEnLow s = .next { s with pwr := { s.pwr with en := false, enLow := true }.gateOff }) ∧
  (∀ s, s.m.canSave → ∃ t, exec .pwrEnLow s = .next t ∧ SaveBegun s t 1 ∧ t.pwr = { s.pwr with en := false, enLow := true }.gateOff) ∧
  (∀ p : Pwr, p.gateOff.pg = false ∧ p.gateOff.timer = none ∧ p.gateOff.qualify = false ∧ p.gateOff.latch = p.latch ∧
    (p.latch = none → p.fetShort = false → p.gateOff.st = .off)) ∧
  (∀ s, s.m.glb.powered = false → ∃ t, exec .controllerBiasLoss s = .next t ∧ DieKept s t ∧ t.pwr.latch = none ∧ t.pwr.fetShort = false ∧
    t.pwr.bias = false ∧ t.pwr.st = .off ∧ t.pwr.log = s.pwr.log) ∧
  (∀ s, s.m.canSave → ∃ t, exec .controllerBiasLoss s = .next t ∧ SaveBegun s t 1 ∧ t.pwr.latch = none ∧ t.pwr.st = .off ∧ t.pwr.log = s.pwr.log) ∧
  (∀ s x, s.m.canSave → ∃ t, exec (.thermalTrip x) s = .next t ∧ SaveBegun s t 1 ∧ t.pwr = { s.pwr with tripHold := true }.gateOff) ∧
  (∀ s x, s.m.glb.powered = false → exec (.thermalTrip x) s = .next s) ∧
  (∀ s, s.m.glb.powered = true → s.m.restored = false → s.m.saving = false →
    ∃ t, exec .pwrEnLow s = .next t ∧ t.pending = s.pending ∧ t.fuse = s.fuse ∧ t.m.glb = { s.m.glb with powered := false } ∧
      t.m.vlt = s.m.vlt ∧ t.pwr = { s.pwr with en := false, enLow := true }.gateOff) ∧
  (∀ s, s.m.canSave → s.m.is pgPwr PwrF.pfWarnEn = true →
    ∃ t v, exec .pfwNFall s = .next t ∧ t.pending = s.pending ∧ t.fuse = s.fuse ∧ t.pwr = { s.pwr with pfwLow := true } ∧
      t.m.mem = s.m.mem ∧ t.m.fab = s.m.fab ∧ t.m.vlt.save = some v ∧ v.trigger = 3 ∧ v.after = .resume ∧
      bit (t.m.get pgPwr HdrF.err) 16 = true) ∧
  (∀ s, (s.m.glb.powered = false ∨ s.m.is pgPwr PwrF.pfWarnEn = false) →
    exec .pfwNFall s = .next { s with pwr := { s.pwr with pfwLow := true } })

/-- The drizzle tester (R435, R437 to R440, R445): a region is tested GAP_US after the one before; its end moves to the next, the last one
ends a pass; a faulty cell takes a spare and is logged, or is fenced when no spare cures it. Memory is as before. Where time passes to a
deadline, the tick moves there: the model's choice (log entry 12). -/
def Obligations.DrizzleTestsAndRepairsRegions : Prop :=
  (∀ s, s.m.works pgDrz = true → s.m.is pgDrz HdrF.enable = true → s.m.drz.under = none → s.m.drz.paused = false → s.m.restored = true →
    ∃ t, exec .drizzleRegionStart s = .next t ∧ Kept s t ∧ t.m.drz = { s.m.drz with under := some (s.m.get pgDrz DrzF.region) } ∧
      t.m.tick = max s.m.tick (s.m.drz.lastEnd + s.m.get pgDrz DrzF.gapUs * 1000) ∧
      t.m.work = { s.m with drz := t.m.drz, tick := t.m.tick }.work ∧ t.m.get pgDrz HdrF.opState = 1) ∧
  (∀ s, (s.m.drz.paused = true ∨ s.m.restored = false ∨ s.m.drz.under.isSome = true) → exec .drizzleRegionStart s = .next s) ∧
  (∀ s r, s.m.runs = true → s.m.drz.under = some r →
    ∃ t, exec (.drizzleRegionEnd [] .clean) s = .next t ∧ Kept s t ∧ t.m.drz = { s.m.drz with under := none, lastEnd := s.m.tick } ∧
      t.m.boot.repairs = s.m.boot.repairs ∧ t.m.boot.passes = s.m.boot.passes + (if r + 1 < 229376 then 0 else 1) ∧
      t.m.work = { s.m with drz := t.m.drz, boot := t.m.boot, free := s.m.free + 1 }.work ∧
      t.m.get pgDrz DrzF.region = (if r + 1 < 229376 then r + 1 else 0) ∧
      t.m.get pgDrz DrzF.regionsTested = (s.m.get pgDrz DrzF.regionsTested + 1) % 2 ^ 48) ∧
  (∀ s r n, s.m.runs = true → s.m.drz.under = some r →
    ∃ t, exec (.drizzleRegionEnd [] (.corrected n)) s = .next t ∧ Kept s t ∧ t.m.mem = s.m.mem ∧ t.m.drz.under = none ∧
      t.m.drz.fenced = s.m.drz.fenced ∧ t.m.get pgDrz DrzF.sramCe = (s.m.get pgDrz DrzF.sramCe + n) % 2 ^ 48) ∧
  (∀ s r f, s.m.runs = true → s.m.drz.under = some r → s.m.is pgDrz DrzF.repairEn = true → f.cured = true →
    mapGetD s.m.drz.used (spareKey r f.column) 0 < spareMax f.column → s.m.boot.repairs.length < 256 →
    (∀ e, e ∈ s.m.boot.repairs → e.region ≠ r) →
    ∃ t, exec (.drizzleRegionEnd [f] .clean) s = .next t ∧ Kept s t ∧ t.m.mem = s.m.mem ∧ t.m.drz.under = none ∧
      t.m.drz.fenced = s.m.drz.fenced ∧
      mapGet t.m.drz.used (spareKey r f.column) = some (mapGetD s.m.drz.used (spareKey r f.column) 0 + 1) ∧
      t.m.boot.repairs = s.m.boot.repairs ++ [{ column := f.column, region := r, position := f.position, spare := mapGetD s.m.drz.used (spareKey r f.column) 0, pass := s.m.boot.passes }] ∧
      t.m.get pgDrz DrzF.repairs = (s.m.get pgDrz DrzF.repairs + 1) % 2 ^ 48 ∧ bit (t.m.get pgDrz HdrF.err) 8 = true) ∧
  (∀ s r f, s.m.runs = true → s.m.drz.under = some r → s.m.is pgDrz DrzF.repairEn = true → r < 221184 →
    spareMax f.column ≤ mapGetD s.m.drz.used (spareKey r f.column) 0 →
    ∃ t, exec (.drizzleRegionEnd [f] .clean) s = .next t ∧ Kept s t ∧ t.m.mem = s.m.mem ∧ t.m.drz.under = none ∧ r ∈ t.m.drz.fenced ∧
      t.m.drz.used = s.m.drz.used ∧ t.m.boot.repairs = s.m.boot.repairs ∧ bit (t.m.get pgDrz HdrF.err) 9 = true) ∧
  (∀ s r x, s.m.runs = true → s.m.drz.under = some r →
    ∃ t, exec (.drizzleRegionEnd [] (.lost 10 x)) s = .next t ∧ t.pending = s.pending ∧ t.pwr = s.pwr ∧ t.fuse = s.fuse.advance ∧
      t.m.mem = s.m.mem ∧ t.m.glb.tampered = true ∧ .tamper ∈ t.m.fences ∧ t.m.key.caches = [] ∧ t.m.vlt.save = none)

/-- The lid and the lifecycle (R442, R443): an opening wipes the secure store and the key caches, fences the durable extents and abandons a
save; a legal move wipes it, advances KEY_GEN and derives a new device key, and the last state erases the vault; others are refused. -/
def Obligations.LidAndLifecycleWipeTheStore : Prop :=
  (∀ s, s.m.glb.powered = true → s.m.glb.lidOpen = false →
    ∃ t, exec .lidOpen s = .next t ∧ t.pending = s.pending ∧ t.pwr = s.pwr ∧ t.fuse = s.fuse.advance ∧ t.m.mem = s.m.mem ∧
      t.m.glb.lidOpen = true ∧ t.m.glb.tampered = true ∧ t.m.glb.sec = { devKey := 0#256, root := 0, majorHigh := 0, bootTag := 0, spareKey := none, measure := 0 } ∧
      t.m.key = { s.m.key with caches := [] } ∧ .tamper ∈ t.m.fences ∧ t.m.vlt = { s.m.vlt with save := none } ∧
      bit (t.m.get pgDrz HdrF.err) 11 = true ∧ bit (t.m.get pgDrz HdrF.err) 12 = true ∧ t.m.get pgDrz DrzF.lidOk = 0) ∧
  (∀ s, (s.m.glb.powered = false ∨ s.m.glb.lidOpen = true) → exec .lidOpen s = .next s) ∧
  (∀ s via target force ok, s.m.mailbox via = true → (s.fuse.lifecycle = 0 ∧ target = 1 ∧ ok = true ∨ s.fuse.lifecycle = 1 ∧ target = 2) →
    s.fuse.keyGen < 63 →
    ∃ t, exec (.lifecycleSet via target force ok) s = .next t ∧ t.pending = s.pending ∧ t.pwr = s.pwr ∧
      t.fuse = { lifecycle := target, keyGen := s.fuse.keyGen + 1, wipes := s.fuse.wipes + 1, half := none } ∧ t.m.mem = s.m.mem ∧
      t.m.vlt = s.m.vlt ∧ t.m.fab = s.m.fab ∧ t.m.glb.sec = { devKey := Config.deviceKey (s.fuse.keyGen + 1), root := 0, majorHigh := 0, bootTag := 0, spareKey := none, measure := 0 } ∧
      t.m.out.getLast? = some (.reply via .success [])) ∧
  (∀ s via force ok, s.m.mailbox via = true → (s.fuse.lifecycle = 1 ∨ s.fuse.lifecycle = 2) → (s.m.hasDurable = false ∨ force = true) →
    ∃ t, exec (.lifecycleSet via 3 force ok) s = .next t ∧ t.pending = s.pending ∧ t.pwr = s.pwr ∧ t.fuse.lifecycle = 3 ∧
      t.fuse.wipes = s.fuse.wipes + 1 ∧ t.m.vlt.areaA = none ∧ t.m.vlt.areaB = none ∧ t.m.vlt.lexArea = [] ∧
      t.m.out.getLast? = some (.reply via .success [])) ∧
  (∀ s via ok, s.m.mailbox via = true → (s.fuse.lifecycle = 1 ∨ s.fuse.lifecycle = 2) → s.m.hasDurable = true →
    ∃ t, exec (.lifecycleSet via 3 false ok) s = .next t ∧ Answers s t (.reply via .busy [])) ∧
  (∀ s via target force ok, s.m.mailbox via = true → (legalMove s.fuse.lifecycle target = false ∨ s.fuse.lifecycle = 0 ∧ ok = false) →
    ∃ t, exec (.lifecycleSet via target force ok) s = .next t ∧ Answers s t (.reply via .invalidInput []))

/-- Start-up (R323, R386, R441 to R443, R458 to R460): the die wakes into phase 1 when pair 0 has a clock, fenced; the firmware of a good slot
runs, or the module halts; the PHY groups train and the restore begins; at the end the module serves. -/
def Obligations.StartUpPassesItsPhases : Prop :=
  (∀ s, s.m.glb.powered = true → s.m.phase = 0 → s.m.glb.lidOpen = false →
    ∃ t, exec (.dieWake false true) s = .next t ∧ t.pending = s.pending ∧ t.pwr = s.pwr ∧
      t.fuse = (match s.fuse.half with | some x => s.fuse.move x | none => s.fuse) ∧ t.m.mem = s.m.mem ∧ t.m.phase = 1 ∧
      .startup ∈ t.m.fences ∧ t.m.drz.paused = true ∧ t.m.drz.under = none ∧ t.m.glb.sec.devKey = Config.deviceKey t.fuse.keyGen ∧
      t.m.glb.lidOpen = false ∧ t.m.vlt = s.m.vlt) ∧
  (∀ s, s.m.glb.powered = true → s.m.phase = 0 → s.fuse.half = none →
    ∃ t, exec (.dieWake true true) s = .next t ∧ t.pending = s.pending ∧ t.pwr = s.pwr ∧ t.fuse = s.fuse.advance ∧ t.m.phase = 1 ∧
      t.m.glb.lidOpen = true ∧ t.m.glb.tampered = true ∧ .tamper ∈ t.m.fences) ∧
  (∀ s l, exec (.dieWake l false) s = .next s) ∧
  (∀ s, s.m.phase = 1 → s.m.runs = true → (s.m.bootSlot (s.m.boot.named.getD 1)).ok = true →
    ∃ t, exec .fwAuthDone s = .next t ∧ Kept s t ∧ t.m.out = s.m.out ∧ t.m.phase = 2 ∧ t.m.glb.pagesUp = true ∧
      t.m.get pgGlb GlbF.fwSlot = s.m.boot.named.getD 1 % 4 ∧ t.m.get pgGlb GlbF.fwFallback = 0 ∧
      t.m.glb.sec.measure = (s.m.bootSlot (s.m.boot.named.getD 1)).version ∧ t.m.work = { s.m with glb := t.m.glb }.work) ∧
  (∀ s, s.m.phase = 1 → s.m.runs = true → (s.m.bootSlot (s.m.boot.named.getD 1)).ok = false →
    (s.m.bootSlot (3 - s.m.boot.named.getD 1)).ok = true → bit (s.m.get pgGlb HdrF.errSev) 9 = false →
    ∃ t, exec .fwAuthDone s = .next t ∧ Kept s t ∧ t.m.phase = 2 ∧ t.m.glb.pagesUp = true ∧ t.m.get pgGlb GlbF.fwFallback = 1 ∧
      bit (t.m.get pgGlb HdrF.err) 9 = true) ∧
  (∀ s, s.m.phase = 1 → s.m.runs = true → s.m.boot.slot1.ok = false → s.m.boot.slot2.ok = false → s.m.glb.resetBy = none →
    ∃ t, exec .fwAuthDone s = .next t ∧ Kept s t ∧ t.m.phase = 1 ∧ t.m.glb.halted = true ∧ t.m.get pgGlb GlbF.moduleState = 5 ∧
      .halted ∈ t.m.fences ∧ bit (t.m.get pgGlb HdrF.err) 8 = true) ∧
  (∀ s rates, s.m.runs = true → s.m.phase = 3 →
    ∃ t, exec (.dramTrainDone rates []) s = .next t ∧ Kept s t ∧ t.m.phase = 4 ∧ t.m.get pgGlb GlbF.moduleState = 1 ∧
      t.m.glb.dramUp = true ∧ t.m.glb.restoreTick = s.m.tick ∧ t.m.vlt.restoring = true ∧
      t.m.work = { s.m with glb := t.m.glb, vlt := t.m.vlt }.work ∧
      ∀ c, c < 96 → t.m.get (pgMch c) MchF.rate = min (rates.getD (c / 16) 0) (s.m.startRate s.fuse (c / 16)) % 8 ∧
        (s.m.chn.retired.contains c = true → t.m.blockState (pgMch c) = stRetired)) ∧
  (∀ s rates ch, s.m.runs = true → s.m.phase = 3 → ch < 96 → s.m.chn.retired.contains ch = false →
    bit (s.m.get (pgMch ch) HdrF.errSev) 12 = false →
    ∃ t, exec (.dramTrainDone rates [ch]) s = .next t ∧ Kept s t ∧ t.m.phase = 4 ∧ t.m.mem = s.m.mem ∧ ch ∈ t.m.chn.retired ∧
      t.m.blockState (pgMch ch) = stRetired ∧ bit (t.m.get (pgMch ch) HdrF.err) 12 = true) ∧
  (∀ s, s.m.runs = true → s.m.saving = false → (s.m.phase = 5 ∨ s.m.phase = 6) → s.m.aux.reconciling = false →
    bit (s.m.get pgGlb HdrF.errSev) 11 = false →
    ∃ t, exec .startupDone s = .next t ∧ Kept s t ∧ t.m.work = s.m.work ∧ t.m.phase = 7 ∧ t.m.get pgGlb GlbF.moduleState = 3 ∧
      (s.m.get pgGlb GlbF.lastReset = 0 → t.m.out = s.m.out) ∧
      (s.m.get pgGlb GlbF.lastReset ≠ 0 → bit (t.m.get pgGlb HdrF.err) 11 = true)) ∧
  (∀ s, s.m.aux.reconciling = true → exec .startupDone s = .next s)

/-- Module resets and faults (R463, R464): RESET_ARM stands for 1 ms; an armed MODULE_RESET, the command and a watchdog fault start a save
with trigger 5 with the reset at its seal, or a halt; an unarmed one is refused; before a restore has ended the reset is immediate. Where
time passes to a deadline, the tick moves there: the model's choice (log entry 12). -/
def Obligations.ResetsStartASaveOrResetAtOnce : Prop :=
  (∀ s, exec .resetArm s = .next (s.withM ({ s.m with glb := { s.m.glb with armUntil := some (s.m.tick + 1000000) } }.set pgGlb GlbF.resetArm 1))) ∧
  (∀ s x, s.m.glb.armUntil = some x → ∃ t, exec .resetArmExpire s = .next t ∧ Kept s t ∧ t.m.tick = max s.m.tick x ∧
    t.m.get pgGlb GlbF.resetArm = 0 ∧ t.m.work = { s.m with tick := t.m.tick, glb := { s.m.glb with armUntil := none } }.work) ∧
  (∀ s, s.m.glb.armUntil = none → exec .resetArmExpire s = .next s) ∧
  (∀ s x, s.m.glb.armUntil = some x → s.m.tick ≤ x → s.m.glb.resetBy = none → s.m.restored = true → s.m.glb.tampered = false →
    s.m.vlt.save = none →
    ∃ t v, exec .glbModuleReset s = .next t ∧ Kept s t ∧ t.m.mem = s.m.mem ∧ t.m.glb = { s.m.glb with armUntil := none, resetBy := some 1 } ∧
      t.m.vlt.save = some v ∧ v.trigger = 5 ∧ v.after = .reset 1 ∧ t.m.get pgGlb GlbF.moduleState = 4) ∧
  (∀ s x, s.m.glb.armUntil = some x → s.m.tick ≤ x → s.m.glb.resetBy = none → s.m.restored = false →
    ∃ t, exec .glbModuleReset s = .next t ∧ Kept s t ∧ t.m.phase = 0 ∧ t.m.get pgGlb GlbF.lastReset = 1 ∧ t.m.mem = Mod.reset.mem ∧
      t.m.glb.moduleResets = s.m.glb.moduleResets + 1 ∧ t.m.boot = s.m.boot ∧ t.m.vlt.areaA = s.m.vlt.areaA ∧ t.m.vlt.areaB = s.m.vlt.areaB) ∧
  (∀ s, s.m.glb.armUntil = none → bit (s.m.get pgGlb HdrF.errSev) 0 = false →
    ∃ t, exec .glbModuleReset s = .next t ∧ Kept s t ∧ t.m.work = s.m.work ∧ bit (t.m.get pgGlb HdrF.err) 0 = true) ∧
  (∀ s via r, s.m.mailboxRom via = true → r < 256 → s.m.glb.halted = false → s.m.glb.resetBy = none → s.m.restored = true →
    s.m.glb.tampered = false → s.m.vlt.save = none →
    ∃ t v, exec (.moduleReset via r) s = .next t ∧ Kept s t ∧ t.m.mem = s.m.mem ∧ .reply via .success [] ∈ t.m.out ∧
      t.m.glb.resetBy = some 3 ∧ t.m.vlt.save = some v ∧ v.trigger = 5 ∧ v.after = .reset 3) ∧
  (∀ s via r, s.m.mailboxRom via = true → r < 256 → s.m.glb.halted = true →
    ∃ t, exec (.moduleReset via r) s = .next t ∧ Kept s t ∧ t.m.phase = 0 ∧ t.m.get pgGlb GlbF.lastReset = 3 ∧ t.m.glb.halted = false ∧
      .reply via .success [] ∈ t.m.out) ∧
  (∀ s via r, (s.m.mailboxRom via = false ∨ 256 ≤ r) → exec (.moduleReset via r) s = .next s) ∧
  (∀ s, s.m.runs = true → s.m.glb.resetBy = none → s.m.restored = true → s.m.glb.tampered = false → s.m.vlt.save = none →
    ∃ t v, exec .watchdogExpire s = .next t ∧ Kept s t ∧ t.m.mem = s.m.mem ∧ bit (t.m.get pgGlb HdrF.err) 8 = true ∧ t.m.vlt.save = some v ∧
      v.trigger = 5 ∧ v.after = (if s.m.is pgGlb GlbF.autoReset && decide (s.m.faultResets1h < s.m.get pgGlb GlbF.faultLimit) then .reset 2 else .halt)) ∧
  (∀ s, s.m.runs = false → exec .watchdogExpire s = .next s)

/-- Clocks and the board (R476, R477, R479): a stopped pair takes its host ports down and with pair 0 the timebase holds over; its return lets
them train; THERM_N follows the warning; a leak drives LEAK_N until power-off. -/
def Obligations.ClocksAndWarningsAreFollowed : Prop :=
  (∀ s p, p < 8 → s.m.glb.clkStopped.contains p = false → s.m.runs = true →
    (∀ n, n ∈ s.m.pairPorts p → n < 96 ∧ s.m.hostRole n = true ∧ s.m.ctxsOn n = [] ∧ s.m.isSteward n = false ∧
      bit (s.m.get (pgPrt n) HdrF.errSev) 8 = false) →
    ∃ t, exec (.refclkStop p) s = .next t ∧ Kept s t ∧ t.m.mem = s.m.mem ∧
      t.m.glb = { s.m.glb with clkStopped := s.m.glb.clkStopped ++ [p], holdover := s.m.glb.holdover || p = 0 } ∧
      ∀ n, n ∈ s.m.pairPorts p → t.m.portUp n = false) ∧
  (∀ s p, p < 8 → s.m.glb.clkStopped.contains p = false → s.m.runs = false → exec (.refclkStop p) s =
    .next (s.withM { s.m with glb := { s.m.glb with clkStopped := s.m.glb.clkStopped ++ [p] } })) ∧
  (∀ s p, p < 8 → s.m.glb.clkStopped.contains p = true → exec (.refclkStop p) s = .next s) ∧
  (∀ s p, p < 8 → s.m.glb.clkStopped.contains p = true → s.m.runs = true →
    (∀ n, n ∈ s.m.pairPorts p → n < 96 ∧ s.m.hostRole n = true ∧ s.m.quadChanging n = false ∧ s.m.get (pgPrt n) PrtF.hostLinkState = 0) →
    ∃ t, exec (.refclkReturn p) s = .next t ∧ Kept s t ∧ t.m.out = s.m.out ∧ t.m.work = { s.m with glb := t.m.glb }.work ∧
      t.m.glb.clkStopped.contains p = false ∧ (p = 0 → t.m.glb.holdover = false) ∧
      ∀ n, n ∈ s.m.pairPorts p → t.m.get (pgPrt n) PrtF.hostLinkState = (if s.m.is (pgPrt n) PrtF.hostLinkDisable = true then 0 else 1)) ∧
  (∀ s p, p < 8 → s.m.glb.clkStopped.contains p = false → exec (.refclkReturn p) s = .next s) ∧
  (∀ s h, exec (.thermWarn h) s = .next (s.withM { s.m with glb := { s.m.glb with thermLow := h } })) ∧
  (∀ s, s.m.glb.powered = true → s.m.glb.leakLow = false →
    ∃ t, exec .leakDetect s = .next t ∧ Kept s t ∧ t.m.glb = { s.m.glb with leakLow := true } ∧ t.m.mem = s.m.mem ∧ t.m.vlt = s.m.vlt ∧
      t.m.led = s.m.led ∧ t.m.fab = s.m.fab) ∧
  (∀ s, (s.m.glb.powered = false ∨ s.m.glb.leakLow = true) → exec .leakDetect s = .next s)

/-- A step takes the command at the front of the queue: it is exec of it on the state with the queue's rest. On an empty queue one tick passes
and nothing else changes but counters of ticks (the model's choice, log entry 12). -/
def Obligations.StepRunsTheFrontCommand : Prop :=
  (∀ c s, step { s with pending := c :: s.pending } = exec c s) ∧
  (∀ s c rest, s.pending = c :: rest → step s = exec c { s with pending := rest }) ∧
  (∀ s, s.pending = [] → ∃ t, step s = .next t ∧ Kept s t ∧ t.m.work = { s.m with tick := s.m.tick + 1 }.work ∧
    (s.m.is pgPmu PmuF.open_ = false → t = s.withM { s.m with tick := s.m.tick + 1 }))

/-- The state after reset: nothing waits, memory is canonical, fuses and power entry stage are legal, and the registers whose reset values the
tables of the spec give hold them (R34, R377, R379, R394, R413, R431, R445, R467). The fuses, the stage and the vault are the model's
(log entries 5, 6 and 9). -/
def Obligations.ResetHoldsTheTablesValues : Prop :=
  State.reset.pending = [] ∧ Memory.wf State.reset.m.mem = true ∧ FusesLegal State.reset.fuse ∧ PowerLegal State.reset.pwr ∧
  State.reset.m.phase = 0 ∧ State.reset.m.get pgGlb GlbF.moduleState = 0 ∧ State.reset.m.get pgGlb GlbF.autoReset = 1 ∧
  State.reset.m.get pgGlb GlbF.faultLimit = 3 ∧ State.reset.m.get pgAge AgeF.vNow = 780 ∧ State.reset.m.get pgAge AgeF.planHours = 24 ∧
  State.reset.m.get pgAge AgeF.vLow = 2500 ∧ State.reset.m.get pgAge AgeF.eGibMj = 6700 ∧ State.reset.m.get pgDrz DrzF.gapUs = 250 ∧
  State.reset.m.get pgDrz DrzF.repairEn = 1 ∧ (∀ c, c < 96 → State.reset.m.get (pgMch c) MchF.maxRate = 5 ∧
    State.reset.m.blockState (pgMch c) = stOff ∧ State.reset.m.get (pgMch c) HdrF.err = 0) ∧
  (∀ n, n < 4096 → State.reset.m.floorFld n FloorEF.floor = 0 ∧ State.reset.m.floorFld n FloorEF.weight = 16) ∧
  State.reset.m.floorFld 4096 FloorEF.floor = 49152 ∧ State.reset.m.floorFld 4096 FloorEF.gustMax = 196608 ∧
  (∀ n, n < 8192 → State.reset.m.rf n RingEF.state = 0 ∧ State.reset.m.rf n RingEF.ringEpoch = 0)

/-- Every command completes where the units it names exist, on every state; where one does not, it faults by that name. No command is
refused. -/
def Obligations.CommandsCompleteWhereTheirUnitsExist : Prop :=
  ∀ c s, (c.unitsOk = true → Goes (exec c s)) ∧ (c.unitsOk = false → exec c s = .fault .absentUnit)

/-- Frames of the whole module (R425, R429, R442, R443): no command touches the queue; only those of the lifecycle, the lid, the wake and a lost
word of the secure store change the fuses, and only those of the power entry stage, a seal and a restore's end change the stage. With legal
fuses and no half-written move, KEY_GEN, the wipes and the lifecycle only advance. -/
def Obligations.CommandsKeepQueueFusesAndStage : Prop :=
  ∀ c s t, exec c s = .next t → t.pending = s.pending ∧ (c.movesFuses = false → t.fuse = s.fuse) ∧ (c.movesPower = false → t.pwr = s.pwr) ∧
    (FusesLegal s.fuse → s.fuse.half = none →
      s.fuse.keyGen ≤ t.fuse.keyGen ∧ s.fuse.wipes ≤ t.fuse.wipes ∧ s.fuse.lifecycle ≤ t.fuse.lifecycle)

/-- An invariant of every step (R419 to R429, R442): legal fuses stay legal, and so does the power entry stage. -/
def Obligations.EveryStepKeepsFusesAndStageLegal : Prop :=
  ∀ s t, step s = .next t → (FusesLegal s.fuse → FusesLegal t.fuse) ∧ (PowerLegal s.pwr → PowerLegal t.pwr)
end

