-- ==== Sys2Proof/Laws/Flags.lean ====
section
/-!
SUPPORT. Laws/Flags.lean: which register fields counting, signals, errors and event records leave alone: all but the event counters' own
fields, the PMU and STW pages, and, for an error, PAGE_ERR and PAGE_ERR_INFO of its page.
-/
namespace Sys2Proof.Machine

/-- A key of the register store that no event touches: not of an event counter, not on the PMU or STW page. -/
def calm (k : Nat) : Prop := ¬(0x60 ≤ k / 64 % 4096 ∧ k / 64 % 4096 < 0xA0) ∧ k / 64 / 4096 ≠ 0xA ∧ k / 64 / 4096 ≠ 0xB

/-- A page begins at a multiple of 4 KiB. -/
theorem pageAddr_mod (p : PageId) : pageAddr p % 4096 = 0 := by
  obtain ⟨ty, n⟩ := p
  cases ty <;> simp only [pageAddr, pageBase] <;> omega

/-- Writing a field leaves the value under another key alone. -/
theorem Mod.set_regKey (m : Mod) (p : PageId) (f : Fld) (v k : Nat) (h : k ≠ fldKey (pageAddr p) f) :
    mapGet (m.set p f v).regs k = mapGet m.regs k := mapGet_mapPut_other _ _ _ _ h

/-- An event counter's fields are not calm. -/
theorem calm_ne_evt {k : Nat} (h : calm k) (p : PageId) (f : Fld) (h1 : 0x60 ≤ f.off) (h2 : f.off < 0xA0) (h3 : f.lo < 64) :
    k ≠ fldKey (pageAddr p) f := by
  rintro rfl
  have hp := pageAddr_mod p
  refine h.1 ?_
  simp only [fldKey]
  omega

theorem calm_ne_pmu {k : Nat} (h : calm k) (f : Fld) (h2 : f.off < 0x1000) (h3 : f.lo < 64) : k ≠ fldKey (pageAddr pgPmu) f := by
  rintro rfl
  refine h.2.1 ?_
  simp only [fldKey, pageAddr, pgPmu, pageBase]
  omega

theorem calm_ne_stw {k : Nat} (h : calm k) (f : Fld) (h2 : f.off < 0x1000) (h3 : f.lo < 64) : k ≠ fldKey (pageAddr pgStw) f := by
  rintro rfl
  refine h.2.2 ?_
  simp only [fldKey, pageAddr, pgStw, pageBase]
  omega

theorem evtCount_place (k : Nat) : 0x60 ≤ (evtCount k).off ∧ (evtCount k).off < 0xA0 ∧ (evtCount k).lo < 64 := by
  unfold evtCount; split <;> decide

theorem evtOvf_place (k : Nat) : 0x60 ≤ (evtOvf k).off ∧ (evtOvf k).off < 0xA0 ∧ (evtOvf k).lo < 64 := by
  unfold evtOvf; split <;> decide

theorem Mod.bumpCounter_key (m : Mod) (p : PageId) (i n k : Nat) (h : calm k) :
    mapGet (m.bumpCounter p i n).1.regs k = mapGet m.regs k := by
  have h1 := evtCount_place i
  have h2 := evtOvf_place i
  have e1 := calm_ne_evt h p _ h1.1 h1.2.1 h1.2.2
  have e2 := calm_ne_evt h p _ h2.1 h2.2.1 h2.2.2
  unfold Mod.bumpCounter
  dsimp only
  split
  · exact Mod.set_regKey _ _ _ _ _ e1
  · rw [Mod.set_regKey _ _ _ _ _ e2, Mod.set_regKey _ _ _ _ _ e1]

/-- Folds of steps that leave a register alone. -/
theorem foldl_key {α β : Type} (g : β → Mod) (f : β → α → β) (k : Nat)
    (h : ∀ b a, mapGet (g (f b a)).regs k = mapGet (g b).regs k) (l : List α) :
    ∀ b, mapGet (g (l.foldl f b)).regs k = mapGet (g b).regs k := by
  induction l with
  | nil => intro b; rfl
  | cons a t ih => intro b; rw [List.foldl_cons, ih, h]

theorem Mod.countRaw_key (m : Mod) (p : PageId) (e n k : Nat) (h : calm k) :
    mapGet (m.countRaw p e n).1.regs k = mapGet m.regs k := by
  unfold Mod.countRaw
  refine foldl_key (β := Mod × List Nat) (fun b => b.1) _ k ?_ (upto 4) (m, [])
  intro b a; dsimp only; split
  · exact Mod.bumpCounter_key _ _ _ _ _ h
  · rfl

theorem Mod.msixIssue_key (m : Mod) (v k : Nat) (h : calm k) : mapGet (m.msixIssue v).regs k = mapGet m.regs k := by
  unfold Mod.msixIssue; rw [Mod.send_regs]; exact Mod.countRaw_key m pgStw 0x100 1 k h

theorem Mod.setPend_regs (m : Mod) (v : Nat) : (m.setPend v).regs = m.regs := by
  unfold Mod.setPend; split <;> rfl

/-- An error's bits and capture touch PAGE_ERR and PAGE_ERR_INFO of its page. -/
theorem Mod.errBits_key (m : Mod) (p : PageId) (b d k : Nat)
    (h : ∀ f, f = HdrF.err ∨ f = HdrF.multiple ∨ f = HdrF.errIndex ∨ f = HdrF.valid ∨ f = HdrF.detail → k ≠ fldKey (pageAddr p) f) :
    mapGet (m.errBits p b d).regs k = mapGet m.regs k := by
  have h1 := h HdrF.err (by simp)
  have h2 := h HdrF.multiple (by simp)
  have h3 := h HdrF.errIndex (by simp)
  have h4 := h HdrF.valid (by simp)
  have h5 := h HdrF.detail (by simp)
  unfold Mod.errBits
  dsimp only
  split
  · rw [Mod.set_regKey _ _ _ _ _ h2, Mod.set_regKey _ _ _ _ _ h1]
  · rw [Mod.set_regKey _ _ _ _ _ h5, Mod.set_regKey _ _ _ _ _ h4, Mod.set_regKey _ _ _ _ _ h3, Mod.set_regKey _ _ _ _ _ h1]

theorem err_place (f : Fld) (h : f = HdrF.err ∨ f = HdrF.multiple ∨ f = HdrF.errIndex ∨ f = HdrF.valid ∨ f = HdrF.detail) :
    (f.off = 0x20 ∨ f.off = 0x38) ∧ f.lo < 64 := by
  rcases h with rfl | rfl | rfl | rfl | rfl <;> decide

theorem Mod.signal_key (m : Mod) (v k : Nat) (h : calm k) : mapGet (m.signal v).regs k = mapGet m.regs k := by
  unfold Mod.signal
  split
  · split
    · split
      · split
        · rfl
        · exact Mod.msixIssue_key m v k h
      · rw [Mod.setPend_regs]
    · rw [Mod.errBits_key]
      · exact Mod.set_regKey _ _ _ _ _ (calm_ne_stw h _ (by decide) (by decide))
      · intro f hf
        have := err_place f hf
        exact calm_ne_stw h f (by omega) this.2
  · rfl

theorem Mod.errQuiet_pmu_key (m : Mod) (b d k : Nat) (h : calm k) : mapGet (m.errQuiet pgPmu b d).regs k = mapGet m.regs k := by
  have e : ∀ m : Mod, mapGet ((m.errBits pgPmu b d).countRaw pgPmu evErrors 1).1.regs k = mapGet m.regs k := by
    intro m
    rw [Mod.countRaw_key _ _ _ _ _ h, Mod.errBits_key]
    intro f hf
    have := err_place f hf
    exact calm_ne_pmu h f (by omega) this.2
  have s : ∀ (m : Mod) c, mapGet (m.setState pgPmu c).regs k = mapGet m.regs k := fun m c =>
    Mod.set_regKey _ _ _ _ _ (calm_ne_pmu h _ (by decide) (by decide))
  have q : ∀ (c : Bool) (x y : Mod), mapGet x.regs k = mapGet m.regs k → mapGet y.regs k = mapGet m.regs k →
      mapGet (if c = true then x else y).regs k = mapGet m.regs k := by
    intro c x y hx hy; cases c <;> assumption
  unfold Mod.errQuiet
  refine q _ _ _ ?_ ?_
  · rw [s]
    exact q _ _ _ (by rw [Mod.signal_key _ _ _ h, e]) (e m)
  · exact q _ _ _ (by rw [Mod.signal_key _ _ _ h, e]) (e m)

theorem Mod.wrapped_key (m : Mod) (p : PageId) (i k : Nat) (h : calm k) : mapGet (m.wrapped p i).regs k = mapGet m.regs k := by
  unfold Mod.wrapped
  dsimp only
  split
  · rw [Mod.errQuiet_pmu_key _ _ _ _ h, Mod.set_regKey _ _ _ _ _ (calm_ne_pmu h _ (by decide) (by decide)),
      Mod.set_regKey _ _ _ _ _ (calm_ne_pmu h _ (by decide) (by decide)), Mod.errQuiet_pmu_key _ _ _ _ h]
  · exact Mod.errQuiet_pmu_key _ _ _ _ h

/-- An event leaves every calm register alone. -/
theorem Mod.count_key (m : Mod) (p : PageId) (e n k : Nat) (h : calm k) : mapGet (m.count p e n).regs k = mapGet m.regs k := by
  unfold Mod.count
  dsimp only
  rw [foldl_key (fun b => b) (fun a i => a.wrapped p i) k (fun b a => Mod.wrapped_key b p a k h)]
  exact Mod.countRaw_key m p e n k h

/-- The part of the module that events and records leave alone. -/
theorem Mod.work_glb {a b : Mod} (h : a.work = b.work) : a.glb = b.glb := by
  have := congrArg Mod.glb h; exact this

/-- A calm field reads the same after an event. -/
theorem Mod.count_get (m : Mod) (p q : PageId) (e n : Nat) (f : Fld) (h : calm (fldKey (pageAddr q) f)) :
    (m.count p e n).get q f = m.get q f := by
  have hg := Mod.work_glb (Mod.count_work m p e n)
  simp only [Mod.get, mapGetD, Mod.count_key m p e n _ h, Mod.fldReset, Mod.inService, hg]

/-- A calm field reads the same after a completion. -/
theorem Mod.reply_get (m : Mod) (via : Via) (rc : Rc) (d : List Byte) (q : PageId) (f : Fld) (h : calm (fldKey (pageAddr q) f)) :
    (m.reply via rc d).get q f = m.get q f := by
  unfold Mod.reply; rw [Mod.send_get]; exact Mod.count_get m pgGlb q 0x101 1 f h

theorem Mod.replyVals_get (m : Mod) (via : Via) (rc : Rc) (d : List Nat) (q : PageId) (f : Fld) (h : calm (fldKey (pageAddr q) f)) :
    (m.replyVals via rc d).get q f = m.get q f := by
  unfold Mod.replyVals; rw [Mod.send_get]; exact Mod.count_get m pgGlb q 0x101 1 f h

/-! ## Errors that are not fatal, and event records -/

/-- An error whose severity bit is 0 touches registers, what is sent and the steward function alone. -/
theorem Mod.raise_work (m : Mod) (p : PageId) (b d : Nat) (h : bit (m.get p HdrF.errSev) b = false) : (m.raise p b d).work = m.work := by
  unfold Mod.raise
  dsimp only
  rw [h]
  simp only [Bool.false_eq_true, if_false]
  split <;> simp

/-- It leaves alone every calm register but PAGE_ERR and PAGE_ERR_INFO of its page. -/
theorem Mod.raise_key (m : Mod) (p : PageId) (b d k : Nat) (h : bit (m.get p HdrF.errSev) b = false) (hk : calm k)
    (h1 : k / 64 ≠ pageAddr p + 0x20) (h2 : k / 64 ≠ pageAddr p + 0x38) : mapGet (m.raise p b d).regs k = mapGet m.regs k := by
  have e : mapGet (m.errBits p b d).regs k = mapGet m.regs k := by
    refine Mod.errBits_key m p b d k ?_
    rintro f hf rfl
    have := err_place f hf
    simp only [fldKey] at h1 h2
    omega
  unfold Mod.raise
  dsimp only
  rw [h]
  simp only [Bool.false_eq_true, if_false]
  split
  · rw [Mod.signal_key _ _ _ hk, Mod.count_key _ _ _ _ _ hk, e]
  · rw [Mod.count_key _ _ _ _ _ hk, e]

theorem Mod.raise_get (m : Mod) (p q : PageId) (b d : Nat) (f : Fld) (h : bit (m.get p HdrF.errSev) b = false)
    (hk : calm (fldKey (pageAddr q) f)) (h1 : fldKey (pageAddr q) f / 64 ≠ pageAddr p + 0x20)
    (h2 : fldKey (pageAddr q) f / 64 ≠ pageAddr p + 0x38) : (m.raise p b d).get q f = m.get q f := by
  have hg := Mod.work_glb (Mod.raise_work m p b d h)
  simp only [Mod.get, mapGetD, Mod.raise_key m p b d _ h hk h1 h2, Mod.fldReset, Mod.inService, hg]

/-- The module but for its records as well. -/
def Mod.rest (m : Mod) : Mod := { m.work with mgmt := Mod.reset.mgmt }

theorem Mod.rest_of_work {a b : Mod} (h : a.work = b.work) : a.rest = b.rest := by simp [Mod.rest, h]

/-- An event record touches the records, registers, what is sent and the steward function alone. -/
theorem Mod.event_rest (m : Mod) (v : Sev) (k : EvKind) (a : List Nat) : (m.event v k a).rest = m.rest := by
  have hc : (m.count pgGlb 0x100 1).rest = m.rest := Mod.rest_of_work (Mod.count_work m _ _ _)
  unfold Mod.event
  generalize m.count pgGlb 0x100 1 = c at hc ⊢
  dsimp only
  split
  · split
    · rw [Mod.rest_of_work (Mod.signal_work _ _), ← hc]; rfl
    · rw [← hc]; rfl
  · rw [← hc]; rfl

theorem Mod.event_key (m : Mod) (v : Sev) (k : EvKind) (a : List Nat) (j : Nat) (h : calm j) :
    mapGet (m.event v k a).regs j = mapGet m.regs j := by
  have hc := Mod.count_key m pgGlb 0x100 1 j h
  unfold Mod.event
  generalize m.count pgGlb 0x100 1 = c at hc ⊢
  dsimp only
  split
  · split
    · rw [Mod.signal_key _ _ _ h]; exact hc
    · exact hc
  · exact hc

theorem Mod.event_get (m : Mod) (v : Sev) (k : EvKind) (a : List Nat) (q : PageId) (f : Fld) (h : calm (fldKey (pageAddr q) f)) :
    (m.event v k a).get q f = m.get q f := by
  have hg : (m.event v k a).glb = m.glb := by have := congrArg Mod.glb (Mod.event_rest m v k a); exact this
  simp only [Mod.get, mapGetD, Mod.event_key m v k a _ h, Mod.fldReset, Mod.inService, hg]

end Sys2Proof.Machine
end

