-- ==== Sys2Proof/Tests/Slice0.lean ====
section
/-!
SUPPORT. Tests/Slice0.lean: the author's tests: ill-formed commands, the spec's worked examples, single commands on small states, and for
every statement states and operands that meet its hypotheses.
-/
set_option linter.unusedVariables false
set_option Elab.async false

namespace Sys2Proof.Tests

open Sys2Proof Sys2Proof.Machine

/-! ## States that witnesses and tests use -/

/-- The machine with a module. -/
def st (m : Mod) : State := { State.reset with m := m }

/-- SERVING: start-up has passed. -/
def srv : Mod :=
  { (Mod.reset.set pgGlb GlbF.phase 7).set pgGlb GlbF.moduleState 3 with glb := { Mod.reset.glb with pagesUp := true, dramUp := true } }

/-- SERVING with the link of port engine 0 up. -/
def up : Mod := srv.set (pgPrt 0) PrtF.hostLinkState 2

/-- The sender at port engine 0, logical device 0. -/
def h0 : HostSrc := ⟨0, 0, 1, true⟩

/-- Region 0 of 1 GiB in domain 1. -/
def reg0 (dur db thin : Bool) : Region := { base := 0, len := gib, durable := dur, hdmDb := db, thin := thin, domain := 1 }

/-- Extent 0: the first 2 MiB of region 0, given to context 0. -/
def ext0 : Extent :=
  { base := 0, size := 2097152, region := 0, epoch := 1, hosts := [0], order := 0, adopted := none, stripe := none, runs := [],
    suspended := false, closing := false, zeroing := false }

/-- Context 0 behind port 0 holds extent 0, and line 0 is at hand in frame 5. -/
def cap (dur db : Bool) : Mod :=
  { up with
    fab := { Fab.reset with regions := [(0, reg0 dur db (!dur))], extents := [(0, { ext0 with stripe := if dur then some 0 else none })], order := 1, grants := [⟨0, 0, 1, .active⟩], ctxOn := [0], lds := [(0, (0, true))], hdm := [(0, ⟨0, 268435456, 1, 256, none, 0⟩)] },
    key := { Key.reset with slots := [(1, { target := false, mode := if dur then 2 else 0, g := 0, key := zeros 96, lost := false })] },
    tier := { Tier.reset with pages := [(0, ⟨.plain 5, false, false, 0⟩)], fc := [(0, [⟨0, false, false⟩])], mapCache := [(0, [(0, false)])] } }

/-- A group of three members with two data units and one parity unit a stripe, at generation 3; member 0 is its keeper. -/
def map3 : GMap :=
  { groupId := 7, gen := 3, keeper := 0, term := 1, k := 2, m := 1, units := 1024, restripe := false, dissolve := false, tk := 0, tm := 0,
    members := [⟨1, 1, none, 0⟩, ⟨2, 1, none, 0⟩, ⟨3, 1, none, 0⟩], promote := [] }

/-- The module with ID `id` under a map. -/
def grpd (g : GMap) (id : Nat) : Mod := { up with grp := { up.grp with map := some g, highTerm := 1, ownId := id } }

/-- The window of the tests: 4 KiB of data at DPA 4,096, its stop line at DPA 0. -/
def win0 : Window := { entry := ⟨4096, 4096, 0, 0⟩, st := .open_, epoch := 0, degraded := false, lastSeq := 0, stopsDone := 0 }

/-- SERVING, with no register field written but PHASE. -/
def bare : Mod := { srv with regs := [(fldKey (pageAddr pgGlb) GlbF.phase, 7)] }

/-- Where no ring-table field has been written, every pair stands at its reset values. -/
theorem bare_rf (n : Nat) (f : Fld) : (st bare).m.rf n f = f.rst := by
  have h : fldKey (pageAddr pgGlb) GlbF.phase < fldKey (ringAt n) f := by
    have e : fldKey (pageAddr pgGlb) GlbF.phase = 17411 := by decide
    have l : 17411 < ringAt n * 64 := by unfold ringAt; omega
    unfold fldKey at *; omega
  have h2 : ¬ (fldKey (pageAddr pgGlb) GlbF.phase = fldKey (ringAt n) f) := by omega
  have h3 : ¬ (fldKey (ringAt n) f < fldKey (pageAddr pgGlb) GlbF.phase) := by omega
  simp only [st, bare, Mod.rf, Mod.at_, mapGetD, mapGet, if_neg h2, if_neg h3, Option.getD_none]

/-- Port engine 8 in the peer role, in a state of the link layer. -/
def peer8 (b : Nat) : Mod := (srv.set (pgPrt 8) HdrF.roleCode 2).set (pgPrt 8) PrtF.peerState b

/-- A frame with sequence 0 and no payload, of a type, with its CRC and check bytes worked out from R130. -/
def raw8 (ty : Byte) (tail : List Byte) : List Byte := zeros 5 ++ [ty] ++ zeros 236 ++ tail

def data8 : List Byte := raw8 0#8 [0x3b#8, 0x17#8, 0xca#8, 0xb1#8, 0x4f#8, 0xad#8, 0x21#8, 0x0d#8, 0xa6#8, 0x37#8, 0x3a#8, 0xc1#8, 0x9c#8, 0x6f#8]
def ctl8 : List Byte := raw8 1#8 [0x63#8, 0x43#8, 0xee#8, 0x57#8, 0xe3#8, 0xd8#8, 0x27#8, 0xc5#8, 0xc5#8, 0x47#8, 0x37#8, 0xf3#8, 0x55#8, 0x52#8]
def idle8 : List Byte := raw8 2#8 [0x0e#8, 0xa1#8, 0x8c#8, 0xd2#8, 0x3d#8, 0xe9#8, 0xf5#8, 0x0f#8, 0xa5#8, 0x7b#8, 0x83#8, 0xc0#8, 0x50#8, 0x10#8]
def mark8 : List Byte := raw8 3#8 [0x56#8, 0xf5#8, 0xa8#8, 0x34#8, 0x91#8, 0x9c#8, 0xf3#8, 0xc7#8, 0xc6#8, 0x0b#8, 0x8e#8, 0xf2#8, 0x99#8, 0x2d#8]

/-- Port engine 8 has received a run of one frame under GCM. -/
def gcmSt : State :=
  st { (peer8 3).set (pgPrt 8) PrtF.peerGcmEn 1 with
    bfl := { srv.bfl with ports := [(8, { Mod.reset.pp 8 with rxKeys := { DirKeys.none with keys := [(1, (7, zeros 32))] }, runRx := [(1, zeros 8, zeros 56)] })] } }

/-- With number 0 free, a new extent takes it. -/
theorem freeExt_zero (m : Mod) (h : m.ext 0 = none) : m.freeExt = some 0 := by
  unfold Mod.freeExt upto
  rw [List.find?_range_eq_some]
  exact ⟨by rw [h]; rfl, List.mem_range.mpr (by decide), fun j hj => absurd hj (by omega)⟩

/-- Ring pair 3 of context 0, enabled with 64-entry rings, over line 0 at hand in volatile or durable memory. -/
def ringed (dur : Bool) (p : Pair) : Mod :=
  { (((((cap dur false).setRf 3 RingEF.state 1).setRf 3 RingEF.sqLog2 6).setRf 3 RingEF.cqLog2 6).setRf 3 RingEF.maxInflight 4) with rng := [(3, p)] }

/-- An entry of the submission ring: opcode, operands A and B and a length. -/
def sqe (op a b len : Nat) : List Byte := leBytes 1 op ++ zeros 7 ++ leBytes 8 a ++ leBytes 8 b ++ leBytes 8 len ++ zeros 32

/-- A started verb of pair 3 at a step. -/
def verb3 (entry : List Byte) (step : VerbStep) : Verb :=
  { ser := 0, idx := 0, entry := entry, started := true, step := step, got := [], puts := [], wrote := [], bad := [], slot := 0, lex := none,
    outcome := none, order := 0 }

/-- The machine with one verb. -/
def verbSt (dur : Bool) (v : Verb) : State := st (ringed dur { Pair.fresh with verbs := [v] })

/-- No error of the VLT and PWR pages is fatal. -/
def mild (m : Mod) : Mod := (m.set pgVlt HdrF.errSev 0).set pgPwr HdrF.errSev 0

theorem mild_of (m : Mod) (h1 : m.get pgVlt HdrF.errSev = 0) (h2 : m.get pgPwr HdrF.errSev = 0) : m.mildVlt := by
  intro b
  simp only [h1, h2, bit, Nat.zero_testBit, and_self]

/-- The die has no power. -/
def dark : Mod := { srv with glb := { srv.glb with powered := false } }

/-- A save with trigger 6. -/
def save6 (x : SaveStep) (a : AfterSave) : Save :=
  { trigger := 6, step := x, after := a, start := 0, truncated := false, parityCut := 0, volCut := 0, durable := true, gpf := [] }

/-- An image with one byte of memory. -/
def img (seq : Nat) (done : Bool) : Image :=
  { seq := seq, trigger := 6, keyGen := 0, mapGen := 0, sealed_ := done, durableComplete := done, truncated := false, parityCut := 0, volCut := 0,
    deadPacks := 0, durationMs := 0, energyJ := 0, vEnd := 2500,
    saved := { cfg := [], logs := Mod.reset.mgmt.logs, poisonList := [], saves := 1, restores := 4, mem := [(7, 9)], poison := [], fab := Fab.reset,
               led := Led.reset, tier := Tier.reset, grp := { Grp.reset with ownId := 0 }, aux := GrpAux.reset, inc0 := 0, bundles := [], quads := [], ringEpochs := [],
               lex := Lex.reset, key := Key.reset } }

/-- A save is being written, with its image in area A. -/
def saving6 (a : AfterSave) : Mod := { srv with vlt := { srv.vlt with save := some (save6 .writing a), areaA := some (img 1 false), erased := false } }

/-- The restore of start-up, with an image in area A or none. -/
def rest4 (i : Option Image) : Mod :=
  { ((Mod.reset.set pgGlb GlbF.phase 4).set pgGlb GlbF.moduleState 1) with
    vlt := { Mod.reset.vlt with areaA := i, restoring := true }, glb := { Mod.reset.glb with pagesUp := true, dramUp := true } }

/-- The power entry stage in a state with a latch-off or none. -/
def pwr (x : PwrSt) (l : Option Nat) : Pwr := { Pwr.reset with st := x, pg := x = .on, latch := l, coolDown := l.isSome }

theorem some_getD {α : Type} (o : Option α) (d : α) (h : o.isSome = true) : o = some (o.getD d) := by
  cases o with
  | none => cases h
  | some x => rfl

/-! ## Ill-formed commands are refused by the check -/

theorem test_wf_page : (Instr.pageEnableSet ⟨.mch, 96⟩).unitsOk = false := by decide
theorem test_wf_counter : (Instr.counterWrap ⟨.glb, 0⟩ 4).unitsOk = false := by decide
theorem test_wf_source : (Instr.memrddata ⟨96, 0, 0, true⟩ 0).unitsOk = false := by decide
theorem test_wf_port : (Instr.replayTimer 96).unitsOk = false := by decide
theorem test_wf_releaser : (Instr.releaseDc (.ld 96 0) 0).unitsOk = false := by decide
theorem test_wf_slice : (Instr.dirProbe 64).unitsOk = false := by decide
theorem test_wf_quad : (Instr.lnqApply 32).unitsOk = false := by decide
theorem test_wf_vector : (Instr.msixVectorUnmask 2048).unitsOk = false := by decide
theorem test_wf_lexicon_engine : (Instr.lexBlockStart 32).unitsOk = false := by decide
theorem test_wf_front_engine : (Instr.frontStep 16).unitsOk = false := by decide
theorem test_wf_channel : (Instr.refreshDue 96).unitsOk = false := by decide
theorem test_wf_device_pair : (Instr.tempPoll 48 0 0).unitsOk = false := by decide
theorem test_wf_ring : (Instr.doorbell 8192).unitsOk = false := by decide
theorem test_wf_clock_pair : (Instr.refclkStop 8).unitsOk = false := by decide
theorem test_wf_access : (Instr.registerWrite ⟨.bar0, 0, 3, none⟩).dataOk = false := by decide
theorem test_wf_line : (Instr.clearPoison .sideband 0 (zeros 63)).dataOk = false := by decide
theorem test_wf_byte_enables : (Instr.memwrptl h0 0 (zeros 64) (2 ^ 64) false).dataOk = false := by decide +kernel
theorem test_wf_unit : (Instr.unitData 0 0 (zeros 64)).dataOk = false := by decide
theorem test_wf_frame : (Instr.idleFrameReceive 0 (zeros 255)).dataOk = false := by decide +kernel
theorem test_wf_tag : (Instr.macTag 0 (zeros 15)).dataOk = false := by decide
theorem test_wf_salt : (Instr.bfKeySet .sideband 0 0 0 (2 ^ 32) (zeros 32)).dataOk = false := by decide
theorem test_wf_port_key : (Instr.bfKeySet .sideband 0 0 0 0 (zeros 31)).dataOk = false := by decide
theorem test_wf_key_material : (Instr.keyDomainCreate .sideband 1 2 (.import_ (zeros 95))).dataOk = false := by decide
theorem test_wf_accepts : (Instr.memrd h0 0 .i .clean).wf = true := by decide

/-! ## The spec's worked examples -/

/-- "Register pages": the page of memory channel 37. -/
theorem test_page_of_channel_37 : pageAddr (pgMch 37) = 0x000F5000 := by decide

/-- "Shared lines": the home slice and LINE of DPA 0x18_0001_2340. -/
theorem test_home_slice : sliceOf (0x1800012340 / 64) = 35 ∧ sliceLine (0x1800012340 / 64) = 0x1800011 := by decide

/-- "Thin capacity and tiers": the map slice of the same line's page. -/
theorem test_map_slice : pageOfLine (0x1800012340 / 64) = 0x1800012 ∧ mapSlice 0x1800012 = 36 := by decide

/-- "Host ports and the fabric": the alias window of the example names consumer entry 2. -/
theorem test_alias_window :
    aliasTarget ⟨0x200000000000, 0x40000000, 0x1800000000, [0xFFFF, 0xFFFF, 0x2A7]⟩ 0x200480012340 = .at 0x1800012340 18 (some 0x2A7) := by decide

/-- "Protection groups": the coefficients and products of the 6+2 example. -/
theorem test_parity_coefficients :
    coef 1 1 = 0x46 ∧ coef 1 5 = 0xAC ∧ gfMul 0x46 0x3C = 0x33 ∧ gfMul 0xAC 0x81 = 0x3C ∧ gfMul 0x46 0x69 = 0x34 := by decide +kernel

/-- "Protection groups": with members 2 and 6 lost, position 1 is recovered. -/
theorem test_recover_unit :
    recoverLine 6 [(0, [0#8]), (2, [0#8]), (3, [0#8]), (4, [0#8]), (6, [0xD4#8]), (7, [0x3B#8])] 1 1 = [0x55#8] := by decide +kernel

/-- "Berfel peer links": the header of the delta with sequence 1,400. -/
theorem test_delta_header :
    msgBytes 0x00010F3C 0x002A 0x0132 (deltaMsg ⟨1400, 1, 1216, false, [0x33#8], true⟩) =
      [0x3C#8, 0x0F#8, 0x01#8, 0x00#8, 0x2A#8, 0x00#8, 0x32#8, 0x01#8, 0x0A#8, 0x78#8, 0x05#8, 0x00#8, 0xC0#8, 0x04#8, 0x00#8, 0x00#8, 0x33#8] := by
  decide +kernel

/-- "Lexicon": the worked block decodes to "123456789". -/
theorem test_lexicon_block :
    decodeBlock { stream := false, resetOk := false, hist := [0x31#8, 0x32#8, 0x33#8, 0x34#8, 0x35#8], seed := [], cap := 4096 }
      [0x09#8, 0x00#8, 0x00#8, 0x00#8, 0x83#8, 0x92#8, 0x06#8, 0xE3#8, 0x88#8, 0x04#8, 0x03#8, 0x36#8, 0x37#8, 0x38#8, 0x39#8, 0xFF#8] =
      (0, [0x31#8, 0x32#8, 0x33#8, 0x34#8, 0x35#8, 0x36#8, 0x37#8, 0x38#8, 0x39#8]) := by decide +kernel

/-- "Encryption": the hash and the words of the MAC example. -/
theorem test_mac_words :
    macHash 5 [0, 0, 0, 0, 0, 0, 3, 1] = 0x36 ∧
    macWords 0x6000048D 0 0x3C9A11 0x2A 6 0x36 = (0x3C9A1100600004BB, 0x860000000000002A) := by decide +kernel

/-- "Memory channels": where line 13 of frame 19,745 lies. -/
theorem test_channel_place :
    chanOf 19745 = 65 ∧ localUnit 19745 = 205 ∧ rowOf (chanLine 205 13) = 469 ∧ slotOf (chanLine 205 13) = 1 := by decide

/-- "Barometer": D_TGT, V_LOW, the BANK component and the allowances of the example's two columns. -/
theorem test_barometer_example :
    srv.dTgt = 448 ∧ srv.vLowOf 880 = 2788 ∧ srv.compBank 627 480 = 1000 ∧ allowanceOf 540000 8040 = 44 ∧ allowanceOf 980000 6700 = 64 := by
  decide +kernel

/-- R130: the CRC-32C of "123456789". -/
theorem test_crc32c :
    crc32c 0 [0x31#8, 0x32#8, 0x33#8, 0x34#8, 0x35#8, 0x36#8, 0x37#8, 0x38#8, 0x39#8] = 0xE3069283 := by decide +kernel

/-! ## One command on a small state -/

/-- The state a command leads to. -/
def after (c : Instr) (s : State) : State := match exec c s with
  | .next t => t
  | _ => State.reset

/-- R218: a write stores its 64 bytes and is completed. -/
theorem test_memwr_stores :
    Memory.bytes (after (.memwr h0 0 .a (List.replicate 64 0x5A#8) false) (st (cap false false))).m.mem 0 64 = List.replicate 64 0x5A#8 ∧
    (after (.memwr h0 0 .a (List.replicate 64 0x5A#8) false) (st (cap false false))).m.out.getLast? = some (.memDone h0) := by decide +kernel

/-- R218: a read answers with the line's bytes. -/
theorem test_memrd_answers :
    (after (.memrddata h0 0) (st { cap false false with mem := [(3, 7)] })).m.out.getLast? =
      some (.memData h0 .i ([0#8, 0#8, 0#8, 7#8] ++ zeros 60) false) := by decide +kernel

/-- R25: a 2-byte access to a block page is an Unsupported Request. -/
theorem test_register_size : (after (.registerWrite ⟨.bar0, 0, 2, some 1⟩) (st up)).m.out.getLast? = some (.unsupportedReq 0) := by
  decide +kernel

/-- R443: opening the lid fences the durable extents and advances KEY_GEN. -/
theorem test_lid_open : (after .lidOpen (st srv)).fuse.keyGen = 1 ∧ Fence.tamper ∈ (after .lidOpen (st srv)).m.fences := by decide +kernel

/-- R422: more than 45 A trips the fuse at once; 45 A does not. -/
theorem test_fast_trip : (after (.fastTrip 5400 45001) (st dark)).pwr.latch = some 4 ∧ (after (.fastTrip 5400 45000) (st dark)).pwr.latch = none := by
  decide +kernel

/-- A command that names a unit the module lacks faults. -/
theorem test_absent_unit : (match exec (.doorbell 8192) State.reset with | .fault .absentUnit => true | _ => false) = true := by decide +kernel

/-- No row of the opcode table has bits: no word spells a command. -/
theorem test_no_word : decodeTableWord 8 5 = none ∧ State.reset.withFetchWord 8 5 = State.reset := ⟨rfl, rfl⟩

/-! ## Every hypothesis of every statement can be met -/

theorem witness_QueryCommandsAnswerAndChangeNothing :
    (∃ (s : State) (via : Via), s.m.mailboxRom via = true) ∧
    (∃ (s : State) (via : Via), s.m.mailbox via = true) ∧
    (∃ (s : State) (via : Via), s.m.mailbox via = true) ∧
    (∃ (s : State) (via : Via) (b : BgCmd), s.m.mailbox via = true ∧ s.m.mgmt.bg.find? (fun b => b.via = via) = some b) ∧
    (∃ (s : State) (via : Via), s.m.mailbox via = true ∧ s.m.mgmt.bg.find? (fun b => b.via = via) = none) :=
  ⟨⟨st up, .sideband, by decide +kernel⟩,
    ⟨st up, .sideband, by decide +kernel⟩,
    ⟨st up, .sideband, by decide +kernel⟩,
    ⟨st { up with mgmt := { up.mgmt with bg := [⟨.sideband, 0x4404, 0⟩] } }, .sideband, (⟨.sideband, 0x4404, 0⟩ : BgCmd), by decide +kernel⟩,
    ⟨st up, .sideband, by decide +kernel⟩⟩

theorem witness_NamedQueryCommandsAnswerAndChangeNothing :
    (∃ (s : State) (via : Via) (w : _) (x : _), s.m.mailbox via = true ∧ w < 32768 ∧ mapGet s.m.led.wins w = some x) ∧
    (∃ (s : State) (via : Via) (w : _), s.m.mailbox via = true ∧ w < 32768 ∧ mapGet s.m.led.wins w = none) ∧
    (∃ (s : State) (via : Via) (w : _), s.m.mailbox via = true ∧ w < 32768) ∧
    (∃ (s : State) (via : Via) (n : _) (e : _), s.m.mailbox via = true ∧ s.m.ext n = some e) ∧
    (∃ (s : State) (via : Via) (r : _), s.m.mailbox via = true ∧ r < 8) ∧
    (∃ (s : State) (via : Via) (c : _) (l : _), s.m.mailbox via = true ∧ c < 4096 ∧ mapGet s.m.dir.watch c = some l) ∧
    (∃ (s : State) (via : Via) (dpa : _), s.m.mailbox via = true ∧ dpa < 1280 * gib) ∧
    (∃ (s : State) (via : Via) (d : _), s.m.mailbox via = true ∧ slotBad d = false ∧ s.m.isDomain d = true ∧ s.m.frontOf d = none) ∧
    (∃ (s : State) (via : Via) (n : _), s.m.mailbox via = true ∧ n < 8192) ∧
    (∃ (s : State) (via : Via) (x : _), s.m.mailbox via = true ∧ lexOk x = true) ∧
    (∃ (s : State) (via : Via) (g : GMap), s.m.mailbox via = true ∧ s.m.grp.map = some g) ∧
    (∃ (s : State) (via : Via), s.m.mailboxRom via = true) ∧
    (∃ (s : State) (via : Via), s.m.mailbox via = true) ∧
    (∃ (s : State) (via : Via), s.m.mailbox via = true) ∧
    (∃ (s : State) (port : _) (ld : _), port < 96 ∧ s.m.ldMailbox port ld = true) :=
  ⟨⟨st { up with led := { up.led with wins := [(0, win0)] } }, .sideband, 0, win0, by decide +kernel⟩,
    ⟨st up, .sideband, 32767, by decide +kernel⟩,
    ⟨st { up with led := { up.led with wins := [(0, win0)] } }, .sideband, 0, by decide +kernel⟩,
    ⟨st (cap false false), .sideband, 0, ext0, by decide +kernel⟩,
    ⟨st (cap false false), .sideband, 7, by decide +kernel⟩,
    ⟨st { up with dir := { up.dir with watch := [(5, 9)] } }, .sideband, 5, 9, by decide +kernel⟩,
    ⟨st (cap false false), .sideband, 4096, by decide +kernel⟩,
    ⟨st (cap false false), .sideband, 1, by decide +kernel⟩,
    ⟨st up, .sideband, 8191, by decide +kernel⟩,
    ⟨st up, .sideband, 1, by decide +kernel⟩,
    ⟨st (grpd map3 2), .sideband, map3, by decide +kernel⟩,
    ⟨st up, .sideband, by decide +kernel⟩,
    ⟨st up, .sideband, by decide +kernel⟩,
    ⟨st up, .sideband, by decide +kernel⟩,
    ⟨st (cap false false), 0, 0, by decide +kernel⟩⟩

theorem witness_ManagementSettersStoreTheirValue :
    (∃ (s : State) (via : Via), s.m.mailbox via = true) ∧
    (∃ (s : State) (via : Via), s.m.mailbox via = true) ∧
    (∃ (s : State) (via : Via), s.m.mailbox via = true) ∧
    (∃ (s : State) (via : Via) (start : _) (vals : List Nat), s.m.mailbox via = true ∧ start + vals.length ≤ 16) ∧
    (∃ (s : State) (via : Via) (slot : _), s.m.mailboxRom via = true ∧ (slot = 1 ∨ slot = 2) ∧ (s.m.slotOf slot).image = true) ∧
    (∃ (s : State) (via : Via), s.m.mailboxRom via = true) ∧
    (∃ (s : State) (via : Via) (slot : _), s.m.mailboxRom via = true ∧ s.m.stw.fetch = none ∧ s.m.stw.transfer = none ∧ (slot = 1 ∨ slot = 2) ∧ slot ≠ s.m.get pgGlb GlbF.fwSlot) :=
  ⟨⟨st up, .sideband, by decide +kernel⟩,
    ⟨st up, .sideband, by decide +kernel⟩,
    ⟨st up, .sideband, by decide +kernel⟩,
    ⟨st up, .sideband, 14, [3, 4], by decide +kernel⟩,
    ⟨st up, .sideband, 1, by decide +kernel⟩,
    ⟨st up, .sideband, by decide +kernel⟩,
    ⟨st (up.set pgGlb GlbF.fwSlot 1), .sideband, 2, by decide +kernel⟩⟩

theorem witness_EventRecordCommandsReadClearAndAppend :
    (∃ (s : State) (via : Via) (n : _) (v : Sev), s.m.mailbox via = true ∧ sevOf n = some v) ∧
    (∃ (s : State) (via : Via) (n : _) (v : Sev) (hs : List Nat), s.m.mailbox via = true ∧ sevOf n = some v ∧ (∀ h, h ∈ hs → ∃ r, r ∈ s.m.mgmt.logs.recs ∧ r.handle = h ∧ r.sev = v)) ∧
    (∃ (s : State) (via : Via) (n : _) (v : Sev) (hs : List Nat), s.m.mailbox via = true ∧ sevOf n = some v ∧ (∃ h, h ∈ hs ∧ ∀ r, r ∈ s.m.mgmt.logs.recs → r.sev = v → r.handle ≠ h)) ∧
    (∃ (s : State) (via : Via) (n : _) (v : Sev), s.m.mailbox via = true ∧ sevOf n = some v ∧ (s.m.mgmt.logs.recs.filter fun r => r.sev = v).length < 1024) ∧
    (∃ (s : State) (via : Via) (n : _) (v : Sev), s.m.mailbox via = true ∧ sevOf n = some v ∧ 1024 ≤ (s.m.mgmt.logs.recs.filter fun r => r.sev = v).length) :=
  ⟨⟨st up, .sideband, 1, (.warning : Sev), by decide +kernel⟩,
    ⟨st { up with mgmt := { up.mgmt with logs := { recs := [⟨1, .warning, .dcAdd, [], 0⟩], lost := [], next := 2 } } }, .sideband, 1, (.warning : Sev), [1], by decide +kernel⟩,
    ⟨st { up with mgmt := { up.mgmt with logs := { recs := [⟨1, .warning, .dcAdd, [], 0⟩], lost := [], next := 2 } } }, .sideband, 1, (.warning : Sev), [2], by decide +kernel⟩,
    ⟨st up, .sideband, 1, (.warning : Sev), by decide +kernel⟩,
    ⟨st { up with mgmt := { up.mgmt with logs := { recs := List.replicate 1024 ⟨1, .warning, .dcAdd, [], 0⟩, lost := [], next := 2 } } }, .sideband, 1, (.warning : Sev), by decide +kernel⟩⟩

theorem witness_HostPortCommandsMoveTheLink :
    (∃ (s : State) (port : _) (speed : _) (width : _) (f256 : _), port < 96 ∧ s.m.runs = true ∧ s.m.saving = false ∧ s.m.hostRole port = true ∧ s.m.restored = true ∧ s.m.clocked port = true ∧ s.m.quadChanging port = false ∧ s.m.is (pgPrt port) PrtF.hostLinkDisable = false ∧ s.m.get (pgPrt port) PrtF.hostLinkState = 1 ∧ s.m.gfdMode port = false ∧ 1 ≤ speed ∧ speed ≤ 5 ∧ speed = s.m.get (pgPrt port) PrtF.hostMaxSpeed ∧ (width = 4 ∨ width = 8 ∨ width = 16) ∧ (f256 = true ∨ s.m.needs256 port = false)) ∧
    (∃ (s : State) (port : _), port < 96 ∧ s.m.hostRole port = true ∧ s.m.is (pgPrt port) PrtF.hostLinkDisable = false ∧ (s.m.get (pgPrt port) PrtF.hostLinkState = 2 ∨ s.m.get (pgPrt port) PrtF.hostLinkState = 4)) ∧
    (∃ (s : State) (port : _), port < 96 ∧ s.m.hostRole port = true ∧ s.m.get (pgPrt port) PrtF.hostLinkState = 2) ∧
    (∃ (s : State) (port : _), port < 96 ∧ s.m.get (pgPrt port) PrtF.hostLinkState = 1) ∧
    (∃ (s : State) (port : _), port < 96 ∧ s.m.runs = true ∧ s.m.hostRole port = true ∧ s.m.portUp port = true) ∧
    (∃ (port : _), port < 96) :=
  ⟨⟨st (srv.set (pgPrt 0) PrtF.hostLinkState 1), 0, 5, 16, true, by decide +kernel⟩,
    ⟨st up, 0, by decide +kernel⟩,
    ⟨st up, 0, by decide +kernel⟩,
    ⟨st (srv.set (pgPrt 95) PrtF.hostLinkState 1), 95, by decide +kernel⟩,
    ⟨st up, 0, by decide +kernel⟩,
    ⟨95, by decide +kernel⟩⟩

theorem witness_LinkLossesTakeTheHostPortDown :
    (∃ (s : State) (port : _), port < 96 ∧ s.m.runs = true ∧ s.m.hostRole port = true ∧ s.m.portUp port = true ∧ s.m.ctxsOn port = [] ∧ s.m.isSteward port = false ∧ bit (s.m.get (pgPrt port) HdrF.errSev) 8 = false) ∧
    (∃ (s : State) (port : _) (d : _), port < 96 ∧ s.m.portUp port = true ∧ (s.m.hp port).drain = some d ∧ s.m.drainOwes port = false ∧ s.m.ctxsOn port = [] ∧ s.m.isSteward port = false ∧ bit (s.m.get (pgPrt port) HdrF.errSev) 8 = false) ∧
    (∃ (s : State) (port : _) (why : _) (began : _), port < 96 ∧ s.m.is pgPmu PmuF.open_ = false ∧ s.m.portUp port = true ∧ (s.m.hp port).drain = some (why, began) ∧ s.m.ctxsOn port = [] ∧ s.m.isSteward port = false ∧ bit (s.m.get (pgPrt port) HdrF.errSev) 8 = false ∧ bit (s.m.get (pgPrt port) HdrF.errSev) 17 = false) ∧
    (∃ (s : State) (port : _), port < 96 ∧ s.m.runs = true ∧ s.m.hostRole port = true ∧ s.m.portUp port = true ∧ s.m.ctxsOn port = [] ∧ s.m.isSteward port = false ∧ bit (s.m.get (pgPrt port) HdrF.errSev) 8 = false ∧ s.m.quadChanging port = false ∧ s.m.is (pgPrt port) PrtF.hostLinkDisable = false) ∧
    (∃ (s : State), s.m.runs = true ∧ (∀ n, n < 96 → s.m.hostRole n = true → s.m.portUp n = true ∧ s.m.ctxsOn n = [] ∧ s.m.isSteward n = false ∧ bit (s.m.get (pgPrt n) HdrF.errSev) 8 = false ∧ s.m.quadChanging n = false ∧ s.m.is (pgPrt n) PrtF.hostLinkDisable = false)) :=
  ⟨⟨st (up.set pgStw StwF.valid 0), 0, by decide +kernel⟩,
    ⟨st ((up.set pgStw StwF.valid 0).setHp 0 { up.hp 0 with drain := some (.write, 0) }), 0, (DrainWhy.write, 0), by decide +kernel⟩,
    ⟨st (((up.set pgStw StwF.valid 0).set pgPmu PmuF.open_ 0).setHp 0 { up.hp 0 with drain := some (.write, 0) }), 0, DrainWhy.write, 0, by decide +kernel⟩,
    ⟨st (up.set pgStw StwF.valid 0), 0, by decide +kernel⟩,
    ⟨st (up.set pgStw StwF.valid 0), by decide +kernel, by intro n hn; revert hn; revert n; decide +kernel⟩⟩

theorem witness_FabricConfigurationStoresWhatItNames :
    (∃ (s : State) (via : Via) (r : _) (base : _) (len : _), s.m.mailbox via = true ∧ r < 8 ∧ base % 2097152 = 0 ∧ len % 2097152 = 0 ∧ base + len ≤ 1280 * gib ∧ (∀ e, e ∈ s.m.fab.regions → e.1 ≠ r → overlaps base len e.2.base e.2.len = false) ∧ s.m.regionUsed r = false) ∧
    (∃ (s : State) (via : Via) (r : _) (dur : _) (thin : _) (d : _), s.m.mailbox via = true ∧ r < 8 ∧ 0 < d ∧ d ≤ 4095 ∧ ¬(dur = true ∧ thin = true) ∧ (dur = true → s.m.isDomain d = true → s.m.modeOf d = 2) ∧ s.m.regionUsed r = false) ∧
    (∃ (s : State) (via : Via) (r : _) (dur : _) (thin : _) (d : _), s.m.mailbox via = true ∧ r < 8 ∧ 0 < d ∧ d ≤ 4095 ∧ ¬(dur = true ∧ thin = true) ∧ (dur = true → s.m.isDomain d = true → s.m.modeOf d = 2) ∧ s.m.regionUsed r = true) ∧
    (∃ (s : State) (via : Via) (c : _), s.m.mailbox via = true ∧ c < 4096) ∧
    (∃ (s : State) (via : Via) (c : _) (dec : _) (base : _) (size : _) (ways : _) (gran : _) (pos : _) (dpa : _), s.m.mailbox via = true ∧ c < 4096 ∧ dec < 8 ∧ 0 < size ∧ base % 268435456 = 0 ∧ size % 268435456 = 0 ∧ waysOk ways = true ∧ granOk gran = true ∧ pos < ways ∧ dpa % 2097152 = 0 ∧ dpa + size / ways ≤ 1280 * gib ∧ (∀ i d, i < 8 → i ≠ dec → mapGet s.m.fab.gfd (c * 8 + i) = some d → overlaps base size d.base d.size = false)) ∧
    (∃ (s : State) (via : Via) (c : _) (w : _) (base : _) (span : _) (dpa : _), s.m.mailbox via = true ∧ c < 4096 ∧ w < 4 ∧ spanOk span = true ∧ base % (32 * span) = 0 ∧ dpa % 2097152 = 0) ∧
    (∃ (s : State) (port : _) (ld : _) (base : _) (size : _) (ways : _) (gran : _) (skip : _), port < 96 ∧ s.m.ldMailbox port ld = true ∧ 0 < size ∧ base % 268435456 = 0 ∧ size % (268435456 * ways) = 0 ∧ waysOk ways = true ∧ granOk gran = true ∧ skip + size / ways ≤ 1280 * gib) ∧
    (∃ (s : State) (via : Via) (c : _), s.m.mailbox via = true ∧ c < 4096 ∧ s.m.bgBusy via = false ∧ s.m.dir = Dir.reset ∧ s.m.rng = [] ∧ (∀ n, n < 8192 → s.m.rf n RingEF.ownerCtx ≠ c ∨ s.m.rf n RingEF.state = 0)) :=
  ⟨⟨st up, .sideband, 7, 0, 1280 * gib, by decide +kernel⟩,
    ⟨st up, .sideband, 7, false, true, 4095, by decide +kernel⟩,
    ⟨st (cap true false), .sideband, 0, true, false, 1, by decide +kernel⟩,
    ⟨st up, .sideband, 4095, by decide +kernel⟩,
    ⟨st up, .sideband, 4095, 7, 268435456, 268435456, 1, 256, 0, 2097152, by decide +kernel, by decide +kernel, by decide +kernel, by decide +kernel, by decide +kernel, by decide +kernel, by decide +kernel, by decide +kernel, by decide +kernel, by decide +kernel, by decide +kernel, by intro i d _ _ h; simp [st, up, srv, Mod.reset, Fab.reset, Mod.set, Mod.setAt, mapGet] at h⟩,
    ⟨st up, .sideband, 4095, 3, 67108864, 2097152, 2097152, by decide +kernel⟩,
    ⟨st (cap false false), 0, 0, 0, 268435456, 1, 256, 0, by decide +kernel⟩,
    ⟨st bare, .sideband, 3, by decide +kernel, by decide +kernel, by decide +kernel, by decide +kernel, by decide +kernel, by exact fun n _ => .inr (bare_rf n _)⟩⟩

theorem witness_PageHeaderCommandsChangeTheirPage :
    (∃ (s : State) (p : _), pageOk p = true ∧ s.m.runs = true ∧ capReset p.ty = true ∧ s.m.is p HdrF.enable = false ∧ s.m.blockState p = stOff) ∧
    (∃ (s : State) (p : _), pageOk p = true ∧ s.m.runs = true ∧ capReset p.ty = true ∧ s.m.is p HdrF.enable = true ∧ s.m.works p = true ∧ s.m.inFlight p = false) ∧
    (∃ (s : State) (p : _), pageOk p = true ∧ s.m.runs = true ∧ capReset p.ty = true ∧ s.m.is p HdrF.enable = true ∧ s.m.inFlight p = true) ∧
    (∃ (s : State) (p : _), pageOk p = true ∧ s.m.runs = true ∧ s.m.is p HdrF.enable = false ∧ s.m.works p = true ∧ s.m.inFlight p = false) ∧
    (∃ (s : State), s.m.runs = true) ∧
    (∃ (s : State) (p : _), pageOk p = true ∧ s.m.runs = true ∧ capLock p.ty = true) ∧
    (∃ (s : State) (p : _), pageOk p = true ∧ s.m.runs = true) ∧
    (∃ (s : State) (p : _), pageOk p = true ∧ s.m.barOpen = true) :=
  ⟨⟨st ((srv.set (pgLex 31) HdrF.state 0).set (pgLex 31) HdrF.enable 0), pgLex 31, by decide +kernel⟩,
    ⟨st srv, pgLex 31, by decide +kernel⟩,
    ⟨st { srv with lex := { srv.lex with running := [(31, ⟨5, true, 0, none, 0, [], 0⟩)] } }, pgLex 31, by decide +kernel⟩,
    ⟨st ((srv.set (pgMch 3) HdrF.state 1).set (pgMch 3) HdrF.enable 0), pgMch 3, by decide +kernel⟩,
    ⟨st srv, by decide +kernel⟩,
    ⟨st srv, pgMch 95, by decide +kernel⟩,
    ⟨st srv, pgMch 95, by decide +kernel⟩,
    ⟨st (up.set pgStw StwF.valid 1), pgMch 95, by decide +kernel⟩⟩

theorem witness_CounterGateOpensClosesAndSamples :
    (∃ (s : State), s.m.get pgPmu PmuF.startTick < s.m.get pgPmu PmuF.stopTick ∧ s.m.tick < s.m.get pgPmu PmuF.stopTick) ∧
    (∃ (s : State), (s.m.get pgPmu PmuF.stopTick ≤ s.m.get pgPmu PmuF.startTick ∨ s.m.get pgPmu PmuF.stopTick ≤ s.m.tick) ∧ bit (s.m.get pgPmu HdrF.errSev) 0 = false) ∧
    (∃ (s : State), s.m.get pgPmu PmuF.mode = 1 ∧ s.m.tick < s.m.get pgPmu PmuF.stopTick ∧ s.m.is pgPmu PmuF.open_ = false) ∧
    (∃ (s : State), s.m.get pgPmu PmuF.mode = 1 ∧ s.m.get pgPmu PmuF.startTick ≤ s.m.tick) ∧
    (∃ (s : State) (p : _) (n : _), pageOk p = true ∧ n < 4 ∧ p.ty ≠ .pmu ∧ p.ty ≠ .stw ∧ s.m.is pgPmu PmuF.open_ = true ∧ s.m.is p (evtEnable n) = true ∧ s.m.get p (evtEvent n) ≠ 0 ∧ s.m.get p (evtCount n) = 2 ^ 48 - 1) :=
  ⟨⟨st (srv.set pgPmu PmuF.stopTick 10), by decide +kernel⟩,
    ⟨st (srv.set pgPmu HdrF.errSev 0), by decide +kernel⟩,
    ⟨st (((srv.set pgPmu PmuF.stopTick 10).set pgPmu PmuF.mode 1).set pgPmu PmuF.open_ 0), by decide +kernel⟩,
    ⟨st (((srv.set pgPmu PmuF.stopTick 10).set pgPmu PmuF.mode 1).set pgPmu PmuF.open_ 0), by decide +kernel⟩,
    ⟨st (((((srv.set pgPmu PmuF.open_ 1)).set (pgMch 95) (evtEnable 3) 1).set (pgMch 95) (evtEvent 3) 9).set (pgMch 95) (evtCount 3) (2^48-1)), pgMch 95, 3, by decide +kernel⟩⟩

theorem witness_HostRequestsReadAndWriteTheirLine :
    (∃ (s : State) (src : HostSrc) (c : _) (hpa : _) (dpa : _) (hint : _) (cons : Option Nat) (x : _) (ep : _) (f : _), s.m.accepts src c ∧ s.m.target src c hpa = .at dpa hint cons ∧ s.m.checkReq src c (lineOf dpa * 64) = .ok x ep ∧ s.m.lineQuiet (lineOf dpa) ∧ s.m.lineAtHand (lineOf dpa) f) ∧
    (∃ (s : State) (src : HostSrc) (c : _) (hpa : _) (dpa : _) (hint : _) (cons : Option Nat) (x : _) (ep : _) (f : _), s.m.accepts src c ∧ s.m.target src c hpa = .at dpa hint cons ∧ s.m.checkReq src c (lineOf dpa * 64) = .ok x ep ∧ s.m.lineQuiet (lineOf dpa) ∧ s.m.lineAtHand (lineOf dpa) f) ∧
    (∃ (s : State) (src : HostSrc) (c : _) (hpa : _) (dpa : _) (hint : _) (cons : Option Nat) (x : _) (ep : _) (f : _), s.m.accepts src c ∧ s.m.target src c hpa = .at dpa hint cons ∧ s.m.checkReq src c (lineOf dpa * 64) = .ok x ep ∧ s.m.lineQuiet (lineOf dpa) ∧ s.m.lineAtHand (lineOf dpa) f) ∧
    (∃ (s : State) (src : HostSrc) (c : _) (hpa : _) (dpa : _) (hint : _) (cons : Option Nat) (x : _) (ep : _) (f : _), s.m.accepts src c ∧ s.m.target src c hpa = .at dpa hint cons ∧ s.m.checkReq src c (lineOf dpa * 64) = .ok x ep ∧ s.m.lineQuiet (lineOf dpa) ∧ s.m.lineAtHand (lineOf dpa) f) :=
  ⟨⟨st (cap false false), h0, 0, 0, 0, 0, (none : Option Nat), 0, 1, 5, by simp only [Mod.accepts]; decide +kernel, by decide +kernel, by decide +kernel, by simp only [Mod.lineQuiet]; decide +kernel, by simp only [Mod.lineAtHand]; decide +kernel⟩,
    ⟨st (cap false false), h0, 0, 0, 0, 0, (none : Option Nat), 0, 1, 5, by simp only [Mod.accepts]; decide +kernel, by decide +kernel, by decide +kernel, by simp only [Mod.lineQuiet]; decide +kernel, by simp only [Mod.lineAtHand]; decide +kernel⟩,
    ⟨st (cap false false), h0, 0, 0, 0, 0, (none : Option Nat), 0, 1, 5, by simp only [Mod.accepts]; decide +kernel, by decide +kernel, by decide +kernel, by simp only [Mod.lineQuiet]; decide +kernel, by simp only [Mod.lineAtHand]; decide +kernel⟩,
    ⟨st (cap false false), h0, 0, 0, 0, 0, (none : Option Nat), 0, 1, 5, by simp only [Mod.accepts]; decide +kernel, by decide +kernel, by decide +kernel, by simp only [Mod.lineQuiet]; decide +kernel, by simp only [Mod.lineAtHand]; decide +kernel⟩⟩

theorem witness_HostNoticesMoveTheDirectory :
    (∃ (s : State) (src : HostSrc) (c : _) (hpa : _) (dpa : _) (hint : _) (cons : Option Nat) (x : _) (ep : _), s.m.accepts src c ∧ s.m.target src c hpa = .at dpa hint cons ∧ s.m.checkReq src c dpa = .ok x ep) ∧
    (∃ (s : State) (port : _) (id : _) (c : _) (dpa : _) (x : Snoop), port < 96 ∧ s.m.runs = true ∧ s.m.hostRole port = true ∧ s.m.portUp port = true ∧ s.m.ctxOf { port := port, id := id, tag := 0, ideOk := true } = some c ∧ (s.m.dir.snoops.find? fun q => q.line = lineOf dpa && q.ctx = c && q.port = port) = some x ∧ (x.why = .wake ∨ x.why = .walk)) ∧
    (∃ (s : State) (port : _) (id : _) (c : _), port < 96 ∧ s.m.runs = true ∧ s.m.hostRole port = true ∧ s.m.portUp port = true ∧ s.m.ctxOf { port := port, id := id, tag := 0, ideOk := true } = some c) :=
  ⟨⟨st (cap false true), h0, 0, 0, 0, 0, (none : Option Nat), 0, 1, by simp only [Mod.accepts]; decide +kernel, by decide +kernel, by decide +kernel⟩,
    ⟨st { cap false true with dir := { up.dir with snoops := [⟨0, 0, true, 0, .wake, 0⟩] } }, 0, 0, 0, 0, (⟨0, 0, true, 0, .wake, 0⟩ : Snoop), by decide +kernel⟩,
    ⟨st (cap false true), 0, 0, 0, by decide +kernel⟩⟩

theorem witness_DueEventsOfLinesRun :
    (∃ (s : State) (slice : _) (r : Req) (src : HostSrc) (c : _) (x : _) (ep : _) (f : _), slice < 64 ∧ s.m.runs = true ∧ s.m.saving = false ∧ s.m.led.reqs = [r] ∧ r.wait = .ingress ∧ sliceOf r.line = slice ∧ r.who = .host src c ∧ r.mute = false ∧ r.op = .rdCur ∧ s.m.checkReq src c (r.line * 64) = .ok x ep ∧ s.m.stopHeld r.line = false ∧ s.m.dir.lost = [] ∧ s.m.entriesUsed slice < 1024 ∧ s.m.lineAtHand r.line f) ∧
    (∃ (s : State) (dpa : _) (r : Req) (src : HostSrc) (c : _) (f : _), s.m.runs = true ∧ s.m.saving = false ∧ s.m.led.reqs = [r] ∧ r.wait = .line ∧ r.line = lineOf dpa ∧ r.who = .host src c ∧ r.mute = false ∧ r.op = .rdCur ∧ s.m.stopHeld r.line = false ∧ s.m.dir.lost = [] ∧ s.m.lineAtHand r.line f) ∧
    (∃ (s : State) (dpa : _) (e : DirEnt), s.m.runs = true ∧ s.m.dirEnt (lineOf dpa) = some e ∧ e.tenure = true ∧ s.m.dir.wakePend = [] ∧ (∀ r, r ∈ s.m.led.reqs → r.line ≠ lineOf dpa)) ∧
    (∃ (s : State) (dpa : _) (ctx : _) (x : Snoop), s.m.runs = true ∧ (s.m.dir.snoops.find? fun q => q.line = lineOf dpa && q.ctx = ctx) = some x ∧ x.why = .wake ∧ bit (s.m.get (pgHsl (sliceOf (lineOf dpa))) HdrF.errSev) 8 = false) ∧
    (∃ (s : State) (slice : _) (x : LostSet), slice < 64 ∧ s.m.runs = true ∧ s.m.dir.lost = [x] ∧ x.slice = slice ∧ (∀ q, q ∈ s.m.dir.snoops → q.why = .walk → sliceOf q.line ≠ slice)) ∧
    (∃ (s : State) (slice : _), slice < 64 ∧ (∀ d, d ∈ s.m.dir.onDie ++ s.m.dir.inMem → ∀ e, e ∈ d.2 → sliceOf e.line = slice → sliceLine e.line ≠ s.m.get (pgHsl slice) HslF.probeLine)) ∧
    (∃ (s : State) (slice : _) (d : Nat × List DirEnt) (e : DirEnt), slice < 64 ∧ d ∈ s.m.dir.onDie ∧ e ∈ d.2 ∧ sliceOf e.line = slice ∧ sliceLine e.line = s.m.get (pgHsl slice) HslF.probeLine) :=
  ⟨⟨st { cap false false with led := { up.led with reqs := [⟨1, .host h0 0, 0, .rdCur, 0, none, none, .ingress, false⟩] } }, 0, (⟨1, .host h0 0, 0, .rdCur, 0, none, none, .ingress, false⟩ : Req), h0, 0, 0, 1, 5, by decide +kernel, by decide +kernel, by decide +kernel, by decide +kernel, by decide +kernel, by decide +kernel, by decide +kernel, by decide +kernel, by decide +kernel, by decide +kernel, by decide +kernel, by decide +kernel, by decide +kernel, by simp only [Mod.lineAtHand]; decide +kernel⟩,
    ⟨st { cap false false with led := { up.led with reqs := [⟨1, .host h0 0, 0, .rdCur, 0, none, none, .line, false⟩] } }, 0, (⟨1, .host h0 0, 0, .rdCur, 0, none, none, .line, false⟩ : Req), h0, 0, 5, by decide +kernel, by decide +kernel, by decide +kernel, by decide +kernel, by decide +kernel, by decide +kernel, by decide +kernel, by decide +kernel, by decide +kernel, by decide +kernel, by simp only [Mod.lineAtHand]; decide +kernel⟩,
    ⟨st { cap false true with dir := { up.dir with onDie := [(0, [⟨0, .owned 0, false, false, true, 99⟩])] } }, 0, (⟨0, .owned 0, false, false, true, 99⟩ : DirEnt), by decide +kernel⟩,
    ⟨st { cap false true with dir := { up.dir with snoops := [⟨0, 0, true, 0, .wake, 0⟩] } }, 0, 0, (⟨0, 0, true, 0, .wake, 0⟩ : Snoop), by decide +kernel⟩,
    ⟨st { cap false true with dir := { up.dir with lost := [⟨63, 5, 0, 0⟩] } }, 63, (⟨63, 5, 0, 0⟩ : LostSet), by decide +kernel⟩,
    ⟨st (cap false true), 63, by decide +kernel⟩,
    ⟨st { cap false true with dir := { up.dir with onDie := [(0, [⟨0, .owned 0, false, false, true, 99⟩])] } }, 0, ((0, [⟨0, .owned 0, false, false, true, 99⟩]) : Nat × List DirEnt), (⟨0, .owned 0, false, false, true, 99⟩ : DirEnt), by decide +kernel⟩⟩

theorem witness_WatchSetSetsTheWatchedLine :
    (∃ (s : State) (via : Via) (ctx : _) (dpa : _) (n : _) (e : _), s.m.mailbox via = true ∧ ctx < 4096 ∧ s.m.extAt dpa = some (n, e) ∧ dpa % 64 = 0 ∧ (s.m.extReg e).hdmDb = true ∧ s.m.granted ctx n = true) ∧
    (∃ (s : State) (via : Via) (ctx : _), s.m.mailbox via = true ∧ ctx < 4096) :=
  ⟨⟨st (cap false true), .sideband, 0, 2097088, 0, ext0, by decide +kernel⟩,
    ⟨st (cap false true), .sideband, 4095, by decide +kernel⟩⟩

theorem witness_WindowCommandsDefineAndDelete :
    (∃ (s : State) (via : Via) (e : WinEntry) (n : _) (x : _), s.m.mailbox via = true ∧ s.m.winShapeOk e = true ∧ mapGet s.m.led.wins e.id = none ∧ s.m.winExtent e = some (n, x) ∧ s.m.winClear e = true ∧ s.m.grp.map = none) ∧
    (∃ (s : State) (via : Via) (e : WinEntry), s.m.mailbox via = true ∧ s.m.winShapeOk e = false) ∧
    (∃ (s : State) (via : Via) (e : WinEntry) (w : _), s.m.mailbox via = true ∧ s.m.winShapeOk e = true ∧ mapGet s.m.led.wins e.id = some w) ∧
    (∃ (s : State) (via : Via) (e : WinEntry), s.m.mailbox via = true ∧ s.m.winShapeOk e = true ∧ mapGet s.m.led.wins e.id = none ∧ (s.m.winExtent e = none ∨ s.m.winClear e = false)) ∧
    (∃ (s : State) (via : Via) (w : _), s.m.mailbox via = true ∧ w < 32768 ∧ mapGet s.m.led.wins w = none) ∧
    (∃ (s : State) (via : Via) (w : _) (x : _), s.m.mailbox via = true ∧ w < 32768 ∧ mapGet s.m.led.wins w = some x ∧ x.st ≠ .deleting ∧ s.m.bgBusy via = false ∧ s.m.grp.map = none) ∧
    (∃ (s : State) (w : _) (x : Window), mapGet s.m.led.wins w = some x ∧ x.st = .deleting ∧ s.m.heldStops w = [] ∧ s.m.saving = false ∧ s.m.grp.map = none) :=
  ⟨⟨st (cap true false), .sideband, ({ dataBase := 4096, dataSize := 4096, stopDpa := 0, id := 0 } : WinEntry), 0, { ext0 with stripe := some 0 }, by decide +kernel⟩,
    ⟨st (cap true false), .sideband, ({ dataBase := 4096, dataSize := 4095, stopDpa := 0, id := 0 } : WinEntry), by decide +kernel⟩,
    ⟨st { cap true false with led := { up.led with wins := [(0, win0)] } }, .sideband, ({ dataBase := 8192, dataSize := 4096, stopDpa := 64, id := 0 } : WinEntry), win0, by decide +kernel⟩,
    ⟨st { cap true false with led := { up.led with wins := [(0, win0)] } }, .sideband, ({ dataBase := 4096, dataSize := 4096, stopDpa := 64, id := 1 } : WinEntry), by decide +kernel⟩,
    ⟨st (cap true false), .sideband, 32767, by decide +kernel⟩,
    ⟨st { cap true false with led := { up.led with wins := [(0, win0)] } }, .sideband, 0, win0, by decide +kernel⟩,
    ⟨st { cap true false with led := { up.led with wins := [(0, { win0 with st := .deleting })] }, mgmt := { up.mgmt with bg := [⟨.sideband, 0xC401, 0⟩] } }, 0, ({ win0 with st := .deleting } : Window), by decide +kernel⟩⟩

theorem witness_FullStopIsStagedAndApplied :
    (∃ (s : State) (w : _) (st : FullStop) (x : _) (n : _) (e : _), s.m.headStop w = some st ∧ mapGet s.m.led.wins w = some x ∧ st.step = .closing ∧ s.m.unprot w st.epoch = 0 ∧ s.m.fences = [] ∧ s.m.saving = false ∧ s.m.aux.reconciling = false ∧ s.m.runs = true ∧ s.m.extAt x.entry.stopDpa = some (n, e) ∧ e.adopted = none ∧ s.m.awayLine (lineOf x.entry.stopDpa) = false ∧ s.m.grp.map = none) ∧
    (∃ (s : State) (w : _) (st : FullStop) (x : _) (n : _) (e : _) (src : HostSrc) (c : _), s.m.heldStops w = [st] ∧ mapGet s.m.led.wins w = some x ∧ st.step = .staged ∧ st.owed = [] ∧ x.st = .open_ ∧ s.m.lineHeld (lineOf x.entry.stopDpa) = false ∧ s.m.fences = [] ∧ s.m.saving = false ∧ s.m.aux.reconciling = false ∧ s.m.runs = true ∧ s.m.extAt x.entry.stopDpa = some (n, e) ∧ e.adopted = none ∧ s.m.grp.map = none ∧ (s.m.fcGet (lineOf x.entry.stopDpa)).isSome = true ∧ (s.m.fcSet (lineOf x.entry.stopDpa)).length ≤ s.m.fcWays (lineOf x.entry.stopDpa) ∧ st.who = .host src c ∧ st.mute = false ∧ st.consumer = none) :=
  ⟨⟨st { cap true false with led := { up.led with wins := [(0, win0)], stops := [⟨0, .host h0 0, List.replicate 64 7#8, 2^64-1, false, .closing, 0, [], false, 0, none, false⟩] } }, 0, (⟨0, .host h0 0, List.replicate 64 7#8, 2^64-1, false, .closing, 0, [], false, 0, none, false⟩ : FullStop), win0, 0, { ext0 with stripe := some 0 }, by decide +kernel⟩,
    ⟨st { cap true false with led := { up.led with wins := [(0, win0)], stops := [⟨0, .host h0 0, List.replicate 64 7#8, 2^64-1, false, .staged, 0, [], false, 0, none, false⟩] } }, 0, (⟨0, .host h0 0, List.replicate 64 7#8, 2^64-1, false, .staged, 0, [], false, 0, none, false⟩ : FullStop), win0, 0, { ext0 with stripe := some 0 }, h0, 0, by decide +kernel⟩⟩

theorem witness_GlobalPersistentFlushStartsASave :
    (∃ (s : State) (port : _), port < 96 ∧ s.m.runs = true ∧ s.m.hostRole port = true ∧ s.m.portUp port = true) ∧
    (∃ (s : State) (port : _), port < 96 ∧ s.m.runs = true ∧ s.m.hostRole port = true ∧ s.m.portUp port = true ∧ s.m.vlt.save = none ∧ s.m.restored = true ∧ s.m.glb.tampered = false) :=
  ⟨⟨st up, 0, by decide +kernel⟩,
    ⟨st up, 0, by decide +kernel⟩⟩

theorem witness_MapMessagesAreAnsweredAndCounted :
    (∃ (s : State) (term : _) (map : GMap) (g : GMap), s.m.runs = true ∧ s.m.grp.map = some g ∧ s.m.holdsMap map = false ∧ s.m.grp.highTerm ≤ term ∧ s.m.acceptedOther term g.gen map = false ∧ map.dissolve = false) ∧
    (∃ (s : State) (frm : _) (tag : _) (p : Proposal), s.m.runs = true ∧ s.m.grp.prop = some p ∧ (frm, tag) ∈ p.tags ∧ p.first = none ∧ enough s.m.grp.map { p with tags := p.tags.filter fun e => e != (frm, tag), acks := p.acks ++ [frm] } = false) ∧
    (∃ (s : State) (gen : _), s.m.runs = true ∧ s.m.mapGen < gen ∧ s.m.grp.accepted = none) ∧
    (∃ (s : State) (gen : _), s.m.runs = true ∧ gen ≤ s.m.mapGen) ∧
    (∃ (s : State) (g : GMap), s.m.runs = true ∧ s.m.grp.map = some g) ∧
    (∃ (s : State) (g : GMap), s.m.runs = true ∧ s.m.grp.map = some g ∧ g.keeper = s.m.own ∧ g.restripe = false ∧ s.m.fences = [] ∧ s.m.aux.reconciling = false ∧ s.m.aux.queue = []) ∧
    (∃ (s : State) (term : _), s.m.runs = true ∧ s.m.grp.highTerm ≤ term ∧ s.m.openAccepted = none) ∧
    (∃ (s : State) (frm : _) (tag : _) (g : GMap) (c : Claim), s.m.runs = true ∧ s.m.grp.map = some g ∧ s.m.grp.claim = some c ∧ (∀ e, e ∈ c.got → e.1 ≠ frm) ∧ ((s.m.bundle (s.m.idOf frm)).reqs.any fun r => r.tag = tag) = true ∧ 2 * (c.got.length + 1) ≤ g.n) :=
  ⟨⟨st (grpd map3 2), 1, { map3 with gen := 4, keeper := 1 }, map3, by decide +kernel⟩,
    ⟨st { grpd map3 1 with grp := { (grpd map3 1).grp with prop := some ⟨{ map3 with gen := 4 }, .mark 2 3, [], [(1, 5), (2, 6)], none, 0⟩ } }, 1, 5, (⟨{ map3 with gen := 4 }, .mark 2 3, [], [(1, 5), (2, 6)], none, 0⟩ : Proposal), by decide +kernel⟩,
    ⟨st (grpd map3 2), 4, by decide +kernel⟩,
    ⟨st (grpd map3 2), 3, by decide +kernel⟩,
    ⟨st (grpd map3 2), map3, by decide +kernel⟩,
    ⟨st (grpd map3 1), map3, by decide +kernel⟩,
    ⟨st (grpd map3 2), 2, by decide +kernel⟩,
    ⟨st { grpd map3 2 with grp := { (grpd map3 2).grp with claim := some ⟨2, [], .sideband⟩ }, bfl := { up.bfl with bundles := [(3, { Bundle.empty with reqs := [⟨5, ⟨2, 0, 0, 0, 0, 0, []⟩⟩] })] } }, 2, 5, map3, (⟨2, [], .sideband⟩ : Claim), by decide +kernel⟩⟩

theorem witness_GroupReportsAndTimeoutsMark :
    (∃ (s : State), s.m.runs = true) ∧
    (∃ (s : State) (frm : _) (tag : _) (seg : _) (count : _) (a : StageAsk), s.m.runs = true ∧ s.m.grp.ask = some a ∧ (frm, tag) ∈ a.left ∧ (a.segs.any fun e => e.1 = frm && e.2.1 = seg) = false ∧ (a.segs.filter fun e => e.1 = frm).length + 1 < count) ∧
    (∃ (s : State) (g : GMap) (a : StageAsk) (st : _) (y : _) (tag : _), s.m.runs = true ∧ s.m.grp.map = some g ∧ s.m.grp.ask = some a ∧ a.marks = [(a.cur, st)] ∧ a.left = [(y, tag)] ∧ y ≠ a.cur ∧ takesDeltas (g.stOf y) = true) ∧
    (∃ (s : State) (x : _) (p : Proposal) (g : GMap), s.m.runs = true ∧ s.m.grp.map = some g ∧ g.keeper = s.m.own ∧ s.m.grp.prop = some p ∧ s.m.get pgGrp GrpF.lossMs ≠ 0 ∧ takesDeltas (g.stOf x) = true ∧ .mark x mbStale ∉ s.m.aux.queue ∧ p.req ≠ .mark x mbStale ∧ s.m.grp.ask = none) ∧
    (∃ (s : State) (x : _) (g : GMap) (t0 : _), s.m.runs = true ∧ s.m.grp.map = some g ∧ mapGet s.m.grp.downAt x = some t0 ∧ s.m.get pgGrp GrpF.lossMs ≠ 0 ∧ s.m.reaches x = false ∧ x < g.n ∧ g.stOf x ≠ mbLost ∧ g.keeper ≠ s.m.own) ∧
    (∃ (s : State) (g : GMap) (t0 : _), s.m.runs = true ∧ s.m.grp.map = some g ∧ s.m.get pgGrp GrpF.lossMs ≠ 0 ∧ s.m.majority = false ∧ .quorum ∉ s.m.fences ∧ s.m.majorityLostAt g = some t0 ∧ bit (s.m.get pgGrp HdrF.errSev) 10 = false ∧ bit (s.m.get pgGrp HdrF.errSev) 11 = false) :=
  ⟨⟨st (grpd map3 2), by decide +kernel⟩,
    ⟨st { grpd map3 1 with grp := { (grpd map3 1).grp with ask := some ⟨.mark 2 3, [(2, 3)], 2, [(1, 5)], [], [], 0⟩ } }, 1, 5, 0, 2, (⟨.mark 2 3, [(2, 3)], 2, [(1, 5)], [], [], 0⟩ : StageAsk), by decide +kernel⟩,
    ⟨st { grpd map3 1 with grp := { (grpd map3 1).grp with ask := some ⟨.mark 2 3, [(2, 3)], 2, [(1, 5)], [], [], 0⟩ } }, map3, (⟨.mark 2 3, [(2, 3)], 2, [(1, 5)], [], [], 0⟩ : StageAsk), 3, 1, 5, by decide +kernel⟩,
    ⟨st { (grpd map3 1).set pgGrp GrpF.lossMs 10 with grp := { (grpd map3 1).grp with prop := some ⟨{ map3 with gen := 4 }, .mark 2 3, [], [(1, 5), (2, 6)], none, 0⟩ } }, 2, (⟨{ map3 with gen := 4 }, .mark 2 3, [], [(1, 5), (2, 6)], none, 0⟩ : Proposal), map3, by decide +kernel⟩,
    ⟨st { (grpd map3 2).set pgGrp GrpF.lossMs 10 with grp := { (grpd map3 2).grp with downAt := [(2, 0)] } }, 2, map3, 0, by decide +kernel⟩,
    ⟨st { ((grpd map3 2).set pgGrp GrpF.lossMs 10).set pgGrp HdrF.errSev 0 with grp := { (grpd map3 2).grp with downAt := [(0, 0), (2, 0)] } }, map3, 0, by decide +kernel⟩⟩

theorem witness_BouncedMessagesAndMirrorsAreKept :
    (∃ (s : State) (frm : _) (bseq : _) (gen : _) (g : Msg), s.m.runs = true ∧ mapGet (s.m.bundle (s.m.idOf frm)).sent bseq = some g ∧ g.cls ≠ 2 ∧ s.m.mapGen < gen ∧ (∀ e, e ∈ (s.m.bundle (s.m.idOf frm)).bounced → e.2.1 = false)) ∧
    (∃ (s : State) (frm : _) (bseq : _) (gen : _) (g : Msg), s.m.runs = true ∧ mapGet (s.m.bundle (s.m.idOf frm)).sent bseq = some g ∧ g.cls ≠ 2 ∧ gen ≤ s.m.mapGen) ∧
    (∃ (s : State) (frm : _) (bseq : _) (e : Nat × Bool × Msg), s.m.runs = true ∧ ((s.m.bundle (s.m.idOf frm)).bounced.find? fun e => e.1 = bseq && !e.2.1) = some e) ∧
    (∃ (s : State) (owner : _), s.m.runs = true ∧ owner ≠ s.m.own) ∧
    (∃ (s : State) (frm : _) (tag : _) (w : MirrorWait), s.m.runs = true ∧ s.m.led.mirrorWaits = [w] ∧ w.left = [(frm, tag)] ∧ w.del = false) :=
  ⟨⟨st { grpd map3 2 with bfl := { up.bfl with bundles := [(1, { Bundle.empty with sent := [(9, ⟨0, 0, 0, 0, 0, 0, []⟩)] })] } }, 0, 9, 4, (⟨0, 0, 0, 0, 0, 0, []⟩ : Msg), by decide +kernel⟩,
    ⟨st { grpd map3 2 with bfl := { up.bfl with bundles := [(1, { Bundle.empty with sent := [(9, ⟨0, 0, 0, 0, 0, 0, []⟩)] })] } }, 0, 9, 3, (⟨0, 0, 0, 0, 0, 0, []⟩ : Msg), by decide +kernel⟩,
    ⟨st { grpd map3 2 with bfl := { up.bfl with bundles := [(1, { Bundle.empty with bounced := [(9, false, ⟨0, 0, 0, 0, 0, 0, []⟩)] })] } }, 0, 9, ((9, false, ⟨0, 0, 0, 0, 0, 0, []⟩) : Nat × Bool × Msg), by decide +kernel⟩,
    ⟨st (grpd map3 2), 0, by decide +kernel⟩,
    ⟨st { grpd map3 2 with led := { up.led with wins := [(0, win0)], mirrorWaits := [⟨.sideband, 0, false, [(0, 5)]⟩] } }, 0, 5, (⟨.sideband, 0, false, [(0, 5)]⟩ : MirrorWait), by decide +kernel⟩⟩

theorem witness_HoldsAndReadsAreAnswered :
    (∃ (s : State) (frm : _) (tag : _) (stripe : _) (line : _) (g : GMap) (j : _) (u : _), s.m.runs = true ∧ s.m.grp.map = some g ∧ line < 64 ∧ s.m.holdRefused g stripe line = none ∧ (s.m.heldUnits g stripe).1 = some (j, u) ∧ s.m.led.holds = [] ∧ s.m.grp.recons = [] ∧ frm ≠ s.m.own ∧ s.m.holdOwed g { requester := frm, stripe := stripe, line := line, answer := some tag } = false) ∧
    (∃ (s : State), s.m.runs = true) ∧
    (∃ (s : State) (unit : _) (g : GMap), s.m.runs = true ∧ s.m.grp.map = some g ∧ keyStore unit = 0 ∧ keyStripe unit < (g.units + g.k - 1) / g.k * g.m ∧ s.m.parityGone g (geoBy g 0) s.m.own (keyStripe unit) = false) ∧
    (∃ (s : State) (frm : _) (tag : _) (g : GMap) (r : Recon) (j : _) (o : _), s.m.runs = true ∧ s.m.grp.map = some g ∧ g.restripe = false ∧ s.m.grp.walk = none ∧ s.m.aux.step = none ∧ s.m.aux.reconciling = false ∧ s.m.grp.recons = [r] ∧ r.out = [(frm, tag, j), o] ∧ o ≠ (frm, tag, j) ∧ j ≠ r.want ∧ (∀ e, e ∈ r.got → e.1 ≠ r.want)) :=
  ⟨⟨st (grpd map3 2), 0, 5, 0, 63, map3, 1, 1, by decide +kernel⟩,
    ⟨st (grpd map3 2), by decide +kernel⟩,
    ⟨st (grpd map3 2), 0, map3, by decide +kernel⟩,
    ⟨st { grpd map3 2 with grp := { (grpd map3 2).grp with recons := [⟨0, 0, 3, .line 0, 0, [], [(0, 5, 1), (2, 6, 2)], [], true, []⟩] } }, 0, 5, map3, (⟨0, 0, 3, .line 0, 0, [], [(0, 5, 1), (2, 6, 2)], [], true, []⟩ : Recon), 1, (2, 6, 2), by decide +kernel⟩⟩

theorem witness_WalkStepsAdvanceAndAnswer :
    (∃ (s : State) (frm : _) (g : GMap), s.m.runs = true ∧ s.m.grp.map = some g ∧ g.stOf frm = mbRebuilding ∧ g.keeper ≠ s.m.own) ∧
    (∃ (s : State) (frm : _) (tag : _) (w : Walk) (o : _), s.m.runs = true ∧ s.m.grp.walk = some w ∧ w.left = [(frm, tag), o] ∧ o ≠ (frm, tag)) ∧
    (∃ (s : State) (frm : _) (b : _) (g : GMap), s.m.runs = true ∧ s.m.grp.map = some g ∧ g.restripe = true ∧ g.keeper = frm ∧ b ≤ g.units ∧ s.m.aux.restripeB < b ∧ 0 < g.tk ∧ s.m.stepStripes g b ≠ []) ∧
    (∃ (s : State) (frm : _) (tag : _) (o : _), s.m.runs = true ∧ s.m.aux.stepLeft = [(frm, tag), o] ∧ o ≠ (frm, tag)) ∧
    (∃ (s : State) (g : GMap) (w : Walk) (x : _), s.m.runs = true ∧ s.m.aux.reconciling = false ∧ s.m.grp.map = some g ∧ s.m.grp.walk = some w ∧ w.kind = .rebuild ∧ w.stepping = false ∧ w.asked = [] ∧ s.m.aux.parityRuns = [] ∧ x < g.n ∧ x ≠ s.m.own ∧ g.stOf x ≠ mbLost ∧ (∀ e, e ∈ s.m.walkStripes g w → ∃ j u, s.m.walkUnit g w (keyStore (stripeKey e.1 e.2)) (keyStripe (stripeKey e.1 e.2)) = some (j, u) ∧ ∀ n, n < 64 → s.m.lineOfUnit u n = none ∧ (walkLineOf g w (stripeKey e.1 e.2) j n).isSome = true)) ∧
    (∃ (s : State) (g : GMap) (w : Walk) (x : _), s.m.runs = true ∧ s.m.aux.reconciling = false ∧ s.m.grp.map = some g ∧ s.m.grp.walk = some w ∧ w.kind = .resync ∧ w.stepping = false ∧ w.asked = [] ∧ s.m.walkStripes g w = [] ∧ x < g.n ∧ x ≠ s.m.own ∧ g.stOf x ≠ mbLost) :=
  ⟨⟨st (grpd { map3 with members := [⟨1, 1, none, 0⟩, ⟨2, 1, none, 0⟩, ⟨3, 4, none, 0⟩] } 2), 2, { map3 with members := [⟨1, 1, none, 0⟩, ⟨2, 1, none, 0⟩, ⟨3, 4, none, 0⟩] }, by decide +kernel⟩,
    ⟨st { grpd map3 2 with grp := { (grpd map3 2).grp with walk := some ⟨.rebuild, 0, [(0, 5), (2, 6)], true, false, false, [], [], [], []⟩ } }, 0, 5, (⟨.rebuild, 0, [(0, 5), (2, 6)], true, false, false, [], [], [], []⟩ : Walk), (2, 6), by decide +kernel⟩,
    ⟨st (grpd { map3 with restripe := true, tk := 2, tm := 1 } 2), 0, 2, { map3 with restripe := true, tk := 2, tm := 1 }, by decide +kernel⟩,
    ⟨st { grpd map3 1 with aux := { up.aux with stepLeft := [(1, 5), (2, 6)] } }, 1, 5, (2, 6), by decide +kernel⟩,
    ⟨st { grpd { map3 with units := 2, members := [⟨1, 1, none, 0⟩, ⟨2, 4, none, 0⟩, ⟨3, 1, none, 0⟩] } 2 with grp := { (grpd { map3 with units := 2, members := [⟨1, 1, none, 0⟩, ⟨2, 4, none, 0⟩, ⟨3, 1, none, 0⟩] } 2).grp with walk := some ⟨.rebuild, 0, [], false, false, false, (upto 3).flatMap fun s => (upto 3).map fun j => (s, j, 255, []), [], [], []⟩ } }, { map3 with units := 2, members := [⟨1, 1, none, 0⟩, ⟨2, 4, none, 0⟩, ⟨3, 1, none, 0⟩] }, (⟨.rebuild, 0, [], false, false, false, (upto 3).flatMap fun s => (upto 3).map fun j => (s, j, 255, []), [], [], []⟩ : Walk), 0, by decide +kernel, by decide +kernel, by decide +kernel, by decide +kernel, by decide +kernel, by decide +kernel, by decide +kernel, by decide +kernel, by decide +kernel, by decide +kernel, by decide +kernel, by intro e he; have h : e ∈ [(0, 0), (0, 1), (0, 2)] := by { revert he; revert e; decide +kernel }; simp only [List.mem_cons, List.not_mem_nil, or_false] at h; rcases h with rfl | rfl | rfl; exact ⟨1, 1, by decide +kernel⟩; exact ⟨0, 0, by decide +kernel⟩; exact ⟨2, 0, by decide +kernel⟩⟩,
    ⟨st { grpd { map3 with members := [⟨1, 1, none, 0⟩, ⟨2, 5, none, 0⟩, ⟨3, 1, none, 0⟩] } 2 with grp := { (grpd { map3 with members := [⟨1, 1, none, 0⟩, ⟨2, 5, none, 0⟩, ⟨3, 1, none, 0⟩] } 2).grp with walk := some ⟨.resync, 1024, [], false, false, true, [], [], [], []⟩ } }, { map3 with members := [⟨1, 1, none, 0⟩, ⟨2, 5, none, 0⟩, ⟨3, 1, none, 0⟩] }, (⟨.resync, 1024, [], false, false, true, [], [], [], []⟩ : Walk), 0, by decide +kernel⟩⟩

theorem witness_DeltasFoldStageAndCommit :
    (∃ (s : State) (frm : _) (dseq : _) (line : _) (standin : _) (g : GMap) (q : Geo) (u : _) (f : _) (n : _), s.m.runs = true ∧ s.m.grp.map = some g ∧ q.store = 0 ∧ s.m.deltaUnit g frm line standin = some (q, u) ∧ (s.m.pairIn frm).seen (nearestSeq (s.m.pairIn frm).a dseq) = .fresh ∧ s.m.parityGone g q s.m.own u = false ∧ s.m.parityAtHand (u * 64 + line % 64) f n) ∧
    (∃ (s : State) (frm : _) (dseq : _) (line : _) (standin : _) (g : GMap) (q : Geo) (u : _), s.m.runs = true ∧ s.m.grp.map = some g ∧ s.m.deltaUnit g frm line standin = some (q, u) ∧ (s.m.pairIn frm).seen (nearestSeq (s.m.pairIn frm).a dseq) = .fresh) ∧
    (∃ (s : State) (frm : _) (dseq : _) (line : _) (standin : _) (g : GMap) (q : Geo) (u : _) (f : _) (n : _) (st : Stage), s.m.runs = true ∧ s.m.grp.map = some g ∧ q.store = 0 ∧ s.m.deltaUnit g frm line standin = some (q, u) ∧ (s.m.pairIn frm).seen (nearestSeq (s.m.pairIn frm).a dseq) = .fresh ∧ s.m.parityGone g q s.m.own u = false ∧ s.m.parityAtHand (u * 64 + line % 64) f n ∧ ((s.m.pairIn frm).stages.find? fun x => x.key = lineField line standin) = some st) ∧
    (∃ (s : State) (x : _) (g : GMap) (n : _) (r : List Nat), s.m.runs = true ∧ s.m.grp.map = some g ∧ ((s.m.bundlePorts (s.m.idOf x)).filter fun n => s.m.bState n = bsUp) = n :: r ∧ (s.m.pairIn x).a ≠ (s.m.pairIn x).sentA ∧ s.m.gcm n = false) :=
  ⟨⟨st { grpd map3 3 with aux := { up.aux with parityRuns := [⟨960, 960, []⟩] }, key := { up.key with nodes := [(nodeSlice 960, [(960, false)])] } }, 0, 0, 0, false, map3, (⟨3, 2, 1, 0⟩ : Geo), 0, 960, 0, by decide +kernel, by decide +kernel, by decide +kernel, by decide +kernel, by decide +kernel, by decide +kernel, by simp only [Mod.parityAtHand]; decide +kernel⟩,
    ⟨st { grpd map3 3 with aux := { up.aux with parityRuns := [⟨960, 960, []⟩] } }, 0, 0, 0, false, map3, (⟨3, 2, 1, 0⟩ : Geo), 0, by decide +kernel⟩,
    ⟨st { grpd map3 3 with grp := { (grpd map3 3).grp with ins := [(0, { PairIn.start with stages := [⟨0, 0, List.replicate 64 7#8⟩] })] }, aux := { up.aux with parityRuns := [⟨960, 960, []⟩] }, key := { up.key with nodes := [(nodeSlice 960, [(960, false)])] } }, 0, 1, 0, false, map3, (⟨3, 2, 1, 0⟩ : Geo), 0, 960, 0, (⟨0, 0, List.replicate 64 7#8⟩ : Stage), by decide +kernel, by decide +kernel, by decide +kernel, by decide +kernel, by decide +kernel, by decide +kernel, by simp only [Mod.parityAtHand]; decide +kernel, by decide +kernel⟩,
    ⟨st { (grpd map3 2).set (pgPrt 8) PrtF.peerState 3 with grp := { (grpd map3 2).grp with ins := [(0, { PairIn.start with a := 4 })] }, bfl := { up.bfl with ports := [(8, { (Mod.reset.pp 8) with peer := some 1 })] } }, 0, map3, 8, ([] : List Nat), by decide +kernel⟩⟩

theorem witness_GroupCommandsAreKeptOrForwarded :
    (∃ (s : State) (via : Via) (map : GMap) (own : _), s.m.mailbox via = true ∧ s.m.grp.map = none ∧ formOk map own = true ∧ s.m.extentsFit map.units = true ∧ s.m.grp.form = none ∧ s.m.grp.prop = none ∧ s.m.aux.heldPropose = none ∧ own ≠ 0) ∧
    (∃ (s : State) (via : Via) (x : _) (g : GMap), s.m.mailbox via = true ∧ s.m.grp.map = some g ∧ x < g.n ∧ g.stOf x ≠ mbLost ∧ g.keeper ≠ s.m.own ∧ s.m.reaches g.keeper = true) ∧
    (∃ (s : State) (via : Via) (x : _) (g : GMap) (p : Proposal), s.m.mailbox via = true ∧ s.m.grp.map = some g ∧ x < g.n ∧ g.stOf x ≠ mbLost ∧ g.keeper = s.m.own ∧ s.m.grp.prop = some p ∧ p.req ≠ .mark x mbLost ∧ .mark x mbLost ∉ s.m.aux.queue ∧ s.m.grp.ask = none) ∧
    (∃ (s : State) (via : Via) (lost : _) (b : _) (g : GMap), s.m.mailbox via = true ∧ s.m.grp.map = some g ∧ lost < g.n ∧ b < g.n ∧ g.stOf lost = mbLost ∧ g.stOf b = mbActive ∧ g.standsFor b = none ∧ (g.members[lost]?).bind Member.standin ≠ some b ∧ g.keeper ≠ s.m.own ∧ s.m.reaches g.keeper = true) ∧
    (∃ (s : State) (via : Via) (lost : _) (g : GMap), s.m.mailbox via = true ∧ s.m.grp.map = some g ∧ (g.members[lost]?).bind Member.standin = some s.m.own ∧ g.stOf lost = mbActive) ∧
    (∃ (s : State) (via : Via) (lost : _) (g : GMap), s.m.runs = true ∧ s.m.grp.map = some g ∧ s.m.grp.clearing = some (via, lost) ∧ (∀ st, st ∈ s.m.led.stops → st.win < 16384) ∧ (∀ o d, o ∈ s.m.grp.outs → d ∈ o.2.unacked → d.standin = false) ∧ g.keeper ≠ s.m.own) ∧
    (∃ (s : State) (via : Via) (x : _) (id : _) (g : GMap), s.m.mailbox via = true ∧ s.m.grp.map = some g ∧ x < g.n ∧ g.stOf x = mbLost ∧ id ≠ 0 ∧ id < 0xFFFF ∧ (∀ y, y ∈ g.members → y.id ≠ id) ∧ g.keeper ≠ s.m.own ∧ s.m.reaches g.keeper = true) ∧
    (∃ (s : State) (via : Via) (k : _) (mm : _) (g : GMap) (rs : _), s.m.mailbox via = true ∧ s.m.grp.map = some g ∧ 2 ≤ k ∧ k ≤ 14 ∧ 1 ≤ mm ∧ mm ≤ 4 ∧ k + mm ≤ g.n ∧ g.restripe = false ∧ (∀ y, y ∈ g.members → y.st ≠ mbStale ∧ y.st ≠ mbLost) ∧ s.m.allocRuns (parityUnits g.units k mm) = some rs ∧ g.keeper ≠ s.m.own ∧ s.m.reaches g.keeper = true) ∧
    (∃ (s : State) (via : Via) (g : GMap), s.m.mailbox via = true ∧ s.m.grp.map = some g ∧ g.stOf s.m.own = mbActive) ∧
    (∃ (s : State) (via : Via) (g : GMap), s.m.mailbox via = true ∧ s.m.grp.map = some g ∧ s.m.durables = [] ∧ g.keeper ≠ s.m.own ∧ s.m.reaches g.keeper = true) ∧
    (∃ (s : State) (via : Via) (map : GMap) (t0 : _), s.m.runs = true ∧ s.m.grp.map = none ∧ s.m.grp.form = some (via, map, t0)) ∧
    (∃ (s : State) (p : Proposal) (via : Via), s.m.runs = true ∧ s.m.grp.prop = some p ∧ p.req = .dissolve ∧ s.m.aux.queue = [] ∧ s.m.aux.waits = [(via, .dissolve)]) :=
  ⟨⟨st srv, .sideband, { map3 with gen := 1 }, 1, by decide +kernel⟩,
    ⟨st { (grpd map3 2).set (pgPrt 8) PrtF.peerState 3 with bfl := { up.bfl with ports := [(8, { Mod.reset.pp 8 with peer := some 1 })] } }, .sideband, 2, map3, by decide +kernel⟩,
    ⟨st { grpd map3 1 with grp := { (grpd map3 1).grp with prop := some ⟨{ map3 with gen := 4 }, .restriped, [], [(1, 5), (2, 6)], none, 0⟩ } }, .sideband, 2, map3, (⟨{ map3 with gen := 4 }, .restriped, [], [(1, 5), (2, 6)], none, 0⟩ : Proposal), by decide +kernel⟩,
    ⟨st { (grpd { map3 with members := [⟨1, 1, none, 0⟩, ⟨2, 1, none, 0⟩, ⟨3, 3, none, 0⟩] } 2).set (pgPrt 8) PrtF.peerState 3 with bfl := { up.bfl with ports := [(8, { Mod.reset.pp 8 with peer := some 1 })] } }, .sideband, 2, 1, { map3 with members := [⟨1, 1, none, 0⟩, ⟨2, 1, none, 0⟩, ⟨3, 3, none, 0⟩] }, by decide +kernel⟩,
    ⟨st (grpd { map3 with members := [⟨1, 1, none, 0⟩, ⟨2, 1, none, 0⟩, ⟨3, 1, some 1, 0⟩] } 2), .sideband, 2, { map3 with members := [⟨1, 1, none, 0⟩, ⟨2, 1, none, 0⟩, ⟨3, 1, some 1, 0⟩] }, by decide +kernel⟩,
    ⟨st { grpd { map3 with members := [⟨1, 1, none, 0⟩, ⟨2, 1, none, 0⟩, ⟨3, 1, some 1, 0⟩] } 2 with grp := { (grpd { map3 with members := [⟨1, 1, none, 0⟩, ⟨2, 1, none, 0⟩, ⟨3, 1, some 1, 0⟩] } 2).grp with clearing := some (.sideband, 2) } }, Via.sideband, 2, { map3 with members := [⟨1, 1, none, 0⟩, ⟨2, 1, none, 0⟩, ⟨3, 1, some 1, 0⟩] }, by decide +kernel, by decide +kernel, by decide +kernel, by decide +kernel, by intro o d ho; exact absurd ho List.not_mem_nil, by decide +kernel⟩,
    ⟨st { (grpd { map3 with members := [⟨1, 1, none, 0⟩, ⟨2, 1, none, 0⟩, ⟨3, 3, none, 0⟩] } 2).set (pgPrt 8) PrtF.peerState 3 with bfl := { up.bfl with ports := [(8, { Mod.reset.pp 8 with peer := some 1 })] } }, .sideband, 2, 9, { map3 with members := [⟨1, 1, none, 0⟩, ⟨2, 1, none, 0⟩, ⟨3, 3, none, 0⟩] }, by decide +kernel⟩,
    ⟨st { (grpd { map3 with units := 2 } 2).set (pgPrt 8) PrtF.peerState 3 with bfl := { up.bfl with ports := [(8, { Mod.reset.pp 8 with peer := some 1 })] } }, .sideband, 2, 1, { map3 with units := 2 }, (((grpd { map3 with units := 2 } 2).allocRuns (parityUnits 2 2 1)).getD []), by decide +kernel⟩,
    ⟨st (grpd map3 2), .sideband, map3, by decide +kernel⟩,
    ⟨st { (grpd map3 2).set (pgPrt 8) PrtF.peerState 3 with bfl := { up.bfl with ports := [(8, { Mod.reset.pp 8 with peer := some 1 })] } }, .sideband, map3, by decide +kernel⟩,
    ⟨st { srv with grp := { srv.grp with form := some (.sideband, { map3 with gen := 1 }, 0) } }, Via.sideband, { map3 with gen := 1 }, 0, by decide +kernel⟩,
    ⟨st { grpd map3 1 with grp := { (grpd map3 1).grp with prop := some ⟨{ map3 with gen := 4, dissolve := true }, .dissolve, [], [(1, 5), (2, 6)], none, 0⟩ }, aux := { up.aux with waits := [(.sideband, .dissolve)] } }, (⟨{ map3 with gen := 4, dissolve := true }, .dissolve, [], [(1, 5), (2, 6)], none, 0⟩ : Proposal), Via.sideband, by decide +kernel⟩⟩

theorem witness_BerfelFramesAreReceived :
    (∃ (s : State) (n : _) (raw : List Byte) (bs : List Byte) (w : _), s.m.hearsFrame n tyData raw bs w ∧ s.m.ackCount n w = 0 ∧ bit w 42 = false ∧ s.m.bState n = bsUp ∧ s.m.gcm n = false ∧ bits w 0 20 = s.m.get (pgPrt n) PrtF.peerRxNext ∧ ((s.m.pp n).partial_ ++ slice bs 8 (bits w 52 8)).length < 16) ∧
    (∃ (s : State) (n : _) (raw : List Byte) (bs : List Byte) (w : _), s.m.hearsFrame n tyCtl raw bs w ∧ s.m.ackCount n w = 0 ∧ bit w 42 = false ∧ s.m.gcm n = false) ∧
    (∃ (s : State) (n : _) (raw : List Byte) (bs : List Byte) (w : _), s.m.hearsFrame n tyIdle raw bs w ∧ 0 < s.m.ackCount n w ∧ s.m.ackCount n w ≤ (s.m.pp n).frames.length ∧ bit w 42 = false ∧ (∀ f, f ∈ (s.m.pp n).frames → f.puts = [])) ∧
    (∃ (s : State) (n : _) (raw : List Byte) (bs : List Byte) (w : _), s.m.hearsFrame n tyMark raw bs w ∧ s.m.ackCount n w = 0 ∧ s.m.bState n = bsRetraining ∧ (s.m.pp n).frames = []) :=
  ⟨⟨st (((peer8 3).set (pgPrt 8) PrtF.peerRxNext 0).set (pgPrt 8) PrtF.peerTxOldest 1), 8, data8, data8, 0, by unfold Mod.hearsFrame; decide +kernel, by decide +kernel, by decide +kernel, by decide +kernel, by decide +kernel, by decide +kernel, by decide +kernel⟩,
    ⟨st (((peer8 3).set (pgPrt 8) PrtF.peerRxNext 0).set (pgPrt 8) PrtF.peerTxOldest 1), 8, ctl8, ctl8, 1099511627776, by unfold Mod.hearsFrame; decide +kernel, by decide +kernel, by decide +kernel, by decide +kernel⟩,
    ⟨st { peer8 3 with bfl := { up.bfl with ports := [(8, { Mod.reset.pp 8 with peer := some 1, frames := [⟨0, 0, 0, 0, [], [], []⟩] })] } }, 8, idle8, idle8, 2199023255552, by unfold Mod.hearsFrame; decide +kernel, by decide +kernel, by decide +kernel, by decide +kernel, by decide +kernel⟩,
    ⟨st ((peer8 4).set (pgPrt 8) PrtF.peerTxOldest 1), 8, mark8, mark8, 3298534883328, by unfold Mod.hearsFrame; decide +kernel, by decide +kernel, by decide +kernel, by decide +kernel⟩⟩

theorem witness_BerfelFramesAreSent :
    (∃ (s : State) (n : _) (id : _) (g : Msg), n < 96 ∧ s.m.runs = true ∧ s.m.peerRole n = true ∧ s.m.maySend n = true ∧ s.m.gcm n = false ∧ s.m.grp.map = none ∧ (s.m.pp n).rest = none ∧ (s.m.pp n).peer = some id ∧ (s.m.bundle id).returned = [] ∧ (s.m.bundle id).queue = [g] ∧ g.cls < 4 ∧ (msgBytes (s.m.bundle id).tx 0 s.m.grp.ownId g).length ≤ framePayload ∧ s.m.mayBegin n g.cls (msgBytes (s.m.bundle id).tx 0 s.m.grp.ownId g).length = true) ∧
    (∃ (s : State) (n : _), n < 96 ∧ s.m.hears n = true ∧ (s.m.pp n).frames ≠ [] ∧ s.m.bState n ≠ bsRetraining ∧ s.m.get (pgPrt n) PrtF.peerSquall < s.m.get (pgPrt n) PrtF.peerReplayLimit) ∧
    (∃ (s : State) (n : _), n < 96 ∧ s.m.runs = true ∧ s.m.bState n = bsUp ∧ s.m.gcm n = false) ∧
    (∃ (s : State) (n : _), n < 96 ∧ s.m.runs = true ∧ s.m.bState n = bsRetraining) :=
  ⟨⟨st { peer8 3 with bfl := { up.bfl with ports := [(8, { Mod.reset.pp 8 with peer := some 1 })], bundles := [(1, { Bundle.empty with queue := [⟨0, 0, 0x03, 5, 0, 0, []⟩] })] }, grp := { srv.grp with ownId := 2 } }, 8, 1, (⟨0, 0, 0x03, 5, 0, 0, []⟩ : Msg), by decide +kernel⟩,
    ⟨st { peer8 3 with bfl := { up.bfl with ports := [(8, { Mod.reset.pp 8 with peer := some 1, frames := [⟨0, 0, 0, 0, [], [], []⟩] })] } }, 8, by decide +kernel⟩,
    ⟨st (peer8 3), 8, by decide +kernel⟩,
    ⟨st (peer8 4), 8, by decide +kernel⟩⟩

theorem witness_BerfelPortStatesChange :
    (∃ (s : State) (n : _), n < 96 ∧ s.m.mayTrain n = true) ∧
    (∃ (s : State) (n : _), n < 96 ∧ s.m.runs = true ∧ s.m.restored = true ∧ s.m.saving = false ∧ s.m.bState n = bsTraining ∧ s.m.clocked n = true) ∧
    (∃ (s : State) (n : _) (h : Hello), n < 96 ∧ s.m.runs = true ∧ s.m.peerRole n = true ∧ s.m.bState n = bsHello ∧ s.m.helloRefused n h = false ∧ (s.m.bundle h.moduleId).peerInc = h.ownInc ∧ (s.m.bundle h.moduleId).ownInc = h.peerInc ∧ s.m.gcm n = false ∧ s.m.grp.map = none ∧ s.m.indexOf h.moduleId = none ∧ s.m.grp.form = none) ∧
    (∃ (s : State) (n : _), n < 96 ∧ s.m.runs = true ∧ s.m.bState n = bsHello ∧ (s.m.pp n).peer = none ∧ bit (s.m.get (pgPrt n) HdrF.errSev) 32 = false) ∧
    (∃ (s : State) (n : _), n < 96 ∧ s.m.runs = true ∧ bsUp ≤ s.m.bState n ∧ ((s.m.pp n).peer.bind fun id => s.m.indexOf id) = none) ∧
    (∃ (s : State) (n : _), n < 96 ∧ s.m.runs = true ∧ s.m.peerRole n = true ∧ s.m.bState n = bsUp ∧ bit (s.m.get (pgPrt n) HdrF.errSev) 33 = false) :=
  ⟨⟨st (peer8 0), 8, by decide +kernel⟩,
    ⟨st (peer8 1), 8, by decide +kernel⟩,
    ⟨st { peer8 2 with grp := { srv.grp with ownId := 2 } }, 8, (⟨1, false, false, 0, 1, 0, 0, 0, 0, [256,256,256,256,256], 0⟩ : Hello), by decide +kernel⟩,
    ⟨st ((peer8 2).set (pgPrt 8) HdrF.errSev 0), 8, by decide +kernel⟩,
    ⟨st (peer8 3), 8, by decide +kernel⟩,
    ⟨st ((peer8 3).set (pgPrt 8) HdrF.errSev 0), 8, by decide +kernel⟩⟩

theorem witness_GcmKeysAndRunsMove :
    (∃ (s : State) (via : Via) (n : _) (gen : _) (key : List Byte), s.m.mailbox via = true ∧ n < 96 ∧ gen ≤ 1 ∧ key.length = 32 ∧ gen ≠ (s.m.pp n).tx.gen ∧ (∀ k, mapGet (s.m.pp n).tx.keys (1 - gen) = some k → k.2 ≠ key)) ∧
    (∃ (s : State) (via : Via) (n : _) (gen : _) (key : List Byte), s.m.mailbox via = true ∧ n < 96 ∧ gen ≤ 1 ∧ key.length = 32) ∧
    (∃ (s : State) (via : Via) (n : _) (k : _), s.m.mailbox via = true ∧ n < 96 ∧ mapGet (s.m.pp n).tx.keys (1 - (s.m.pp n).tx.gen) = some k ∧ (s.m.pp n).runTx = none) ∧
    (∃ (s : State) (n : _) (r : GcmRun), n < 96 ∧ s.m.runs = true ∧ (s.m.pp n).runTx = some r ∧ s.m.bState n = bsUp ∧ s.m.maySend n = false) ∧
    (∃ (s : State) (n : _) (tag : _) (gen : _) (ks : Nat × List Byte) (text : List Byte), n < 96 ∧ s.m.runs = true ∧ bsUp ≤ s.m.bState n ∧ s.m.gcm n = true ∧ (s.m.pp n).runRx.head?.map Prod.fst = some gen ∧ mapGet (s.m.pp n).rxKeys.keys gen = some ks ∧ ((s.m.pp n).runRx.flatMap fun r => r.2.2).take (((s.m.pp n).runRx.flatMap fun r => r.2.2).length - 56) = text ∧ gcmTag ks.2 (gcmIv ks.1 ((s.m.pp n).rxCount.getD gen 0)) ((s.m.pp n).runRx.flatMap fun r => r.2.1) text = tag ∧ ((s.m.pp n).partial_ ++ gcmText ks.2 (gcmIv ks.1 ((s.m.pp n).rxCount.getD gen 0)) text).length < 16) :=
  ⟨⟨st (peer8 3), .sideband, 8, 1, zeros 32, by decide +kernel⟩,
    ⟨st (peer8 3), .sideband, 8, 1, zeros 32, by decide +kernel⟩,
    ⟨st { peer8 3 with bfl := { up.bfl with ports := [(8, { Mod.reset.pp 8 with tx := { DirKeys.none with keys := [(1, (7, zeros 32))] } })] } }, .sideband, 8, (7, zeros 32), by decide +kernel⟩,
    ⟨st { (peer8 3).set (pgPrt 8) PrtF.peerGcmEn 1 with bfl := { up.bfl with ports := [(8, { Mod.reset.pp 8 with frames := [], runTx := some ⟨[], [], 0, 1, 0, false⟩ })] } }, 8, (⟨[], [], 0, 1, 0, false⟩ : GcmRun), by decide +kernel⟩,
    ⟨gcmSt, 8, gcmTag (zeros 32) (gcmIv 7 ((gcmSt.m.pp 8).rxCount.getD 1 0)) ((gcmSt.m.pp 8).runRx.flatMap fun r => r.2.1) [], 1, ((7, zeros 32) : Nat × List Byte), ([] : List Byte), by decide +kernel, by decide +kernel, by decide +kernel, by decide +kernel, by decide +kernel, by decide +kernel, by decide +kernel, by rfl, by decide +kernel⟩⟩

theorem witness_QuadsChangeRole :
    (∃ (s : State) (q : _), q < 32 ∧ s.m.runs = true ∧ s.m.isMemberQuad q = false ∧ s.m.bfl.changing = [] ∧ quadOk q (s.m.askedQuad q) = true ∧ (s.m.askedQuad q).members q = [] ∧ limitsOk (s.m.quadsWith [(q, s.m.askedQuad q)]) = true ∧ s.m.stewardKept [(q, s.m.askedQuad q)] = true ∧ (s.m.quad q).ports = []) ∧
    (∃ (s : State) (q : _), q < 32 ∧ s.m.runs = true ∧ s.m.stewardKept (s.m.applySet q) = false ∧ bit (s.m.get (pgLnq q) HdrF.errSev) 0 = false) ∧
    (∃ (s : State) (q : _) (c : QuadCfg), q < 32 ∧ s.m.runs = true ∧ mapGet s.m.bfl.changing q = some c ∧ c.members q = [] ∧ c.role = 2 ∧ c.base + c.count ≤ 96 ∧ (∀ n, n ∈ (s.m.quad q).ports → n < 96) ∧ s.m.is (pgLnq q) LnqF.apply = true ∧ s.m.quadStopped q = true) :=
  ⟨⟨st (((srv.set (pgLnq 31) LnqF.roleReq 2).set (pgLnq 31) LnqF.portBase 92)), 31, by decide +kernel⟩,
    ⟨st (((srv.set pgStw StwF.valid 1).set (pgLnq 0) HdrF.errSev 0).set (pgLnq 0) LnqF.roleReq 2), 0, by decide +kernel⟩,
    ⟨st { (srv.set (pgLnq 31) LnqF.apply 1) with bfl := { srv.bfl with changing := [(31, ⟨2, 2, 0, 92⟩)] } }, 31, (⟨2, 2, 0, 92⟩ : QuadCfg), by decide +kernel⟩⟩

theorem witness_CapacityIsAddedAndAccepted :
    (∃ (s : State) (via : Via) (region : _) (size : _) (hosts : List Nat) (b : _) (n : _) (rs : List Run), s.m.mailbox via = true ∧ region < 8 ∧ hosts ≠ [] ∧ hosts.length ≤ 4096 ∧ s.m.addRefused s.fuse.lifecycle (s.m.region region) size hosts = false ∧ (s.m.region region).durable = false ∧ s.m.freeDpa (s.m.region region) size = some b ∧ s.m.freeExt = some n ∧ (if (s.m.region region).thin then some [] else s.m.allocRuns (size / 4096)) = some rs ∧ s.m.grantRoom hosts) ∧
    (∃ (s : State) (via : Via) (n : _) (e : _) (hosts : List Nat), s.m.mailbox via = true ∧ s.m.ext n = some e ∧ hosts ≠ [] ∧ e.closing = false ∧ e.zeroing = false ∧ (e.hosts ++ hosts).length ≤ 4096 ∧ s.m.addBad s.fuse.lifecycle { s.m.extReg e with durable := false } (e.hosts ++ hosts) = false ∧ s.m.ringsClear e ∧ s.m.grantRoom hosts) ∧
    (∃ (s : State) (port : _) (ld : _) (ext : _) (g : Grant) (e : _), port < 96 ∧ s.m.ldMailbox port ld = true ∧ s.m.grant (s.m.ldOf port ld).1 ext = some g ∧ g.st = .reserved ∧ s.m.ext ext = some e) ∧
    (∃ (s : State) (port : _) (ld : _) (ext : _) (g : Grant) (e : _), port < 96 ∧ s.m.ldMailbox port ld = true ∧ s.m.grant (s.m.ldOf port ld).1 ext = some g ∧ g.st = .reserved ∧ s.m.ext ext = some e ∧ (e.hosts.filter fun c => !List.contains [(s.m.ldOf port ld).1] c) ≠ [] ∧ s.m.ringsClear e ∧ mapGet s.m.dir.watch (s.m.ldOf port ld).1 = none) ∧
    (∃ (s : State) (via : Via) (lost : _) (region : _) (base : _) (size : _) (stripe : _) (n : _), s.m.mailbox via = true ∧ region < 8 ∧ (s.m.region region).durable = true ∧ lost ≠ 0xFF ∧ s.m.standsFor = some lost ∧ size ≠ 0 ∧ size % granuleBytes = 0 ∧ base % granuleBytes = 0 ∧ (s.m.region region).base ≤ base ∧ base + size ≤ (s.m.region region).base + (s.m.region region).len ∧ (∀ e, e ∈ s.m.fab.extents → overlaps base size e.2.base e.2.size = false) ∧ stripe + size / granuleBytes ≤ s.m.stripeSpace / 512 ∧ s.m.isDomain (s.m.region region).domain = true ∧ s.m.freeExt = some n ∧ (∀ w, w ∈ s.m.led.wins → w.1 < 16384)) :=
  ⟨⟨{ st { cap false false with fab := { (cap false false).fab with extents := [], grants := [] } } with fuse := { Fuses.reset with lifecycle := 2 } }, .sideband, 0, 2097152, [0], 0, 0, ([] : List Run), by decide +kernel, by decide +kernel, by decide +kernel, by decide +kernel, by decide +kernel, by decide +kernel, by decide +kernel, by rw [freeExt_zero _ (by decide +kernel)], by decide +kernel, by simp only [Mod.grantRoom]; decide +kernel⟩,
    ⟨{ st { cap false true with fab := { (cap false true).fab with extents := [(0, { ext0 with hosts := [] })], grants := [], lds := [] }, stw := up.stw } with fuse := { Fuses.reset with lifecycle := 2 } }, .sideband, 0, { ext0 with hosts := [] }, [5], by decide +kernel, by decide +kernel, by decide +kernel, by decide +kernel, by decide +kernel, by decide +kernel, by decide +kernel, by have h : (st { cap false true with fab := { (cap false true).fab with extents := [(0, { ext0 with hosts := [] })], grants := [], lds := [] }, stw := up.stw }).m.livePairs = [] := by { decide +kernel }; intro n hn; exact absurd (h ▸ hn) List.not_mem_nil, by simp only [Mod.grantRoom]; decide +kernel⟩,
    ⟨st { cap false false with fab := { (cap false false).fab with grants := [⟨0, 0, 1, .reserved⟩] } }, 0, 0, 0, (⟨0, 0, 1, .reserved⟩ : Grant), ext0, by decide +kernel⟩,
    ⟨st { cap false false with fab := { (cap false false).fab with extents := [(0, { ext0 with hosts := [0, 7] })], grants := [⟨0, 0, 1, .reserved⟩] } }, 0, 0, 0, (⟨0, 0, 1, .reserved⟩ : Grant), { ext0 with hosts := [0, 7] }, by decide +kernel, by decide +kernel, by decide +kernel, by decide +kernel, by decide +kernel, by decide +kernel, by simp only [Mod.ringsClear]; decide +kernel, by decide +kernel⟩,
    ⟨st { grpd { map3 with units := 512, members := [⟨1, 3, some 1, 0⟩, ⟨2, 1, none, 0⟩, ⟨3, 1, none, 0⟩] } 2 with fab := { (cap true false).fab with extents := [] }, key := (cap true false).key }, .sideband, 0, 0, 0, 2097152, 0, 0, by decide +kernel, by decide +kernel, by decide +kernel, by decide +kernel, by decide +kernel, by decide +kernel, by decide +kernel, by decide +kernel, by decide +kernel, by decide +kernel, by decide +kernel, by decide +kernel, by decide +kernel, by rw [freeExt_zero _ (by decide +kernel)], by decide +kernel⟩⟩

theorem witness_CapacityIsReleasedAndMoved :
    (∃ (s : State) (via : Via) (ext : _) (hosts : List Nat) (e : _), s.m.mailbox via = true ∧ s.m.ext ext = some e ∧ (∀ h, h ∈ hosts → h ∈ e.hosts) ∧ hosts.Nodup ∧ s.m.bgBusy via = false ∧ s.m.releaseBlocked e hosts = false ∧ s.m.noChange ext) ∧
    (∃ (s : State) (via : Via) (ext : _) (hosts : List Nat) (e : _), s.m.mailbox via = true ∧ s.m.ext ext = some e ∧ hosts ≠ [] ∧ hosts.Nodup ∧ (∀ h, h ∈ hosts → h < 4096) ∧ (2 ≤ hosts.length → (s.m.extReg e).hdmDb = true) ∧ s.m.bgBusy via = false ∧ s.m.noChange ext ∧ s.m.ringsClear e ∧ s.m.grantRoom (hosts.filter fun h => !e.hosts.contains h) ∧ (∀ h, h ∈ e.hosts → mapGet s.m.dir.watch h = none)) ∧
    (∃ (s : State) (port : _) (ld : _) (ext : _) (e : _) (c : _), port < 96 ∧ s.m.ldMailbox port ld = true ∧ (s.m.ldOf port ld).1 = c ∧ s.m.ext ext = some e ∧ c ∈ e.hosts ∧ s.m.releaseBlocked e (e.hosts.filter fun h => h = c) = false ∧ (e.hosts.filter fun h => !List.contains [c] h) ≠ [] ∧ s.m.ringsClear e ∧ mapGet s.m.dir.watch c = none) ∧
    (∃ (s : State) (via : Via) (ext : _) (e : _) (c : _), s.m.mailbox via = true ∧ s.m.ext ext = some e ∧ c ∈ e.hosts ∧ s.m.releaseBlocked e (e.hosts.filter fun h => h = c) = false ∧ (e.hosts.filter fun h => !List.contains [c] h) ≠ [] ∧ s.m.ringsClear e ∧ mapGet s.m.dir.watch c = none) ∧
    (∃ (s : State) (ext : _) (e : _) (c : Change) (v : _), s.m.runs = true ∧ s.m.ext ext = some e ∧ c ∈ s.m.fab.changes ∧ c.ext = ext ∧ c.started = true ∧ c.kind = .release [] ∧ c.via = some v ∧ (∀ x, x ∈ s.m.fab.changes → x.ext = ext → x = c) ∧ s.m.oldEpochWork ext e = false ∧ s.m.saving = false ∧ e.hosts ≠ []) ∧
    (∃ (s : State) (ext : _) (e : _) (c : Change) (v : _), s.m.runs = true ∧ s.m.ext ext = some e ∧ c ∈ s.m.fab.changes ∧ c.ext = ext ∧ c.started = true ∧ c.kind = .release [] ∧ c.via = some v ∧ (∀ x, x ∈ s.m.fab.changes → x.ext = ext → x = c) ∧ s.m.oldEpochWork ext e = false ∧ s.m.saving = false ∧ e.hosts = [] ∧ (s.m.extReg e).durable = false ∧ s.m.key.fronts = [] ∧ (∀ w, w ∈ s.m.dir.watch → inLines e.base e.size w.2 = false)) ∧
    (∃ (s : State) (via : Via) (port : _) (ld : _), port < 96 ∧ s.m.mailbox via = true ∧ ld < 16 ∧ (s.m.ldOf port ld).2 = true) :=
  ⟨⟨st (cap false false), .sideband, 0, [0], ext0, by decide +kernel, by decide +kernel, by decide +kernel, by decide +kernel, by decide +kernel, by decide +kernel, by simp only [Mod.noChange]; decide +kernel⟩,
    ⟨st (cap false false), .sideband, 0, [0], ext0, by decide +kernel, by decide +kernel, by decide +kernel, by decide +kernel, by decide +kernel, by decide +kernel, by decide +kernel, by simp only [Mod.noChange]; decide +kernel, by simp only [Mod.ringsClear]; decide +kernel, by simp only [Mod.grantRoom]; decide +kernel, by decide +kernel⟩,
    ⟨st { cap false true with fab := { (cap false true).fab with extents := [(0, { ext0 with hosts := [0, 7] })] } }, 0, 0, 0, { ext0 with hosts := [0, 7] }, 0, by decide +kernel, by decide +kernel, by decide +kernel, by decide +kernel, by decide +kernel, by decide +kernel, by decide +kernel, by simp only [Mod.ringsClear]; decide +kernel, by decide +kernel⟩,
    ⟨st { cap false true with fab := { (cap false true).fab with extents := [(0, { ext0 with hosts := [0, 7] })] } }, .sideband, 0, { ext0 with hosts := [0, 7] }, 7, by decide +kernel, by decide +kernel, by decide +kernel, by decide +kernel, by decide +kernel, by simp only [Mod.ringsClear]; decide +kernel, by decide +kernel⟩,
    ⟨st { cap false false with fab := { (cap false false).fab with changes := [⟨0, .release [], some .sideband, true⟩] } }, 0, ext0, (⟨0, .release [], some .sideband, true⟩ : Change), Via.sideband, by decide +kernel⟩,
    ⟨st { cap false false with fab := { (cap false false).fab with extents := [(0, { ext0 with hosts := [] })], changes := [⟨0, .release [], some .sideband, true⟩] } }, 0, { ext0 with hosts := [] }, (⟨0, .release [], some .sideband, true⟩ : Change), Via.sideband, by decide +kernel⟩,
    ⟨st (cap false false), .sideband, 0, 0, by decide +kernel⟩⟩

theorem witness_StewardFunctionChanges :
    (∃ (s : State), s.m.stw.fetch = none) ∧
    (∃ (s : State) (f : Fetch), s.m.stw.fetch = some f ∧ bit (s.m.get pgStw HdrF.errSev) 8 = false) ∧
    (∃ (s : State), s.m.is pgStw StwF.valid = true ∧ s.m.stw.fetch = none) ∧
    (∃ (v : _), v < 2048) ∧
    (∃ (s : State) (via : Via) (port : _), s.m.mailbox via = true ∧ port ≠ 0xFF ∧ s.m.leadsDirect port = true ∧ s.m.stw.fetch = none ∧ bit (s.m.get pgStw HdrF.errSev) 11 = false) ∧
    (∃ (s : State) (via : Via), s.m.mailbox via = true ∧ s.m.stw.fetch = none ∧ bit (s.m.get pgStw HdrF.errSev) 11 = false) ∧
    (∃ (s : State) (via : Via) (port : _), s.m.mailbox via = true ∧ port ≠ 0xFF ∧ s.m.leadsDirect port = false) :=
  ⟨⟨st up, by decide +kernel⟩,
    ⟨st { up.set pgStw HdrF.errSev 0 with stw := { up.stw with fetch := some ⟨0, 4096, 2, 4096, 0, [(1, 4096)]⟩ } }, (⟨0, 4096, 2, 4096, 0, [(1, 4096)]⟩ : Fetch), by decide +kernel⟩,
    ⟨st (up.set pgStw StwF.valid 1), by decide +kernel⟩,
    ⟨2047, by decide +kernel⟩,
    ⟨st (up.set pgStw HdrF.errSev 0), .sideband, 0, by decide +kernel⟩,
    ⟨st ((up.set pgStw StwF.valid 1).set pgStw HdrF.errSev 0), .sideband, by decide +kernel⟩,
    ⟨st up, .sideband, 95, by decide +kernel⟩⟩

theorem witness_FirmwareFetchRuns :
    (∃ (s : State), s.m.stw.fetch = none ∧ s.m.stw.transfer = none ∧ s.m.is pgStw StwF.bme = true ∧ s.m.is pgStw StwF.msixEn = true ∧ s.m.stw.quar = [] ∧ 4096 ≤ s.m.get pgStw StwF.fwLen ∧ s.m.get pgStw StwF.fwLen ≤ 16777216 ∧ s.m.get pgStw StwF.fwLen % 4 = 0 ∧ (s.m.get pgStw StwF.slot = 1 ∨ s.m.get pgStw StwF.slot = 2) ∧ s.m.get pgStw StwF.slot ≠ s.m.get pgGlb GlbF.fwSlot) ∧
    (∃ (s : State), s.m.stw.fetch = none ∧ s.m.stw.transfer = none ∧ s.m.is pgStw StwF.bme = true ∧ s.m.is pgStw StwF.msixEn = true ∧ (s.m.get pgStw StwF.fwLen < 4096 ∨ 16777216 < s.m.get pgStw StwF.fwLen ∨ s.m.get pgStw StwF.fwLen % 4 ≠ 0 ∨ s.m.get pgStw StwF.slot = s.m.get pgGlb GlbF.fwSlot) ∧ bit (s.m.get pgStw HdrF.errSev) 9 = false) ∧
    (∃ (s : State) (f : Fetch), s.m.stw.fetch = some f ∧ bit (s.m.get pgStw HdrF.errSev) 8 = false) ∧
    (∃ (s : State) (f : Fetch) (tag : _), s.m.stw.fetch = some f ∧ tag ∉ s.m.stw.quar ∧ tag ∈ f.out.map Prod.fst ∧ f.next = f.len ∧ 0 < f.len) ∧
    (∃ (s : State) (tag : _), tag ∈ s.m.stw.quar ∧ bit (s.m.get pgStw HdrF.errSev) 10 = false) ∧
    (∃ (s : State) (tag : _), tag ∈ s.m.stw.quar) ∧
    (∃ (s : State) (f : Fetch) (tag : _), s.m.stw.fetch = some f ∧ tag ∉ s.m.stw.quar ∧ tag ∈ f.out.map Prod.fst ∧ bit (s.m.get pgStw HdrF.errSev) 9 = false) ∧
    (∃ (s : State) (f : Fetch), s.m.stw.fetch = some f ∧ f.len ≤ f.staged) ∧
    (∃ (s : State) (f : Fetch), s.m.stw.fetch = some f ∧ f.len ≤ f.staged ∧ bit (s.m.get pgStw HdrF.errSev) 9 = false) :=
  ⟨⟨st (((((up.set pgStw StwF.bme 1).set pgStw StwF.msixEn 1).set pgStw StwF.fwLen 4096).set pgStw StwF.slot 2).set pgGlb GlbF.fwSlot 1), by decide +kernel⟩,
    ⟨st (((((up.set pgStw StwF.bme 1).set pgStw StwF.msixEn 1).set pgStw StwF.fwLen 4092).set pgStw StwF.slot 2).set pgStw HdrF.errSev 0), by decide +kernel⟩,
    ⟨st { up.set pgStw HdrF.errSev 0 with stw := { up.stw with fetch := some ⟨0, 4096, 2, 4096, 0, [(1, 4096)]⟩ } }, (⟨0, 4096, 2, 4096, 0, [(1, 4096)]⟩ : Fetch), by decide +kernel⟩,
    ⟨st { up.set pgStw HdrF.errSev 0 with stw := { up.stw with fetch := some ⟨0, 4096, 2, 4096, 0, [(1, 4096)]⟩ } }, (⟨0, 4096, 2, 4096, 0, [(1, 4096)]⟩ : Fetch), 1, by decide +kernel⟩,
    ⟨st { up.set pgStw HdrF.errSev 0 with stw := { up.stw with quar := [1] } }, 1, by decide +kernel⟩,
    ⟨st { up with stw := { up.stw with quar := [1] } }, 1, by decide +kernel⟩,
    ⟨st { up.set pgStw HdrF.errSev 0 with stw := { up.stw with fetch := some ⟨0, 4096, 2, 4096, 0, [(1, 4096)]⟩ } }, (⟨0, 4096, 2, 4096, 0, [(1, 4096)]⟩ : Fetch), 1, by decide +kernel⟩,
    ⟨st { up.set pgStw HdrF.errSev 0 with stw := { up.stw with fetch := some ⟨0, 4096, 2, 4096, 4096, []⟩ } }, (⟨0, 4096, 2, 4096, 4096, []⟩ : Fetch), by decide +kernel⟩,
    ⟨st { up.set pgStw HdrF.errSev 0 with stw := { up.stw with fetch := some ⟨0, 4096, 2, 4096, 4096, []⟩ } }, (⟨0, 4096, 2, 4096, 4096, []⟩ : Fetch), by decide +kernel⟩⟩

theorem witness_ChannelsReadRefreshAndScrub :
    (∃ (s : State) (ch : _) (l : _) (u : _) (n : _) (w : List Byte) (e : _) (a : _), ch < 96 ∧ s.m.runs = true ∧ s.m.linePlace l = some (u, n) ∧ chanOf u = ch ∧ s.m.works (pgMch ch) = true ∧ e < s.m.get (pgMch ch) MchF.edcRetryLimit ∧ eccDecode (w.map BitVec.toNat) = .clean ∧ s.m.lineAs l = some a ∧ a.kind ≠ 2 ∧ s.m.modeOf a.d = 0) ∧
    (∃ (s : State) (ch : _) (f : _) (w : List Byte) (e : _), ch < 96 ∧ s.m.runs = true ∧ chanOf f = ch ∧ s.m.works (pgMch ch) = true ∧ e < s.m.get (pgMch ch) MchF.edcRetryLimit ∧ eccDecode (w.map BitVec.toNat) = .bad ∧ s.m.tier.moves = [] ∧ s.m.frozenCount < s.m.get pgGlb GlbF.maxFrozen ∧ bit (s.m.get (pgMch ch) HdrF.errSev) 8 = false) ∧
    (∃ (s : State) (ch : _), ch < 96 ∧ s.m.runs = true ∧ s.m.works (pgMch ch) = true ∧ s.m.is (pgMch ch) MchF.selfRefresh = false ∧ (s.m.chan ch).lull = false) ∧
    (∃ (s : State) (ch : _), ch < 96 ∧ s.m.runs = true ∧ s.m.works (pgMch ch) = true ∧ s.m.is (pgMch ch) MchF.selfRefresh = false ∧ (s.m.chan ch).lull = true) ∧
    (∃ (s : State) (p : _) (a : _) (b : _), p < 48 ∧ s.m.runs = true ∧ s.m.glb.dramUp = true ∧ a ≤ 255 ∧ b ≤ 255 ∧ (∀ c, c = 2 * p ∨ c = 2 * p + 1 → bit (s.m.get (pgMch c) HdrF.errSev) 15 = false ∧ bit (s.m.get (pgMch c) HdrF.errSev) 16 = false)) ∧
    (∃ (s : State) (ch : _), ch < 96 ∧ s.m.runs = true ∧ s.m.saving = false ∧ s.m.works (pgMch ch) = true ∧ (s.m.chan ch).lull = false ∧ (s.m.chan ch).spellUse.getD 2 0 = 0) ∧
    (∃ (s : State) (ch : _) (rd : _) (wr : _), ch < 96 ∧ s.m.runs = true ∧ (s.m.chan ch).lull = true ∧ rd < 256 ∧ wr < 256) ∧
    (∃ (s : State) (ch : _) (h : _), ch < 96 ∧ s.m.runs = true ∧ s.m.saving = false ∧ s.m.works (pgMch ch) = true ∧ s.m.is (pgMch ch) MchF.scrubEn = true ∧ (s.m.chan ch).lull = false ∧ headerOk ch (s.m.get (pgMch ch) MchF.scrubRow) h = true) :=
  ⟨⟨st (cap false false), 5, LineId.pool 5 0, 5, 0, (zeros 72 : List Byte), 0, ((st (cap false false)).m.lineAs (LineId.pool 5 0)).get (by decide +kernel), by decide +kernel⟩,
    ⟨st ((cap false false).set (pgMch 5) HdrF.errSev 0), 5, 5, ([1#8, 2#8, 4#8] : List Byte), 0, by decide +kernel⟩,
    ⟨st srv, 95, by decide +kernel⟩,
    ⟨st { srv with chn := { srv.chn with chans := [(95, { Chan.fresh with lull := true })] } }, 95, by decide +kernel⟩,
    ⟨st ((srv.set (pgMch 94) HdrF.errSev 0).set (pgMch 95) HdrF.errSev 0), 47, 255, 30, by decide +kernel, by decide +kernel, by decide +kernel, by decide +kernel, by decide +kernel, by intro c hc; rcases hc with rfl | rfl <;> decide +kernel⟩,
    ⟨st srv, 95, by decide +kernel⟩,
    ⟨st { srv with chn := { srv.chn with chans := [(95, { Chan.fresh with lull := true })] } }, 95, 100, 255, by decide +kernel⟩,
    ⟨st (srv.set (pgMch 95) MchF.scrubEn 1), 95, (leBytes 4 0 ++ leBytes 1 95 ++ zeros 23 ++ leBytes 4 (crc32c 0 (leBytes 4 0 ++ leBytes 1 95 ++ zeros 23))), by decide +kernel⟩⟩

theorem witness_ChannelsFreezeThawAndRetire :
    (∃ (s : State) (ch : _), ch < 96 ∧ s.m.runs = true ∧ s.m.works (pgMch ch) = true ∧ s.m.tier.moves = [] ∧ s.m.frozenCount < s.m.get pgGlb GlbF.maxFrozen ∧ bit (s.m.get (pgMch ch) HdrF.errSev) 13 = false) ∧
    (∃ (p : _), pageOk p = true ∧ p.ty ≠ .mch) ∧
    (∃ (s : State) (ch : _), ch < 96 ∧ s.m.runs = true ∧ s.m.frozen ch = true ∧ (s.m.chan ch).retiring = none) ∧
    (∃ (s : State) (ch : _), ch < 96 ∧ s.m.runs = true ∧ s.m.frozen ch = true ∧ (s.m.chan ch).thawing = true) ∧
    (∃ (s : State) (ch : _) (x : _) (rest : _) (l : _), ch < 96 ∧ s.m.runs = true ∧ s.m.saving = false ∧ s.m.works (pgMch ch) = true ∧ (s.m.chan ch).settling = true ∧ (∀ e, e ∈ s.m.chn.internalFrames → chanOf e.1 ≠ ch) ∧ (s.m.chan ch).touched = x :: rest ∧ s.m.grp.recons = [] ∧ s.m.lineAtPlace (x / 64 * 96 + ch) (x % 64) = some l ∧ s.m.fcGet l = none ∧ s.m.isDurable l = false) ∧
    (∃ (s : State) (ch : _), ch < 96 ∧ s.m.runs = true ∧ s.m.saving = false ∧ s.m.works (pgMch ch) = true ∧ (s.m.chan ch).settling = true ∧ (∀ e, e ∈ s.m.chn.internalFrames → chanOf e.1 ≠ ch) ∧ (s.m.chan ch).touched = []) ∧
    (∃ (s : State) (ch : _), ch < 96 ∧ s.m.runs = true ∧ s.m.frozen ch = true ∧ (s.m.chan ch).retiring = none ∧ s.m.retireShort ch = false) ∧
    (∃ (s : State) (ch : _), ch < 96 ∧ s.m.runs = true ∧ s.m.retireShort ch = true ∧ bit (s.m.get (pgMch ch) HdrF.errSev) 0 = false) ∧
    (∃ (s : State) (ch : _) (v : _) (l : _) (f : _), ch < 96 ∧ (s.m.chan ch).retiring = some v ∧ s.m.runs = true ∧ s.m.saving = false ∧ (s.m.chan ch).touched = [] ∧ v + 1 < chanUnits ∧ s.m.chn.internalFrames = [] ∧ v * 96 + ch < poolFrames ∧ runsIndex s.m.aux.parityRuns (v * 96 + ch) = none ∧ runsIndex s.m.aux.targetRuns (v * 96 + ch) = none ∧ s.m.lineAtPlace (v * 96 + ch) 0 = some l ∧ s.m.tier.moves = [] ∧ s.m.evacFrame (s.m.backedBy (pageOfLine l)).isSome = some f ∧ s.m.modeOf (s.m.domainAt l) ≠ 2) :=
  ⟨⟨st (srv.set (pgMch 95) HdrF.errSev 0), 95, by decide +kernel⟩,
    ⟨pgLex 31, by decide +kernel⟩,
    ⟨st (srv.set (pgMch 95) HdrF.state 3), 95, by decide +kernel⟩,
    ⟨st { srv.set (pgMch 95) HdrF.state 3 with chn := { srv.chn with chans := [(95, { Chan.fresh with thawing := true })] } }, 95, by decide +kernel⟩,
    ⟨st { cap false false with tier := { (cap false false).tier with fc := [] }, chn := { srv.chn with chans := [(5, { Chan.fresh with settling := true, touched := [0, 3] })] } }, 5, 0, [3], 0, by decide +kernel⟩,
    ⟨st { srv with chn := { srv.chn with chans := [(5, { Chan.fresh with settling := true })] } }, 5, by decide +kernel⟩,
    ⟨st (srv.set (pgMch 95) HdrF.state 3), 95, by decide +kernel⟩,
    ⟨st (((grpd { map3 with members := (upto 16).map fun i => ⟨i + 1, 1, none, 0⟩ } 2).set (pgMch 95) HdrF.errSev 0).set pgMov MovF.shareGib 63), 95, by decide +kernel⟩,
    ⟨st { cap false false with chn := { srv.chn with chans := [(5, { Chan.fresh with retiring := some 0 })] } }, 5, 0, 0, 0, by decide +kernel⟩⟩

theorem witness_PagesMoveBetweenTiers :
    (∃ (s : State) (page : _) (f : _) (fr : _), s.m.runs = true ∧ s.m.saving = false ∧ mapGet s.m.tier.moves page = some (.plain f) ∧ (s.m.page page).st = .plain fr) ∧
    (∃ (s : State) (page : _) (x : _) (slot : _), s.m.runs = true ∧ s.m.saving = false ∧ mapGet s.m.tier.moves page = some (.peer x slot) ∧ (∀ q, q ∈ s.m.tier.puts → q.1 ≠ page)) ∧
    (∃ (s : State) (x : _) (slot : _) (f : _), s.m.runs = true ∧ mapGet s.m.tier.heldFrames (heldKey x (slot % 2 ^ 36)) = none ∧ s.m.heldFor x < s.m.share ∧ (s.m.allocRuns 1).bind (fun l => runsNth l 0) = some f) ∧
    (∃ (s : State) (x : _) (slot : _), s.m.runs = true ∧ mapGet s.m.tier.heldFrames (heldKey x (slot % 2 ^ 36)) = none ∧ s.m.share ≤ s.m.heldFor x) ∧
    (∃ (s : State) (x : _) (slot : _) (d : List Byte) (f : _), s.m.runs = true ∧ mapGet s.m.tier.held (heldKey x (slot % 2 ^ 36)) = some d ∧ mapGet s.m.tier.heldFrames (heldKey x (slot % 2 ^ 36)) = some f) ∧
    (∃ (s : State) (x : _) (slot : _), s.m.runs = true ∧ mapGet s.m.tier.held (heldKey x (slot % 2 ^ 36)) = none) ∧
    (∃ (s : State), s.m.runs = true) ∧
    (∃ (s : State) (x : _) (tag : _) (slot : _) (data : List Byte) (p : _) (q : _), s.m.runs = true ∧ (s.m.tier.fetches.find? fun f => f.2 = (tag, x)) = some (p, q) ∧ (s.m.page p).st = .peer x slot ∧ (∀ r, r ∈ s.m.led.reqs → r.wait ≠ .fetch) ∧ s.m.frontAt p = none ∧ (∀ i, i < 64 → (s.m.openLine (p * 64 + i) (slice data (64 * i) 64) ((mapGetD s.m.tier.tags slot []).getD i 0)).isSome = true)) ∧
    (∃ (s : State) (x : _) (tag : _) (p : _) (q : _) (slot : _), s.m.runs = true ∧ (s.m.tier.fetches.find? fun f => f.2 = (tag, x)) = some (p, q) ∧ (s.m.page p).st = .peer x slot ∧ (∀ r, r ∈ s.m.led.reqs → r.wait ≠ .fetch)) ∧
    (∃ (s : State) (p : _) (f : _), s.m.runs = true ∧ s.m.saving = false ∧ s.m.is pgMov HdrF.enable = true ∧ s.m.works pgMov = true ∧ s.m.get pgMov HdrF.opState ≠ 3 ∧ s.m.get pgMov HdrF.position % dpaPages = p ∧ p + 1 ≠ dpaPages ∧ (s.m.page p).st = .plain f ∧ (s.m.page p).heat ≠ 0) :=
  ⟨⟨st { cap false false with tier := { (cap false false).tier with moves := [(0, .plain 7)] } }, 0, 7, 5, by decide +kernel⟩,
    ⟨st { cap false false with tier := { (cap false false).tier with moves := [(0, .peer 1 9)] } }, 0, 1, 9, by decide +kernel⟩,
    ⟨st ((grpd map3 2).set pgMov MovF.shareGib 1), 0, 2^36 - 1, 0, by decide +kernel⟩,
    ⟨st (grpd map3 2 |>.set pgMov MovF.shareGib 0), 0, 9, by decide +kernel⟩,
    ⟨st { grpd map3 2 with tier := { up.tier with held := [(9, [])], heldFrames := [(9, 7)] } }, 0, 9, ([] : List Byte), 7, by decide +kernel⟩,
    ⟨st (grpd map3 2), 0, 9, by decide +kernel⟩,
    ⟨st (grpd map3 2), by decide +kernel⟩,
    ⟨st { grpd map3 2 with fab := (cap false false).fab, key := (cap false false).key, tier := { up.tier with pages := [(0, ⟨.peer 0 9, false, true, 0⟩)], fetches := [(0, 5, 0)], tags := [(9, List.replicate 64 0)] } }, 0, 5, 9, zeros 4096, 0, (5, 0), by decide +kernel⟩,
    ⟨st { grpd map3 2 with fab := (cap false false).fab, key := (cap false false).key, tier := { up.tier with pages := [(0, ⟨.peer 0 9, false, true, 0⟩)], fetches := [(0, 5, 0)] } }, 0, 5, 0, (5, 0), 9, by decide +kernel⟩,
    ⟨st { (cap false false).set pgMov HdrF.opState 1 with tier := { (cap false false).tier with pages := [(0, ⟨.plain 5, false, false, 3⟩)] } }, 0, 5, by decide +kernel⟩⟩

theorem witness_PoisonAndLostPagesAreCleared :
    (∃ (s : State) (via : Via) (dpa : _) (n : _) (e : _) (f : _), s.m.mailbox via = true ∧ dpa % 64 = 0 ∧ s.m.extAt dpa = some (n, e) ∧ e.adopted = none ∧ s.m.lineAtHand (lineOf dpa) f) ∧
    (∃ (s : State) (via : Via) (dpa : _), s.m.mailbox via = true ∧ s.m.extAt dpa = none) ∧
    (∃ (s : State) (via : Via) (dpa : _) (x : _) (f : _), s.m.mailbox via = true ∧ dpa % 64 = 0 ∧ s.m.extAt dpa = some x ∧ s.m.lineAtHand (lineOf dpa) f ∧ s.m.lineQuiet (lineOf dpa)) ∧
    (∃ (s : State) (via : Via) (base : _) (len : _), s.m.mailbox via = true ∧ base % 4096 = 0 ∧ len % 4096 = 0 ∧ base + len ≤ dpaBytes ∧ s.m.bgBusy via = false) ∧
    (∃ (s : State) (via : Via) (base : _) (len : _) (rest : _), s.m.tier.clearing = (via, base, len) :: rest ∧ s.m.runs = true ∧ s.m.saving = false ∧ (s.m.tier.pages.map Prod.fst).Pairwise (fun a b => a < b)) :=
  ⟨⟨st (cap false false), .sideband, 0, 0, ext0, 5, by decide +kernel, by decide +kernel, by decide +kernel, by decide +kernel, by simp only [Mod.lineAtHand]; decide +kernel⟩,
    ⟨st (cap false false), .sideband, 2097152, by decide +kernel⟩,
    ⟨st (cap false false), .sideband, 0, (0, ext0), 5, by decide +kernel, by decide +kernel, by decide +kernel, by simp only [Mod.lineAtHand]; decide +kernel, by simp only [Mod.lineQuiet]; decide +kernel⟩,
    ⟨st (cap false false), .sideband, 4096, 8192, by decide +kernel⟩,
    ⟨st { cap false false with tier := { (cap false false).tier with clearing := [(.sideband, 4096, 8192)] } }, Via.sideband, 4096, 8192, ([] : List (Via × Nat × Nat)), by decide +kernel⟩⟩

theorem witness_LexiconsLoadAndEnginesRun :
    (∃ (s : State) (via : Via) (n : _) (off : _) (data : List Byte), s.m.mailbox via = true ∧ lexOk n = true ∧ data ≠ [] ∧ data.length ≤ 16376 ∧ off + data.length ≤ 32768 ∧ mapGet s.m.lex.presets n = none) ∧
    (∃ (s : State) (via : Via) (n : _) (off : _) (data : List Byte) (x : Lexicon), s.m.mailbox via = true ∧ lexOk n = true ∧ data ≠ [] ∧ data.length ≤ 16376 ∧ off + data.length ≤ 32768 ∧ mapGet s.m.lex.presets n = some x ∧ x.st = .loading) ∧
    (∃ (s : State) (via : Via) (n : _) (off : _) (data : List Byte) (x : Lexicon), s.m.mailbox via = true ∧ lexOk n = true ∧ data ≠ [] ∧ data.length ≤ 16376 ∧ off + data.length ≤ 32768 ∧ mapGet s.m.lex.presets n = some x ∧ x.st = .ready) ∧
    (∃ (s : State) (via : Via) (n : _) (len : _) (crc : _) (x : Lexicon) (bs : List Byte), s.m.mailbox via = true ∧ lexOk n = true ∧ len ≠ 0 ∧ len ≤ 32768 ∧ mapGet s.m.lex.presets n = some x ∧ x.st = .loading ∧ bs = (x.bytes ++ zeros (len - x.bytes.length)).take len ∧ crc32c 0 bs = crc) ∧
    (∃ (s : State) (via : Via) (n : _) (len : _) (crc : _) (x : Lexicon), s.m.mailbox via = true ∧ lexOk n = true ∧ len ≠ 0 ∧ len ≤ 32768 ∧ mapGet s.m.lex.presets n = some x ∧ x.st = .loading ∧ crc32c 0 ((x.bytes ++ zeros (len - x.bytes.length)).take len) ≠ crc) ∧
    (∃ (s : State) (via : Via) (n : _), s.m.mailbox via = true ∧ lexOk n = true ∧ s.m.lexRefs n = 0) ∧
    (∃ (s : State) (via : Via) (n : _), s.m.mailbox via = true ∧ lexOk n = true ∧ s.m.lexRefs n ≠ 0) ∧
    (∃ (s : State) (via : Via) (slot : _) (n : _), s.m.mailbox via = true ∧ lexOk n = true ∧ slot ≠ 0 ∧ slot < 4096 ∧ s.m.lexReady n = true) ∧
    (∃ (s : State) (e : _) (j : LexJob), e < 32 ∧ s.m.runs = true ∧ s.m.saving = false ∧ s.m.works (pgLex e) = true ∧ mapGet s.m.lex.running e = none ∧ s.m.nextJob e = some j) ∧
    (∃ (s : State) (e : _) (j : LexJob) (c : _) (st : _), e < 32 ∧ s.m.runs = true ∧ s.m.saving = false ∧ mapGet s.m.lex.running e = some j ∧ j.cls = 5 ∧ mapGet s.m.tier.moves j.owner = some (.packing j.lexicon) ∧ s.m.lexReady j.lexicon = true ∧ s.m.is pgMov MovF.peerEn = false ∧ compressBlock (s.m.lexBytes j.lexicon) false false j.bytes = (c, st)) ∧
    (∃ (s : State) (e : _) (j : LexJob) (v : _) (c : _), e < 32 ∧ s.m.runs = true ∧ s.m.saving = false ∧ mapGet s.m.lex.running e = some j ∧ j.cls ≠ 5 ∧ s.m.verb (j.owner / 2 ^ 32) (j.owner % 2 ^ 32) = some v ∧ s.m.lexReady j.lexicon = true ∧ j.compress = true ∧ compressBlock (if v.resets then (s.m.jobHist j).2 else (s.m.jobHist j).1) v.stream v.resets j.bytes = c) :=
  ⟨⟨st srv, .sideband, 4095, 32767, [1#8], by decide +kernel⟩,
    ⟨st { srv with lex := { srv.lex with presets := [(5, ⟨.loading, [1#8], 0, 0⟩)] } }, .sideband, 5, 1, [2#8], (⟨.loading, [1#8], 0, 0⟩ : Lexicon), by decide +kernel⟩,
    ⟨st { srv with lex := { srv.lex with presets := [(5, ⟨.ready, [1#8], 1, 0⟩)] } }, .sideband, 5, 1, [2#8], (⟨.ready, [1#8], 1, 0⟩ : Lexicon), by decide +kernel⟩,
    ⟨st { srv with lex := { srv.lex with presets := [(5, ⟨.loading, [1#8], 0, 0⟩)] } }, .sideband, 5, 1, crc32c 0 [1#8], (⟨.loading, [1#8], 0, 0⟩ : Lexicon), [1#8], by decide +kernel⟩,
    ⟨st { srv with lex := { srv.lex with presets := [(5, ⟨.loading, [1#8], 0, 0⟩)] } }, .sideband, 5, 1, 0, (⟨.loading, [1#8], 0, 0⟩ : Lexicon), by decide +kernel⟩,
    ⟨st srv, .sideband, 4095, by decide +kernel⟩,
    ⟨st { srv with lex := { srv.lex with presets := [(5, ⟨.ready, [1#8], 1, 0⟩)], domains := [(1, 5)] } }, .sideband, 5, by decide +kernel⟩,
    ⟨st { srv with lex := { srv.lex with presets := [(5, ⟨.ready, [1#8], 1, 0⟩)] } }, .sideband, 4095, 5, by decide +kernel⟩,
    ⟨st { srv with lex := { srv.lex with waiting := [(31, [⟨5, true, 0, none, 0, [], 0⟩])] } }, 31, (⟨5, true, 0, none, 0, [], 0⟩ : LexJob), by decide +kernel⟩,
    ⟨st { cap false false with lex := { srv.lex with running := [(31, ⟨5, true, 0, none, 0, zeros 8, 0⟩)] }, tier := { (cap false false).tier with moves := [(0, .packing 0)] } }, 31, (⟨5, true, 0, none, 0, zeros 8, 0⟩ : LexJob), (compressBlock [] false false (zeros 8)).1, (compressBlock [] false false (zeros 8)).2, by decide +kernel, by decide +kernel, by decide +kernel, by decide +kernel, by decide +kernel, by decide +kernel, by decide +kernel, by decide +kernel, by rfl⟩,
    ⟨st { ringed false { Pair.fresh with verbs := [verb3 (sqe 7 0 64 8) .lexicon] } with lex := { srv.lex with running := [(0, ⟨0, true, 3 * 2 ^ 32, none, 0, zeros 8, 0⟩)] } }, 0, (⟨0, true, 3 * 2 ^ 32, none, 0, zeros 8, 0⟩ : LexJob), verb3 (sqe 7 0 64 8) .lexicon, compressBlock (if (verb3 (sqe 7 0 64 8) .lexicon).resets then ([] : List Byte) else ([] : List Byte)) (verb3 (sqe 7 0 64 8) .lexicon).stream (verb3 (sqe 7 0 64 8) .lexicon).resets (zeros 8), by decide +kernel, by decide +kernel, by decide +kernel, by decide +kernel, by decide +kernel, by decide +kernel, by decide +kernel, by decide +kernel, by rfl⟩⟩

theorem witness_KeyDomainsAreCreatedAndDestroyed :
    (∃ (s : State) (via : Via) (slot : _) (mode : _) (src : KeySrc), s.m.mailbox via = true ∧ slotBad slot = false ∧ s.m.modeBad slot mode = false ∧ importTwins src = false ∧ mapGet s.m.key.slots slot = none) ∧
    (∃ (s : State) (via : Via) (slot : _) (mode : _) (src : KeySrc), s.m.mailbox via = true ∧ (slotBad slot = true ∨ s.m.modeBad slot mode = true ∨ importTwins src = true)) ∧
    (∃ (s : State) (via : Via) (slot : _), s.m.mailbox via = true ∧ slotBad slot = false ∧ s.m.regionsOf slot = [] ∧ s.m.frontOn slot = false) ∧
    (∃ (s : State) (via : Via) (slot : _) (mode : _), s.m.mailbox via = true ∧ slotBad slot = false ∧ s.m.isDomain slot = true ∧ s.m.modeBad slot mode = false ∧ s.m.extentsOf slot = 0 ∧ s.m.frontOn slot = false) ∧
    (∃ (s : State) (via : Via) (slot : _) (mode : _), s.m.mailbox via = true ∧ slotBad slot = false ∧ s.m.isDomain slot = true ∧ s.m.modeBad slot mode = false ∧ (0 < s.m.extentsOf slot ∨ s.m.frontOn slot = true)) :=
  ⟨⟨st srv, .sideband, 4095, 2, (.generate : KeySrc), by decide +kernel⟩,
    ⟨st srv, .sideband, 4096, 2, (.generate : KeySrc), by decide +kernel⟩,
    ⟨st { srv with key := (cap false false).key }, .sideband, 1, by decide +kernel⟩,
    ⟨st { srv with key := (cap false false).key }, .sideband, 1, 2, by decide +kernel⟩,
    ⟨st (cap false false), .sideband, 1, 2, by decide +kernel⟩⟩

theorem witness_FrontsAndWalksPass :
    (∃ (s : State) (via : Via) (slot : _) (e : _) (tg : _), s.m.mailbox via = true ∧ slotBad slot = false ∧ s.m.isDomain slot = true ∧ s.m.frontOf slot = none ∧ s.m.freeSlot = some tg ∧ s.m.freeEngine = some e) ∧
    (∃ (s : State) (via : Via) (slot : _) (e : _) (f : Front), s.m.mailbox via = true ∧ slotBad slot = false ∧ s.m.frontOf slot = some (e, f) ∧ e < 16) ∧
    (∃ (s : State) (e : _), e < 16 ∧ s.m.runs = true) ∧
    (∃ (s : State) (d : _) (rest : List Nat) (e : _) (tg : _), s.m.runs = true ∧ s.m.saving = false ∧ s.m.key.deferred = d :: rest ∧ d ≠ 0 ∧ s.m.isDomain d = true ∧ s.m.frontOf d = none ∧ s.m.freeSlot = some tg ∧ s.m.freeEngine = some e) ∧
    (∃ (s : State) (e : _) (f : Front) (l : _), e < 16 ∧ s.m.runs = true ∧ s.m.saving = false ∧ s.m.is (pgFrn e) FrnF.pause = false ∧ s.m.works (pgFrn e) = true ∧ mapGet s.m.key.fronts e = some f ∧ f.domain ≠ 0 ∧ f.next = some l ∧ mapGet s.m.tier.moves (pageOfLine l) = none ∧ (s.m.page (pageOfLine l)).st = .unbacked ∨ (s.m.page (pageOfLine l)).st = .lost ∧ f.passed + (64 - l % 64) < f.total) ∧
    (∃ (s : State) (e : _) (f : Front) (l : _) (fr : _), e < 16 ∧ s.m.runs = true ∧ s.m.saving = false ∧ s.m.is (pgFrn e) FrnF.pause = false ∧ s.m.works (pgFrn e) = true ∧ mapGet s.m.key.fronts e = some f ∧ f.domain ≠ 0 ∧ f.next = some l ∧ mapGet s.m.tier.moves (pageOfLine l) = none ∧ (s.m.page (pageOfLine l)).st = .plain fr ∧ s.m.frontWaits fr = false ∧ s.m.modeOf f.domain ≠ 2 ∧ f.passed + 1 < f.total) ∧
    (∃ (s : State) (fr : _) (n : _) (l : _) (e : FcLine) (u : _) (k : _), s.m.runs = true ∧ s.m.lineAtPlace fr n = some l ∧ s.m.fcGet l = some e ∧ e.dirty = true ∧ s.m.placeOf l = some (u, k) ∧ s.m.frozen (chanOf u) = false ∧ s.m.modeOf (s.m.domainAt l) ≠ 2) ∧
    (∃ (s : State) (w : NodeWalk) (later : List NodeWalk), s.m.runs = true ∧ s.m.saving = false ∧ s.m.key.walks = w :: later ∧ w.first + w.done = w.node ∧ w.leaves ≤ w.done + 1 ∧ w.node < poolFrames ∧ s.m.reservedAt w.node = none ∧ runsIndex s.m.aux.parityRuns w.node = none ∧ runsIndex s.m.aux.targetRuns w.node = none ∧ s.m.lineAtPlace w.node 0 = none ∧ s.m.pagesIn w.node = [] ∧ (∀ r, r ∈ s.m.led.reqs → r.wait ≠ .line)) :=
  ⟨⟨st (cap false false), .sideband, 1, 0, 2, by decide +kernel⟩,
    ⟨st { cap false false with key := { (cap false false).key with fronts := [(15, ⟨1, some 2, zeros 96, [(0, 32768, 0)], 5, 32768, false⟩)] } }, .sideband, 1, 15, (⟨1, some 2, zeros 96, [(0, 32768, 0)], 5, 32768, false⟩ : Front), by decide +kernel⟩,
    ⟨st srv, 15, by decide +kernel⟩,
    ⟨st { cap false false with key := { (cap false false).key with deferred := [1] } }, 1, ([] : List Nat), 0, 2, by decide +kernel⟩,
    ⟨st { cap false false with key := { (cap false false).key with fronts := [(15, ⟨1, some 2, zeros 96, [(0, 32768, 0)], 64, 32768, false⟩)] } }, 15, (⟨1, some 2, zeros 96, [(0, 32768, 0)], 64, 32768, false⟩ : Front), 64, by decide +kernel⟩,
    ⟨st { cap false false with key := { (cap false false).key with fronts := [(15, ⟨1, some 2, zeros 96, [(0, 32768, 0)], 0, 32768, false⟩)] } }, 15, (⟨1, some 2, zeros 96, [(0, 32768, 0)], 0, 32768, false⟩ : Front), 0, 5, by decide +kernel⟩,
    ⟨st { cap false false with tier := { (cap false false).tier with fc := [(0, [⟨0, true, false⟩])] } }, 5, 0, 0, (⟨0, true, false⟩ : FcLine), 5, 0, by decide +kernel⟩,
    ⟨st { srv with key := { srv.key with walks := [⟨100, 100, 1, 0, false⟩] } }, (⟨100, 100, 1, 0, false⟩ : NodeWalk), ([] : List NodeWalk), by decide +kernel⟩⟩

theorem witness_RingPairsChangeState :
    (∃ (s : State) (via : Via) (ring : _) (vals : List Nat), s.m.mailbox via = true ∧ ring < 8192 ∧ s.m.rf ring RingEF.state = 0 ∧ vals.getD 5 0 = 0) ∧
    (∃ (s : State) (ring : _), ring < 8192 ∧ s.m.runs = true ∧ s.m.rf ring RingEF.state = 0 ∧ s.m.rf ring RingEF.enable ≠ 1 ∧ s.m.enableReason ring = none) ∧
    (∃ (s : State) (ring : _) (c : _), ring < 8192 ∧ s.m.runs = true ∧ s.m.rf ring RingEF.state = 0 ∧ s.m.rf ring RingEF.enable ≠ 1 ∧ s.m.enableReason ring = some c ∧ bit (s.m.get pgRng HdrF.errSev) 9 = false) ∧
    (∃ (s : State) (ring : _), ring < 8192 ∧ s.m.runs = true ∧ s.m.rf ring RingEF.state = 1) ∧
    (∃ (s : State) (ring : _), ring < 8192 ∧ s.m.runs = true) ∧
    (∃ (s : State) (ring : _), ring < 8192 ∧ s.m.runs = true ∧ s.m.rf ring RingEF.state = 3 ∧ (s.m.pair ring).verbs = []) ∧
    (∃ (s : State) (ring : _) (p : Pair) (b : _) (c : _) (rest : _), ring < 8192 ∧ s.m.runs = true ∧ s.m.saving = false ∧ s.m.ringOn ring = true ∧ mapGet s.m.rng ring = some p ∧ p.bells = (b, c) :: rest ∧ b < 2 ^ s.m.rf ring RingEF.sqLog2 ∧ c < 2 ^ s.m.rf ring RingEF.cqLog2) ∧
    (∃ (s : State) (ring : _) (p : Pair) (f : _) (l : _), ring < 8192 ∧ s.m.runs = true ∧ s.m.saving = false ∧ s.m.rf ring RingEF.state = 1 ∧ mapGet s.m.rng ring = some p ∧ (∀ e, e ∈ s.m.rng → e.2.verbs = []) ∧ p.verbs = [] ∧ p.tail ≠ s.m.rf ring RingEF.sqHead ∧ 0 < s.m.rf ring RingEF.maxInflight ∧ l = s.m.rf ring RingEF.sqBase * 64 + s.m.rf ring RingEF.sqHead ∧ s.m.verbLine ring l f ∧ s.m.isPoisoned l = false) ∧
    (∃ (s : State) (ring : _) (p : Pair) (v : Verb) (o : _) (f : _) (l : _), ring < 8192 ∧ s.m.runs = true ∧ s.m.saving = false ∧ s.m.ringOn ring = true ∧ mapGet s.m.rng ring = some p ∧ p.verbs = [v] ∧ (∀ e, e ∈ s.m.rng → e.1 ≠ ring → e.2.verbs = []) ∧ v.outcome = some o ∧ v.step ≠ .post ∧ s.m.cqFull ring = false ∧ s.m.rf ring RingEF.notify = 0 ∧ l = s.m.rf ring RingEF.cqBase * 64 + s.m.rf ring RingEF.cqTail ∧ s.m.verbLine ring l f) ∧
    (∃ (s : State) (ring : _) (p : Pair), ring < 8192 ∧ s.m.runs = true ∧ s.m.saving = false ∧ s.m.ringOn ring = true ∧ mapGet s.m.rng ring = some p ∧ p.unnotified ≠ 0 ∧ s.m.rf ring RingEF.coalesceTicks ≠ 0 ∧ s.m.rf ring RingEF.notify = 2) :=
  ⟨⟨st srv, .sideband, 8191, [0, 0, 0, 0, 0, 0], by decide +kernel⟩,
    ⟨st { ((((((cap false false).setRf 3 RingEF.sqLog2 6).setRf 3 RingEF.cqLog2 6).setRf 3 RingEF.maxInflight 4).setRf 3 RingEF.cqBase 16).setRf 3 RingEF.doorbell 2048).setRf 3 RingEF.domain 1 with fab := { (cap false false).fab with regions := [(0, reg0 false false false)] } }, 3, by decide +kernel⟩,
    ⟨st (srv.set pgRng HdrF.errSev 0), 8191, 1, by decide +kernel⟩,
    ⟨st (srv.setRf 8191 RingEF.state 1), 8191, by decide +kernel⟩,
    ⟨st (srv.setRf 8191 RingEF.state 1), 8191, by decide +kernel⟩,
    ⟨st (srv.setRf 8191 RingEF.state 3), 8191, by decide +kernel⟩,
    ⟨st (ringed false { Pair.fresh with bells := [(63, 5)] }), 3, ({ Pair.fresh with bells := [(63, 5)] } : Pair), 63, 5, ([] : List (Nat × Nat)), by decide +kernel⟩,
    ⟨st (ringed false { Pair.fresh with tail := 1 }), 3, ({ Pair.fresh with tail := 1 } : Pair), 5, 0, by decide +kernel, by decide +kernel, by decide +kernel, by decide +kernel, by decide +kernel, by decide +kernel, by decide +kernel, by decide +kernel, by decide +kernel, by decide +kernel, by exact ⟨by simp only [Mod.lineQuiet]; decide +kernel, by simp only [Mod.lineAtHand]; decide +kernel, by decide +kernel, by decide +kernel, 0, 1, by decide +kernel⟩, by decide +kernel⟩,
    ⟨st (ringed false { Pair.fresh with verbs := [{ verb3 (sqe 0 0 0 0) .taken with outcome := some (0, 0, 0) }], head := 5 }), 3, ({ Pair.fresh with verbs := [{ verb3 (sqe 0 0 0 0) .taken with outcome := some (0, 0, 0) }], head := 5 } : Pair), ({ verb3 (sqe 0 0 0 0) .taken with outcome := some (0, 0, 0) } : Verb), (0, 0, 0), 5, 0, by decide +kernel, by decide +kernel, by decide +kernel, by decide +kernel, by decide +kernel, by decide +kernel, by decide +kernel, by decide +kernel, by decide +kernel, by decide +kernel, by decide +kernel, by decide +kernel, by exact ⟨by simp only [Mod.lineQuiet]; decide +kernel, by simp only [Mod.lineAtHand]; decide +kernel, by decide +kernel, by decide +kernel, 0, 1, by decide +kernel⟩⟩,
    ⟨st (((ringed false { Pair.fresh with unnotified := 2 }).setRf 3 RingEF.coalesceTicks 10).setRf 3 RingEF.notify 2), 3, ({ Pair.fresh with unnotified := 2 } : Pair), by decide +kernel⟩⟩

theorem witness_VerbsComputeAndWrite :
    (∃ (s : State) (ring : _) (idx : _) (v : _), s.m.verbAtHand ring idx 0 v) ∧
    (∃ (s : State) (ring : _) (idx : _) (v : Verb), s.m.verbAtHand ring idx 3 v ∧ v.step = .source ∧ v.bad = [] ∧ v.poisonIn v.opA v.len = []) ∧
    (∃ (s : State) (ring : _) (idx : _) (v : Verb), s.m.verbAtHand ring idx 3 v ∧ v.step = .source ∧ v.bad = [] ∧ v.poisonIn v.opA v.len ≠ []) ∧
    (∃ (s : State) (ring : _) (idx : _) (v : Verb), s.m.verbAtHand ring idx 4 v ∧ v.step = .source ∧ v.bad = [] ∧ v.poisonIn v.opA v.len = [] ∧ v.poisonIn v.opB v.len = []) ∧
    (∃ (s : State) (ring : _) (idx : _) (v : Verb) (p : VerbPut) (f : _), s.m.verbAtHand ring idx 1 v ∧ v.step = .source ∧ v.bad = [] ∧ putsOf v.opB v.len (fun i => (v.bytes v.opA v.len).getD i 0#8) (fun i k => (v.poisonIn (v.opA + i) k) != []) = [p] ∧ s.m.verbLine ring p.line f ∧ p.poison = false) ∧
    (∃ (s : State) (ring : _) (idx : _) (v : _) (p : VerbPut) (f : _), s.m.verbAtHand ring idx 2 v ∧ v.step = .taken ∧ v.bad = [] ∧ putsOf v.opA v.len (fun i => v.entry.getD (16 + (v.opA + i) % 8) 0#8) (fun _ _ => false) = [p] ∧ s.m.verbLine ring p.line f) ∧
    (∃ (s : State) (ring : _) (idx : _) (v : Verb) (p : VerbPut) (f : _), s.m.verbAtHand ring idx 5 v ∧ v.step = .source ∧ v.bad = [] ∧ v.ecPuts (ecList v ((v.lex.getD (0, [])).2)) = [p] ∧ s.m.verbLine ring p.line f ∧ p.poison = false) ∧
    (∃ (s : State) (ring : _) (idx : _) (v : Verb) (p : VerbPut) (f : _), s.m.verbAtHand ring idx 6 v ∧ v.step = .source ∧ v.bad = [] ∧ v.ecPuts (ecList v ((v.lex.getD (0, [])).2)) = [p] ∧ s.m.verbLine ring p.line f ∧ p.poison = false) ∧
    (∃ (s : State) (ring : _) (idx : _) (v : Verb) (out : _) (p : VerbPut) (f : _), s.m.verbAtHand ring idx 7 v ∧ v.step = .lexicon ∧ v.bad = [] ∧ v.lex = some (0, out) ∧ putsOf v.opB out.length (fun i => out.getD i 0#8) (fun _ _ => false) = [p] ∧ s.m.verbLine ring p.line f) ∧
    (∃ (s : State) (ring : _) (idx : _) (v : Verb) (out : _) (p : VerbPut) (f : _), s.m.verbAtHand ring idx 8 v ∧ v.step = .lexicon ∧ v.bad = [] ∧ v.lex = some (0, out) ∧ putsOf v.opB out.length (fun i => out.getD i 0#8) (fun _ _ => false) = [p] ∧ s.m.verbLine ring p.line f) :=
  ⟨⟨verbSt false (verb3 (sqe 0 0 0 0) .taken), 3, 0, verb3 (sqe 0 0 0 0) .taken, by simp only [Mod.verbAtHand]; decide +kernel⟩,
    ⟨verbSt false { verb3 (sqe 3 64 0 64) .source with got := [(1, (zeros 64, false))] }, 3, 0, ({ verb3 (sqe 3 64 0 64) .source with got := [(1, (zeros 64, false))] } : Verb), by simp only [Mod.verbAtHand]; decide +kernel, by decide +kernel, by decide +kernel, by decide +kernel⟩,
    ⟨verbSt false { verb3 (sqe 3 64 0 64) .source with got := [(1, (zeros 64, true))] }, 3, 0, ({ verb3 (sqe 3 64 0 64) .source with got := [(1, (zeros 64, true))] } : Verb), by simp only [Mod.verbAtHand]; decide +kernel, by decide +kernel, by decide +kernel, by decide +kernel⟩,
    ⟨verbSt false { verb3 (sqe 4 64 128 64) .source with got := [(1, (zeros 64, false)), (2, (List.replicate 64 1#8, false))] }, 3, 0, ({ verb3 (sqe 4 64 128 64) .source with got := [(1, (zeros 64, false)), (2, (List.replicate 64 1#8, false))] } : Verb), by simp only [Mod.verbAtHand]; decide +kernel, by decide +kernel, by decide +kernel, by decide +kernel, by decide +kernel⟩,
    ⟨verbSt false { verb3 (sqe 1 64 0 64) .source with got := [(1, (List.replicate 64 1#8, false))] }, 3, 0, ({ verb3 (sqe 1 64 0 64) .source with got := [(1, (List.replicate 64 1#8, false))] } : Verb), (⟨0, List.replicate 64 1#8, 2 ^ 64 - 1, false, 64⟩ : VerbPut), 5, by simp only [Mod.verbAtHand]; decide +kernel, by decide +kernel, by decide +kernel, by decide +kernel, by exact ⟨by simp only [Mod.lineQuiet]; decide +kernel, by simp only [Mod.lineAtHand]; decide +kernel, by decide +kernel, by decide +kernel, 0, 1, by decide +kernel⟩, by decide +kernel⟩,
    ⟨verbSt false (verb3 (sqe 2 0 0x0101010101010101 64) .taken), 3, 0, verb3 (sqe 2 0 0x0101010101010101 64) .taken, (⟨0, List.replicate 64 1#8, 2 ^ 64 - 1, false, 64⟩ : VerbPut), 5, by simp only [Mod.verbAtHand]; decide +kernel, by decide +kernel, by decide +kernel, by decide +kernel, by exact ⟨by simp only [Mod.lineQuiet]; decide +kernel, by simp only [Mod.lineAtHand]; decide +kernel, by decide +kernel, by decide +kernel, 0, 1, by decide +kernel⟩⟩,
    ⟨verbSt false { verb3 (sqe 5 4096 (64 + 2 ^ 32 + 2 ^ 40) 1) .source with got := [(1, (List.replicate 64 1#8, false))], lex := some (0, leBytes 8 64 ++ zeros 160 ++ [1#8] ++ zeros 87) }, 3, 0, ({ verb3 (sqe 5 4096 (64 + 2 ^ 32 + 2 ^ 40) 1) .source with got := [(1, (List.replicate 64 1#8, false))], lex := some (0, leBytes 8 64 ++ zeros 160 ++ [1#8] ++ zeros 87) } : Verb), (⟨0, List.replicate 64 1#8, 2 ^ 64 - 1, false, 64⟩ : VerbPut), 5, by simp only [Mod.verbAtHand]; decide +kernel, by decide +kernel, by decide +kernel, by decide +kernel, by exact ⟨by simp only [Mod.lineQuiet]; decide +kernel, by simp only [Mod.lineAtHand]; decide +kernel, by decide +kernel, by decide +kernel, 0, 1, by decide +kernel⟩, by decide +kernel⟩,
    ⟨verbSt false { verb3 (sqe 6 4096 (64 + 2 ^ 32 + 2 ^ 40) 1) .source with got := [(1, (List.replicate 64 1#8, false))], lex := some (0, leBytes 8 64 ++ zeros 160 ++ [1#8] ++ zeros 87) }, 3, 0, ({ verb3 (sqe 6 4096 (64 + 2 ^ 32 + 2 ^ 40) 1) .source with got := [(1, (List.replicate 64 1#8, false))], lex := some (0, leBytes 8 64 ++ zeros 160 ++ [1#8] ++ zeros 87) } : Verb), (⟨0, List.replicate 64 1#8, 2 ^ 64 - 1, false, 64⟩ : VerbPut), 5, by simp only [Mod.verbAtHand]; decide +kernel, by decide +kernel, by decide +kernel, by decide +kernel, by exact ⟨by simp only [Mod.lineQuiet]; decide +kernel, by simp only [Mod.lineAtHand]; decide +kernel, by decide +kernel, by decide +kernel, 0, 1, by decide +kernel⟩, by decide +kernel⟩,
    ⟨verbSt false { verb3 (sqe 7 64 0 64) .lexicon with lex := some (0, List.replicate 64 1#8) }, 3, 0, ({ verb3 (sqe 7 64 0 64) .lexicon with lex := some (0, List.replicate 64 1#8) } : Verb), List.replicate 64 1#8, (⟨0, List.replicate 64 1#8, 2 ^ 64 - 1, false, 64⟩ : VerbPut), 5, by simp only [Mod.verbAtHand]; decide +kernel, by decide +kernel, by decide +kernel, by decide +kernel, by decide +kernel, by exact ⟨by simp only [Mod.lineQuiet]; decide +kernel, by simp only [Mod.lineAtHand]; decide +kernel, by decide +kernel, by decide +kernel, 0, 1, by decide +kernel⟩⟩,
    ⟨verbSt false { verb3 (sqe 8 64 0 64) .lexicon with lex := some (0, List.replicate 64 1#8) }, 3, 0, ({ verb3 (sqe 8 64 0 64) .lexicon with lex := some (0, List.replicate 64 1#8) } : Verb), List.replicate 64 1#8, (⟨0, List.replicate 64 1#8, 2 ^ 64 - 1, false, 64⟩ : VerbPut), 5, by simp only [Mod.verbAtHand]; decide +kernel, by decide +kernel, by decide +kernel, by decide +kernel, by decide +kernel, by exact ⟨by simp only [Mod.lineQuiet]; decide +kernel, by simp only [Mod.lineAtHand]; decide +kernel, by decide +kernel, by decide +kernel, 0, 1, by decide +kernel⟩⟩⟩

theorem witness_FullStopVerbIsHeldAtItsWindow :
    (∃ (s : State) (ring : _) (idx : _) (v : Verb) (w : _) (win : _) (n : _) (e : Extent) (f : _), s.m.verbAtHand ring idx 9 v ∧ v.step = .source ∧ v.bad = [] ∧ v.poisoned (v.opB / 64) = false ∧ s.m.lineQuiet (v.opA / 64) ∧ (∃ x ep, s.m.checkGrant (s.m.rf ring RingEF.ownerCtx) (v.opA / 64 * 64) = .ok x ep) ∧ s.m.stopOf (v.opA / 64) = some (w, win) ∧ s.m.extAt (v.opA / 64 * 64) = some (n, e) ∧ (s.m.extReg e).durable = true ∧ e.adopted = none ∧ s.m.fences = [] ∧ s.m.lineHeld (v.opA / 64) = false ∧ s.m.coherent (v.opA / 64) = false ∧ (s.m.page (pageOfLine (v.opA / 64))).st = .plain f ∧ s.m.unverifiable f = false ∧ (s.m.fcGet (v.opA / 64)).isSome = true ∧ s.m.glb.tampered = false ∧ s.m.keyLost (v.opA / 64) = false ∧ ((mapGetD s.m.tier.mapCache (sliceOf (v.opA / 64)) []).any fun x => x.1 = pageOfLine (v.opA / 64)) = true ∧ s.m.durableUsed (sliceOf (v.opA / 64)) < 768 ∧ s.m.spillFull = false) ∧
    (∃ (s : State) (ring : _) (idx : _) (v : Verb), s.m.verbAtHand ring idx 9 v ∧ v.step = .source ∧ v.bad = [] ∧ v.poisoned (v.opB / 64) = true) :=
  ⟨⟨st { ringed true { Pair.fresh with verbs := [verb3 (sqe 9 0 64 0) .source] } with led := { up.led with wins := [(0, win0)] } }, 3, 0, (verb3 (sqe 9 0 64 0) .source : Verb), 0, win0, 0, ({ ext0 with stripe := some 0 } : Extent), 5, by simp only [Mod.verbAtHand]; decide +kernel, by decide +kernel, by decide +kernel, by decide +kernel, by simp only [Mod.lineQuiet]; decide +kernel, by exact ⟨0, 1, by decide +kernel⟩, by decide +kernel, by decide +kernel, by decide +kernel, by decide +kernel, by decide +kernel, by decide +kernel, by decide +kernel, by decide +kernel, by decide +kernel, by decide +kernel, by decide +kernel, by decide +kernel, by decide +kernel, by decide +kernel, by decide +kernel⟩,
    ⟨st { ringed true { Pair.fresh with verbs := [{ verb3 (sqe 9 0 64 0) .source with got := [(1, (zeros 64, true))] }] } with led := { up.led with wins := [(0, win0)] } }, 3, 0, ({ verb3 (sqe 9 0 64 0) .source with got := [(1, (zeros 64, true))] } : Verb), by simp only [Mod.verbAtHand]; decide +kernel, by decide +kernel, by decide +kernel, by decide +kernel⟩⟩

theorem witness_SpellsEndAndFloorsAreSet :
    (∃ (s : State), s.m.runs = true ∧ s.m.saving = false ∧ bit (s.m.get pgSpl HdrF.errSev) 8 = false ∧ bit (s.m.get pgSpl HdrF.errSev) 9 = false) ∧
    (∃ (s : State), s.m.glb.powered = true ∧ s.m.saving = true) ∧
    (∃ (s : State) (via : Via) (n : _), s.m.mailbox via = true ∧ n ≤ 4116) ∧
    (∃ (s : State) (via : Via) (n : _), s.m.mailbox via = true ∧ 4116 < n) ∧
    (∃ (s : State) (via : Via) (n : _), s.m.mailbox via = true ∧ n ≤ 4116) ∧
    (∃ (s : State) (via : Via) (n : _), s.m.mailbox via = true ∧ 4116 < n) :=
  ⟨⟨st ((srv.set pgSpl HdrF.errSev 0).set pgSpl SplF.spellTicks 4096), by decide +kernel⟩,
    ⟨st (saving6 .resume), by decide +kernel⟩,
    ⟨st srv, .sideband, 4116, by decide +kernel⟩,
    ⟨st srv, .sideband, 4117, by decide +kernel⟩,
    ⟨st srv, .sideband, 4116, by decide +kernel⟩,
    ⟨st srv, .sideband, 4117, by decide +kernel⟩⟩

theorem witness_BarometerPlansTracksAndPolls :
    (∃ (s : State), s.m.age.plan = none ∧ s.m.saving = false ∧ s.m.vlt.restoring = false) ∧
    (∃ (s : State) (n : _), s.m.age.plan = some n) ∧
    (∃ (s : State), s.m.age.plan = none ∧ s.m.saving = true) ∧
    (∃ (s : State), s.m.age.plan.isSome = true ∧ (∀ b, 8 ≤ b → b ≤ 17 → bit (s.m.get pgAge HdrF.errSev) b = false)) ∧
    (∃ (s : State) (d : _), s.m.dTgt < d ∧ s.m.get pgAge AgeF.vNow < 870) ∧
    (∃ (s : State) (d : _), s.m.dTgt < d ∧ s.m.get pgAge AgeF.vNow = 870 ∧ bit (s.m.get pgAge HdrF.errSev) 8 = false ∧ s.m.age.plan = none ∧ s.m.saving = false ∧ s.m.vlt.restoring = false) ∧
    (∃ (s : State) (d : _), d * 100 < 97 * s.m.dTgt ∧ s.m.get pgAge AgeF.vPlan < s.m.get pgAge AgeF.vNow) ∧
    (∃ (s : State) (d : _), d ≤ s.m.dTgt ∧ (97 * s.m.dTgt ≤ d * 100 ∨ s.m.get pgAge AgeF.vNow ≤ s.m.get pgAge AgeF.vPlan)) ∧
    (∃ (s : State) (r : PwrMeas), r.cellMax ≤ 2150 ∧ bit (s.m.get pgAge HdrF.errSev) 11 = false ∧ bit (s.m.get pgVlt HdrF.errSev) 13 = false) ∧
    (∃ (s : State), s.m.phase = 2 ∧ s.m.runs = true) :=
  ⟨⟨st srv, by decide +kernel⟩,
    ⟨st { srv with age := { srv.age with plan := some 0 } }, 0, by decide +kernel⟩,
    ⟨st (saving6 .resume), by decide +kernel⟩,
    ⟨st { (srv.set pgAge HdrF.errSev 0) with age := { srv.age with plan := some 0 } }, by decide +kernel, by exact fun b _ _ => by have h : (st { (srv.set pgAge HdrF.errSev 0) with age := { srv.age with plan := some 0 } }).m.get pgAge HdrF.errSev = 0 := (by decide +kernel); simp only [h, bit, Nat.zero_testBit]⟩,
    ⟨st (srv.set pgAge AgeF.vNow 860), 449, by decide +kernel⟩,
    ⟨st ((srv.set pgAge AgeF.vNow 870).set pgAge HdrF.errSev 0), 449, by decide +kernel⟩,
    ⟨st ((srv.set pgAge AgeF.vNow 700).set pgAge AgeF.vPlan 690), 400, by decide +kernel⟩,
    ⟨st (srv.set pgAge AgeF.vNow 700), 448, by decide +kernel⟩,
    ⟨st ((srv.set pgAge HdrF.errSev 0).set pgVlt HdrF.errSev 0), (⟨54000, 54000, 5000, 270, 2150, 2100, 50, 300⟩ : PwrMeas), by decide +kernel⟩,
    ⟨st (Mod.reset.set pgGlb GlbF.phase 2), by decide +kernel⟩⟩

theorem witness_SaveRunsUpToItsSeal :
    (∃ (s : State), s.m.runs = true ∧ s.m.vlt.save = none ∧ s.m.restored = true ∧ s.m.glb.tampered = false) ∧
    (∃ (s : State), s.m.saving = false ∧ s.m.restored = false) ∧
    (∃ (s : State) (v : _), s.m.vlt.save = some v ∧ v.step = .prepare ∧ s.m.glb.powered = true ∧ s.m.cachesClean) ∧
    (∃ (s : State) (v : _) (d : _), s.m.vlt.save = some v ∧ v.step = .prepare ∧ s.m.glb.powered = true ∧ s.m.cachesClean ∧ d < 64 ∧ bit (s.m.get pgVlt HdrF.errSev) 14 = false) ∧
    (∃ (s : State) (v : _) (vb : _) (p : _) (o : _) (d : _), s.m.vlt.save = some v ∧ v.step = .writing ∧ s.m.glb.powered = true ∧ (v.truncated = true ∨ d + p + o = 0 ∨ s.m.reserveMj (s.m.nextSeq - 1) < s.m.storedMj vb)) ∧
    (∃ (s : State) (v : _) (vb : _) (p : _) (o : _) (d : _), s.m.vlt.save = some v ∧ v.step = .writing ∧ s.m.glb.powered = true ∧ v.truncated = false ∧ 0 < d + p + o ∧ s.m.storedMj vb ≤ s.m.reserveMj (s.m.nextSeq - 1) ∧ bit (s.m.get pgVlt HdrF.errSev) 9 = false) ∧
    (∃ (s : State), s.m.runs = true ∧ s.m.restored = true ∧ s.m.saving = false ∧ s.m.vlt.erased = false) ∧
    (∃ (s : State), s.m.vlt.erased = true) ∧
    (∃ (s : State), s.pwr.feeds = false ∧ s.m.glb.powered = true) ∧
    (∃ (s : State), (s.pwr.feeds = true ∨ s.m.glb.powered = false)) :=
  ⟨⟨st { srv with age := { srv.age with plan := some 0 } }, by decide +kernel⟩,
    ⟨State.reset, by decide +kernel⟩,
    ⟨st { srv with vlt := { srv.vlt with save := some (save6 .prepare .resume) } }, save6 .prepare .resume, by decide +kernel, by decide +kernel, by decide +kernel, by simp only [Mod.cachesClean]; decide +kernel⟩,
    ⟨st ((({ srv with vlt := { srv.vlt with save := some (save6 .prepare .resume) } } : Mod)).set pgVlt HdrF.errSev 0), save6 .prepare .resume, 63, by decide +kernel, by decide +kernel, by decide +kernel, by simp only [Mod.cachesClean]; decide +kernel, by decide +kernel, by decide +kernel⟩,
    ⟨st (saving6 .resume), save6 .writing .resume, 2500, 0, 0, 0, by decide +kernel⟩,
    ⟨st ((saving6 .resume).set pgVlt HdrF.errSev 0), save6 .writing .resume, 2500, 3, 4, 0, by decide +kernel, by decide +kernel, by decide +kernel, by decide +kernel, by decide +kernel, by exact (by decide +kernel : (st ((saving6 .resume).set pgVlt HdrF.errSev 0)).m.storedMj 2500 = 0) ▸ Nat.zero_le _, by decide +kernel⟩,
    ⟨st { srv with vlt := { srv.vlt with areaA := some (img 1 false), areaB := some (img 2 true), erased := false } }, by decide +kernel⟩,
    ⟨State.reset, by decide +kernel⟩,
    ⟨{ st (saving6 .resume) with pwr := pwr .off none }, by decide +kernel⟩,
    ⟨State.reset, by decide +kernel⟩⟩

theorem witness_SealEndsTheSave :
    (∃ (s : State) (v : _) (i : _), s.m.writing v i ∧ v.after = .powerDown) ∧
    (∃ (s : State) (v : _) (i : _), s.m.writing v i ∧ v.after = .resume ∧ bit (s.m.get pgVlt HdrF.errSev) 8 = false) ∧
    (∃ (s : State) (v : _) (i : _) (code : _), s.m.writing v i ∧ v.after = .reset code ∧ s.m.linksOff) ∧
    (∃ (s : State) (v : _) (i : _), s.m.writing v i ∧ v.after = .halt ∧ s.m.linksOff) :=
  ⟨⟨st (saving6 .powerDown), save6 .writing .powerDown, img 1 false, by simp only [Mod.writing]; decide +kernel, by decide +kernel⟩,
    ⟨st ((saving6 .resume).set pgVlt HdrF.errSev 0), save6 .writing .resume, img 1 false, by simp only [Mod.writing]; decide +kernel, by decide +kernel, by decide +kernel⟩,
    ⟨st (saving6 (.reset 3)), save6 .writing (.reset 3), img 1 false, 3, by simp only [Mod.writing]; decide +kernel, by decide +kernel, by simp only [Mod.linksOff]; decide +kernel⟩,
    ⟨st (saving6 .halt), save6 .writing .halt, img 1 false, by simp only [Mod.writing]; decide +kernel, by decide +kernel, by simp only [Mod.linksOff]; decide +kernel⟩⟩

theorem witness_RestoreDoneChoosesAnImage :
    (∃ (s : State) (n : _), s.m.runs = true ∧ s.m.phase = 4 ∧ s.m.restoreChoice s.fuse = (.empty, none, n) ∧ s.m.mildVlt) ∧
    (∃ (s : State) (n : _), s.m.runs = true ∧ s.m.phase = 4 ∧ s.m.restoreChoice s.fuse = (.failed, none, n) ∧ s.m.mildVlt) ∧
    (∃ (s : State) (k : RestoreKind) (i : _) (n : _), s.m.runs = true ∧ s.m.phase = 4 ∧ s.m.restoreChoice s.fuse = (k, some i, n) ∧ (k = .current ∨ k = .stale) ∧ s.m.mildVlt) ∧
    (∃ (s : State) (i : _) (n : _) (m : Mod), s.m.runs = true ∧ s.m.phase = 4 ∧ s.m.restoreChoice s.fuse = (.current, some i, n) ∧ s.m.restoreCurrent i = some m ∧ m.grp.map = none ∧ m.mildVlt) ∧
    (∃ (s : State), (s.m.runs = false ∨ s.m.phase ≠ 4)) :=
  ⟨⟨st (mild (rest4 none)), false, by decide +kernel, by decide +kernel, by decide +kernel, by exact mild_of _ (by decide +kernel) (by decide +kernel)⟩,
    ⟨{ st (mild (rest4 (some (img 1 false)))) with fuse := { Fuses.reset with lifecycle := 2 } }, true, by decide +kernel, by decide +kernel, by decide +kernel, by exact mild_of _ (by decide +kernel) (by decide +kernel)⟩,
    ⟨st (mild (rest4 (some (img 1 true)))), (.current : RestoreKind), img 1 true, false, by decide +kernel, by decide +kernel, by decide +kernel, by decide +kernel, by exact mild_of _ (by decide +kernel) (by decide +kernel)⟩,
    ⟨st (mild (rest4 (some (img 1 true)))), img 1 true, false, (((mild (rest4 (some (img 1 true)))).restoreCurrent (img 1 true)).getD Mod.reset : Mod), by decide +kernel, by decide +kernel, by decide +kernel, by exact some_getD _ _ (by decide +kernel), by decide +kernel, by exact mild_of _ (by decide +kernel) (by decide +kernel)⟩,
    ⟨State.reset, by decide +kernel⟩⟩

theorem witness_PowerEntryRampsUp :
    (∃ (s : State), s.m.saving = false) ∧
    (∃ (s : State), s.m.saving = true) ∧
    (∃ (s : State), s.m.saving = false ∧ s.pwr.latch = none) ∧
    (∃ (s : State) (c : _), s.pwr.latch = some c ∧ s.pwr.enLow = true ∧ s.pwr.coolDown = false) ∧
    (∃ (s : State) (c : _), s.pwr.latch = some c ∧ s.pwr.enLow = true ∧ s.pwr.coolDown = true) ∧
    (∃ (s : State), s.pwr.st = .delay ∧ s.pwr.ready = true) ∧
    (∃ (s : State), s.pwr.st = .delay ∧ s.pwr.ready = false) ∧
    (∃ (s : State), s.pwr.st ≠ .delay) ∧
    (∃ (s : State), s.pwr.st = .ramping ∧ s.pwr.timer = some .ramp) ∧
    (∃ (s : State), s.pwr.st ≠ .ramping) ∧
    (∃ (s : State), s.pwr.qualify = true ∧ s.pwr.timer = none ∧ s.pwr.vinValid = true ∧ s.m.glb.powered = false) ∧
    (∃ (s : State), s.pwr.qualify = true ∧ s.pwr.timer = none ∧ s.pwr.vinValid = true ∧ s.m.glb.powered = true) ∧
    (∃ (s : State), s.pwr.qualify = false) ∧
    (∃ (s : State), s.m.glb.powered = false) ∧
    (∃ (s : State), s.m.glb.powered = true) :=
  ⟨⟨st dark, by decide +kernel⟩,
    ⟨st (saving6 .powerDown), by decide +kernel⟩,
    ⟨{ st dark with pwr := pwr .off none }, by decide +kernel⟩,
    ⟨{ st dark with pwr := { pwr .latched (some 3) with enLow := true, coolDown := false } }, 3, by decide +kernel⟩,
    ⟨{ st dark with pwr := { pwr .latched (some 3) with enLow := true } }, 3, by decide +kernel⟩,
    ⟨{ st dark with pwr := { pwr .delay none with vinValid := true } }, by decide +kernel⟩,
    ⟨{ st dark with pwr := { pwr .delay none with en := false } }, by decide +kernel⟩,
    ⟨{ st dark with pwr := pwr .off none }, by decide +kernel⟩,
    ⟨{ st dark with pwr := { pwr .ramping none with timer := some .ramp } }, by decide +kernel⟩,
    ⟨{ st dark with pwr := pwr .off none }, by decide +kernel⟩,
    ⟨{ st dark with pwr := { pwr .on none with pg := false, qualify := true, vinValid := true } }, by decide +kernel⟩,
    ⟨{ st srv with pwr := { pwr .on none with pg := false, qualify := true, vinValid := true } }, by decide +kernel⟩,
    ⟨st dark, by decide +kernel⟩,
    ⟨{ st dark with pwr := { pwr .off none with postSave := true } }, by decide +kernel⟩,
    ⟨st srv, by decide +kernel⟩⟩

theorem witness_PowerEntryFaultsLatchOff :
    (∃ (s : State), s.pwr.timer = some .breaker ∧ s.m.glb.powered = false) ∧
    (∃ (s : State), s.pwr.timer = some .ramp ∧ s.m.glb.powered = false) ∧
    (∃ (s : State), s.pwr.timer = some .breaker ∧ s.m.canSave) ∧
    (∃ (s : State), s.pwr.timer = none) ∧
    (∃ (s : State) (ii : _), s.pwr.gateOn = true ∧ 45000 < ii ∧ s.m.glb.powered = false) ∧
    (∃ (s : State) (ii : _), s.pwr.gateOn = true ∧ 45000 < ii ∧ s.m.canSave) ∧
    (∃ (ii : _), ii ≤ 45000) ∧
    (∃ (s : State), s.pwr.bias = true ∧ s.pwr.latch = none) ∧
    (∃ (s : State) (c : _), s.pwr.latch = some c) ∧
    (∃ (s : State), s.pwr.bias = true ∧ s.pwr.latch = none ∧ s.m.canSave) ∧
    (∃ (s : State), s.pwr.gateOn = false ∧ s.pwr.fetShort = false ∧ s.m.glb.powered = false) ∧
    (∃ (s : State), s.pwr.gateOn = false ∧ s.pwr.fetShort = false ∧ s.m.canSave) ∧
    (∃ (s : State), (s.pwr.gateOn = true ∨ s.pwr.fetShort = true)) ∧
    (∃ (s : State), s.pwr.st = .on ∧ s.m.glb.powered = true ∧ s.m.mildVlt) ∧
    (∃ (s : State) (ii : _), s.pwr.st = .on ∧ s.pwr.timer = none ∧ 14000 < ii) ∧
    (∃ (ii : _), ii ≤ 14000) ∧
    (∃ (s : State) (ii : _), s.pwr.timer = some .breaker ∧ ii ≤ 14000) ∧
    (∃ (ii : _), 14000 < ii) ∧
    (∃ (s : State) (c : _), s.pwr.bias = true ∧ s.pwr.latch = some c ∧ s.pwr.coolDown = true) ∧
    (∃ (s : State) (c : _) (b : _), s.pwr.bias = true ∧ s.pwr.latch = some c ∧ s.pwr.coolDown = false ∧ (b = true ∨ s.m.glb.powered = true)) ∧
    (∃ (s : State), s.m.glb.powered = false) ∧
    (∃ (s : State), s.pwr.clearHeld = false) ∧
    (∃ (s : State) (c : _), s.pwr.clearHeld = true ∧ s.pwr.latch = some c) :=
  ⟨⟨{ st dark with pwr := { pwr .on none with timer := some .breaker } }, by decide +kernel⟩,
    ⟨{ st dark with pwr := { pwr .ramping none with timer := some .ramp } }, by decide +kernel⟩,
    ⟨{ st (mild srv) with pwr := { pwr .on none with timer := some .breaker } }, by decide +kernel, by exact ⟨by decide +kernel, by decide +kernel, by decide +kernel, by decide +kernel, by unfold Mod.linksOff; decide +kernel, mild_of _ (by decide +kernel) (by decide +kernel)⟩⟩,
    ⟨st srv, by decide +kernel⟩,
    ⟨{ st dark with pwr := pwr .on none }, 45001, by decide +kernel⟩,
    ⟨{ st (mild srv) with pwr := pwr .on none }, 45001, by decide +kernel, by decide +kernel, by exact ⟨by decide +kernel, by decide +kernel, by decide +kernel, by decide +kernel, by unfold Mod.linksOff; decide +kernel, mild_of _ (by decide +kernel) (by decide +kernel)⟩⟩,
    ⟨45000, by decide +kernel⟩,
    ⟨{ st dark with pwr := pwr .off none }, by decide +kernel⟩,
    ⟨{ st dark with pwr := pwr .latched (some 3) }, 3, by decide +kernel⟩,
    ⟨{ st (mild srv) with pwr := pwr .on none }, by decide +kernel, by decide +kernel, by exact ⟨by decide +kernel, by decide +kernel, by decide +kernel, by decide +kernel, by unfold Mod.linksOff; decide +kernel, mild_of _ (by decide +kernel) (by decide +kernel)⟩⟩,
    ⟨{ st dark with pwr := pwr .off none }, by decide +kernel⟩,
    ⟨{ st (mild srv) with pwr := pwr .off none }, by decide +kernel, by decide +kernel, by exact ⟨by decide +kernel, by decide +kernel, by decide +kernel, by decide +kernel, by unfold Mod.linksOff; decide +kernel, mild_of _ (by decide +kernel) (by decide +kernel)⟩⟩,
    ⟨{ st dark with pwr := pwr .on none }, by decide +kernel⟩,
    ⟨{ st (mild srv) with pwr := pwr .on none }, by decide +kernel, by decide +kernel, by exact mild_of _ (by decide +kernel) (by decide +kernel)⟩,
    ⟨{ st srv with pwr := pwr .on none }, 14001, by decide +kernel⟩,
    ⟨14000, by decide +kernel⟩,
    ⟨{ st srv with pwr := { pwr .on none with timer := some .breaker } }, 14000, by decide +kernel⟩,
    ⟨14001, by decide +kernel⟩,
    ⟨{ st dark with pwr := pwr .latched (some 3) }, 3, by decide +kernel⟩,
    ⟨{ st dark with pwr := { pwr .latched (some 3) with coolDown := false, vinValid := true } }, 3, true, by decide +kernel⟩,
    ⟨{ st dark with pwr := pwr .latched (some 3) }, by decide +kernel⟩,
    ⟨{ st dark with pwr := pwr .latched (some 3) }, by decide +kernel⟩,
    ⟨{ st dark with pwr := { pwr .latched (some 3) with clearHeld := true } }, 3, by decide +kernel⟩⟩

theorem witness_SupplyLossesStartASave :
    (∃ (s : State), s.m.glb.powered = false) ∧
    (∃ (s : State), s.m.canSave) ∧
    (∃ (s : State), s.m.glb.powered = false) ∧
    (∃ (s : State), s.m.canSave) ∧
    (∃ (s : State), s.m.canSave) ∧
    (∃ (s : State), s.m.glb.powered = false) ∧
    (∃ (s : State), s.m.glb.powered = true ∧ s.m.restored = false ∧ s.m.saving = false) ∧
    (∃ (s : State), s.m.canSave ∧ s.m.is pgPwr PwrF.pfWarnEn = true) ∧
    (∃ (s : State), (s.m.glb.powered = false ∨ s.m.is pgPwr PwrF.pfWarnEn = false)) :=
  ⟨⟨{ st dark with pwr := pwr .ramping none }, by decide +kernel⟩,
    ⟨st (mild srv), by exact ⟨by decide +kernel, by decide +kernel, by decide +kernel, by decide +kernel, by unfold Mod.linksOff; decide +kernel, mild_of _ (by decide +kernel) (by decide +kernel)⟩⟩,
    ⟨st dark, by decide +kernel⟩,
    ⟨st (mild srv), by exact ⟨by decide +kernel, by decide +kernel, by decide +kernel, by decide +kernel, by unfold Mod.linksOff; decide +kernel, mild_of _ (by decide +kernel) (by decide +kernel)⟩⟩,
    ⟨st (mild srv), by exact ⟨by decide +kernel, by decide +kernel, by decide +kernel, by decide +kernel, by unfold Mod.linksOff; decide +kernel, mild_of _ (by decide +kernel) (by decide +kernel)⟩⟩,
    ⟨st dark, by decide +kernel⟩,
    ⟨State.reset, by decide +kernel⟩,
    ⟨st ((mild srv).set pgPwr PwrF.pfWarnEn 1), by exact ⟨by decide +kernel, by decide +kernel, by decide +kernel, by decide +kernel, by unfold Mod.linksOff; decide +kernel, mild_of _ (by decide +kernel) (by decide +kernel)⟩, by decide +kernel⟩,
    ⟨st (srv.set pgPwr PwrF.pfWarnEn 0), by decide +kernel⟩⟩

theorem witness_DrizzleTestsAndRepairsRegions :
    (∃ (s : State), s.m.works pgDrz = true ∧ s.m.is pgDrz HdrF.enable = true ∧ s.m.drz.under = none ∧ s.m.drz.paused = false ∧ s.m.restored = true) ∧
    (∃ (s : State), (s.m.drz.paused = true ∨ s.m.restored = false ∨ s.m.drz.under.isSome = true)) ∧
    (∃ (s : State) (r : _), s.m.runs = true ∧ s.m.drz.under = some r) ∧
    (∃ (s : State) (r : _), s.m.runs = true ∧ s.m.drz.under = some r) ∧
    (∃ (s : State) (r : _) (f : CellFault), s.m.runs = true ∧ s.m.drz.under = some r ∧ s.m.is pgDrz DrzF.repairEn = true ∧ f.cured = true ∧ mapGetD s.m.drz.used (spareKey r f.column) 0 < spareMax f.column ∧ s.m.boot.repairs.length < 256 ∧ (∀ e, e ∈ s.m.boot.repairs → e.region ≠ r)) ∧
    (∃ (s : State) (r : _) (f : CellFault), s.m.runs = true ∧ s.m.drz.under = some r ∧ s.m.is pgDrz DrzF.repairEn = true ∧ r < 221184 ∧ spareMax f.column ≤ mapGetD s.m.drz.used (spareKey r f.column) 0) ∧
    (∃ (s : State) (r : _), s.m.runs = true ∧ s.m.drz.under = some r) :=
  ⟨⟨st ((srv.set pgDrz HdrF.enable 1).set pgDrz DrzF.region 7), by decide +kernel⟩,
    ⟨State.reset, by decide +kernel⟩,
    ⟨st { srv with drz := { srv.drz with under := some 229375 } }, 229375, by decide +kernel⟩,
    ⟨st { srv with drz := { srv.drz with under := some 5 } }, 5, by decide +kernel⟩,
    ⟨st { srv with drz := { srv.drz with under := some 5 } }, 5, (⟨true, 9, true⟩ : CellFault), by decide +kernel⟩,
    ⟨st { srv with drz := { srv.drz with under := some 5, used := [(spareKey 5 true, spareMax true)] } }, 5, (⟨true, 9, true⟩ : CellFault), by decide +kernel⟩,
    ⟨st { srv with drz := { srv.drz with under := some 5 } }, 5, by decide +kernel⟩⟩

theorem witness_LidAndLifecycleWipeTheStore :
    (∃ (s : State), s.m.glb.powered = true ∧ s.m.glb.lidOpen = false) ∧
    (∃ (s : State), (s.m.glb.powered = false ∨ s.m.glb.lidOpen = true)) ∧
    (∃ (s : State) (via : Via) (target : _) (ok : _), s.m.mailbox via = true ∧ (s.fuse.lifecycle = 0 ∧ target = 1 ∧ ok = true ∨ s.fuse.lifecycle = 1 ∧ target = 2) ∧ s.fuse.keyGen < 63) ∧
    (∃ (s : State) (via : Via) (force : _), s.m.mailbox via = true ∧ (s.fuse.lifecycle = 1 ∨ s.fuse.lifecycle = 2) ∧ (s.m.hasDurable = false ∨ force = true)) ∧
    (∃ (s : State) (via : Via), s.m.mailbox via = true ∧ (s.fuse.lifecycle = 1 ∨ s.fuse.lifecycle = 2) ∧ s.m.hasDurable = true) ∧
    (∃ (s : State) (via : Via) (target : _) (ok : _), s.m.mailbox via = true ∧ (legalMove s.fuse.lifecycle target = false ∨ s.fuse.lifecycle = 0 ∧ ok = false)) :=
  ⟨⟨st srv, by decide +kernel⟩,
    ⟨st dark, by decide +kernel⟩,
    ⟨{ st srv with fuse := { Fuses.reset with lifecycle := 0 } }, .sideband, 1, true, by decide +kernel⟩,
    ⟨{ st srv with fuse := { Fuses.reset with lifecycle := 1 } }, .sideband, false, by decide +kernel⟩,
    ⟨{ st (cap true false) with fuse := { Fuses.reset with lifecycle := 2 } }, .sideband, by decide +kernel⟩,
    ⟨{ st srv with fuse := { Fuses.reset with lifecycle := 3 } }, .sideband, 2, true, by decide +kernel⟩⟩

theorem witness_StartUpPassesItsPhases :
    (∃ (s : State), s.m.glb.powered = true ∧ s.m.phase = 0 ∧ s.m.glb.lidOpen = false) ∧
    (∃ (s : State), s.m.glb.powered = true ∧ s.m.phase = 0 ∧ s.fuse.half = none) ∧
    (∃ (s : State), s.m.phase = 1 ∧ s.m.runs = true ∧ (s.m.bootSlot (s.m.boot.named.getD 1)).ok = true) ∧
    (∃ (s : State), s.m.phase = 1 ∧ s.m.runs = true ∧ (s.m.bootSlot (s.m.boot.named.getD 1)).ok = false ∧ (s.m.bootSlot (3 - s.m.boot.named.getD 1)).ok = true ∧ bit (s.m.get pgGlb HdrF.errSev) 9 = false) ∧
    (∃ (s : State), s.m.phase = 1 ∧ s.m.runs = true ∧ s.m.boot.slot1.ok = false ∧ s.m.boot.slot2.ok = false ∧ s.m.glb.resetBy = none) ∧
    (∃ (s : State), s.m.runs = true ∧ s.m.phase = 3) ∧
    (∃ (s : State) (ch : _), s.m.runs = true ∧ s.m.phase = 3 ∧ ch < 96 ∧ s.m.chn.retired.contains ch = false ∧ bit (s.m.get (pgMch ch) HdrF.errSev) 12 = false) ∧
    (∃ (s : State), s.m.runs = true ∧ s.m.saving = false ∧ (s.m.phase = 5 ∨ s.m.phase = 6) ∧ s.m.aux.reconciling = false ∧ bit (s.m.get pgGlb HdrF.errSev) 11 = false) ∧
    (∃ (s : State), s.m.aux.reconciling = true) :=
  ⟨⟨{ State.reset with fuse := { Fuses.reset with half := some 2 } }, by decide +kernel⟩,
    ⟨State.reset, by decide +kernel⟩,
    ⟨st { (Mod.reset.set pgGlb GlbF.phase 1) with boot := { Mod.reset.boot with named := some 2, slot2 := ⟨true, true, 9⟩ } }, by decide +kernel⟩,
    ⟨st { ((Mod.reset.set pgGlb GlbF.phase 1).set pgGlb HdrF.errSev 0) with boot := { Mod.reset.boot with named := some 2, slot2 := ⟨true, false, 9⟩ } }, by decide +kernel⟩,
    ⟨st { (Mod.reset.set pgGlb GlbF.phase 1) with boot := { Mod.reset.boot with slot1 := ⟨true, false, 9⟩ } }, by decide +kernel⟩,
    ⟨st { (Mod.reset.set pgGlb GlbF.phase 3) with glb := { Mod.reset.glb with pagesUp := true } }, by decide +kernel⟩,
    ⟨st ({ (Mod.reset.set pgGlb GlbF.phase 3) with glb := { Mod.reset.glb with pagesUp := true } }.set (pgMch 95) HdrF.errSev 0), 95, by decide +kernel⟩,
    ⟨st (((Mod.reset.set pgGlb GlbF.phase 6).set pgGlb HdrF.errSev 0).set pgGlb GlbF.lastReset 2), by decide +kernel⟩,
    ⟨st { srv with aux := { srv.aux with reconciling := true } }, by decide +kernel⟩⟩

theorem witness_ResetsStartASaveOrResetAtOnce :
    (∃ (s : State) (x : _), s.m.glb.armUntil = some x) ∧
    (∃ (s : State), s.m.glb.armUntil = none) ∧
    (∃ (s : State) (x : _), s.m.glb.armUntil = some x ∧ s.m.tick ≤ x ∧ s.m.glb.resetBy = none ∧ s.m.restored = true ∧ s.m.glb.tampered = false ∧ s.m.vlt.save = none) ∧
    (∃ (s : State) (x : _), s.m.glb.armUntil = some x ∧ s.m.tick ≤ x ∧ s.m.glb.resetBy = none ∧ s.m.restored = false) ∧
    (∃ (s : State), s.m.glb.armUntil = none ∧ bit (s.m.get pgGlb HdrF.errSev) 0 = false) ∧
    (∃ (s : State) (via : Via) (r : _), s.m.mailboxRom via = true ∧ r < 256 ∧ s.m.glb.halted = false ∧ s.m.glb.resetBy = none ∧ s.m.restored = true ∧ s.m.glb.tampered = false ∧ s.m.vlt.save = none) ∧
    (∃ (s : State) (via : Via) (r : _), s.m.mailboxRom via = true ∧ r < 256 ∧ s.m.glb.halted = true) ∧
    (∃ (s : State) (via : Via) (r : _), (s.m.mailboxRom via = false ∨ 256 ≤ r)) ∧
    (∃ (s : State), s.m.runs = true ∧ s.m.glb.resetBy = none ∧ s.m.restored = true ∧ s.m.glb.tampered = false ∧ s.m.vlt.save = none) ∧
    (∃ (s : State), s.m.runs = false) :=
  ⟨⟨st { srv with glb := { srv.glb with armUntil := some 1000000 } }, 1000000, by decide +kernel⟩,
    ⟨State.reset, by decide +kernel⟩,
    ⟨st { srv with glb := { srv.glb with armUntil := some 1000000 } }, 1000000, by decide +kernel⟩,
    ⟨st { Mod.reset with glb := { Mod.reset.glb with armUntil := some 0 } }, 0, by decide +kernel⟩,
    ⟨st (srv.set pgGlb HdrF.errSev 0), by decide +kernel⟩,
    ⟨st srv, .sideband, 255, by decide +kernel⟩,
    ⟨st { srv with glb := { srv.glb with halted := true } }, .sideband, 255, by decide +kernel⟩,
    ⟨st srv, .sideband, 256, by decide +kernel⟩,
    ⟨st srv, by decide +kernel⟩,
    ⟨st dark, by decide +kernel⟩⟩

theorem witness_ClocksAndWarningsAreFollowed :
    (∃ (s : State) (p : _), p < 8 ∧ s.m.glb.clkStopped.contains p = false ∧ s.m.runs = true ∧ (∀ n, n ∈ s.m.pairPorts p → n < 96 ∧ s.m.hostRole n = true ∧ s.m.ctxsOn n = [] ∧ s.m.isSteward n = false ∧ bit (s.m.get (pgPrt n) HdrF.errSev) 8 = false)) ∧
    (∃ (s : State) (p : _), p < 8 ∧ s.m.glb.clkStopped.contains p = false ∧ s.m.runs = false) ∧
    (∃ (s : State) (p : _), p < 8 ∧ s.m.glb.clkStopped.contains p = true) ∧
    (∃ (s : State) (p : _), p < 8 ∧ s.m.glb.clkStopped.contains p = true ∧ s.m.runs = true ∧ (∀ n, n ∈ s.m.pairPorts p → n < 96 ∧ s.m.hostRole n = true ∧ s.m.quadChanging n = false ∧ s.m.get (pgPrt n) PrtF.hostLinkState = 0)) ∧
    (∃ (s : State) (p : _), p < 8 ∧ s.m.glb.clkStopped.contains p = false) ∧
    (∃ (s : State), s.m.glb.powered = true ∧ s.m.glb.leakLow = false) ∧
    (∃ (s : State), (s.m.glb.powered = false ∨ s.m.glb.leakLow = true)) :=
  ⟨⟨st ((up.set (pgPrt 0) HdrF.errSev 0).set pgStw StwF.valid 0), 0, by decide +kernel⟩,
    ⟨st dark, 7, by decide +kernel⟩,
    ⟨st { srv with glb := { srv.glb with clkStopped := [3] } }, 3, by decide +kernel⟩,
    ⟨st { srv with glb := { srv.glb with clkStopped := [0], holdover := true } }, 0, by decide +kernel⟩,
    ⟨st srv, 7, by decide +kernel⟩,
    ⟨st srv, by decide +kernel⟩,
    ⟨st dark, by decide +kernel⟩⟩

theorem witness_StepRunsTheFrontCommand :
    (∃ (s : State) (c : Instr) (rest : List Instr), s.pending = c :: rest) ∧
    (∃ (s : State), s.pending = []) :=
  ⟨⟨{ State.reset with pending := [.replan, .lidOpen] }, (.replan : Instr), ([.lidOpen] : List Instr), by decide +kernel⟩,
    ⟨State.reset, by decide +kernel⟩⟩

theorem witness_ResetHoldsTheTablesValues :
    (∃ (c : Nat), c < 96) ∧
    (∃ (n : Nat), n < 4096) ∧
    (∃ (n : Nat), n < 8192) :=
  ⟨⟨(95 : Nat), by decide +kernel⟩,
    ⟨(4095 : Nat), by decide +kernel⟩,
    ⟨(8191 : Nat), by decide +kernel⟩⟩

theorem witness_CommandsKeepQueueFusesAndStage :
    ∃ (c : Instr) (s : State) (t : State), exec c s = .next t :=
  ⟨(.coolDownExpire : Instr), State.reset, (State.reset : State), by rfl⟩

theorem witness_EveryStepKeepsFusesAndStageLegal :
    ∃ (s : State) (t : State), step s = .next t :=
  ⟨({ State.reset with pending := [.coolDownExpire] } : State), (State.reset : State), by rfl⟩

end Sys2Proof.Tests
end

section
/-!
PROOF. Journal windows in a module that is in no group (R50 to R52): each window command equals, branch by branch, a completion of the
module it makes; what a completion leaves alone gives the rest.
-/
namespace Sys2Proof.Machine

open Host

/-! ## What a completion leaves of the module -/

section
variable {a b : Mod}

theorem Mod.work_led (h : a.work = b.work) : a.led = b.led := by
  have := congrArg Mod.led h; exact this

theorem Mod.work_mem (h : a.work = b.work) : a.mem = b.mem := by
  have := congrArg Mod.mem h; exact this

theorem Mod.work_fab (h : a.work = b.work) : a.fab = b.fab := by
  have := congrArg Mod.fab h; exact this

theorem Mod.work_mgmt (h : a.work = b.work) : a.mgmt = b.mgmt := by
  have := congrArg Mod.mgmt h; exact this

end

section
variable (m : Mod) (via : Via) (rc : Rc) (d : List Byte)

@[simp] theorem Mod.reply_led : (m.reply via rc d).led = m.led := Mod.work_led (Mod.reply_work m via rc d)
@[simp] theorem Mod.reply_mem : (m.reply via rc d).mem = m.mem := Mod.work_mem (Mod.reply_work m via rc d)
@[simp] theorem Mod.reply_fab : (m.reply via rc d).fab = m.fab := Mod.work_fab (Mod.reply_work m via rc d)
@[simp] theorem Mod.reply_mgmt : (m.reply via rc d).mgmt = m.mgmt := Mod.work_mgmt (Mod.reply_work m via rc d)

end

/-- A command that changes the module alone keeps the queue, the fuses and the power entry stage. -/
theorem kept_setM (s : State) (m : Mod) : Kept s { s with m := m } := ⟨rfl, rfl, rfl⟩

/-! ## The window table -/

theorem mapUpd_of_mapGet {α : Type} {m : Map α} {n : Nat} {v : α} (h : mapGet m n = some v) (f : α → α) :
    mapUpd m n f = mapPut m n (f v) := by simp [mapUpd, h]

/-- The module with `x` as window `w`. -/
def Mod.putWin (m : Mod) (w : Nat) (x : Window) : Mod := { m with led := { m.led with wins := mapPut m.led.wins w x } }

/-- The module with window `w` FREE. -/
def Mod.freeWin (m : Mod) (w : Nat) : Mod := { m with led := { m.led with wins := mapDel m.led.wins w } }

/-- A window just defined in extent `x` (R52). -/
def Window.defined (e : WinEntry) (x : Extent) : Window :=
  { entry := e, st := if x.suspended then .suspended else .open_, epoch := 0, degraded := false, lastSeq := 0, stopsDone := 0 }

/-- Changing a window that is held puts its new value. -/
theorem Mod.updWin_of_mapGet {m : Mod} {w : Nat} {x : Window} (h : mapGet m.led.wins w = some x) (f : Window → Window) :
    m.updWin w f = m.putWin w (f x) := by simp [Mod.updWin, Mod.putWin, mapUpd_of_mapGet h]

/-! ## Mirrors in no group -/

/-- In no group nobody mirrors a window. -/
theorem Mod.mirrorWindow_noGroup {m : Mod} (h : m.grp.map = none) (e : WinEntry) (st : Nat) : m.mirrorWindow e st = (m, []) := by
  simp [Mod.mirrorWindow, Mod.mirrorTo, h]

/-- A window command that no member mirrors completes at once. -/
@[simp] theorem Mod.mirrorOrReply_nil (m : Mod) (via : Via) (w : Nat) (del : Bool) :
    m.mirrorOrReply via w del [] = (if del then m.bgDone via else m).reply via .success [] := by simp [Mod.mirrorOrReply]

/-! ## JW_SET, by its first check that fails (R50) -/

section
variable {s : State} {via : Via} {e : WinEntry}

/-- R50, check 1: a misaligned or missized entry, or a WINDOW_ID out of range, is Invalid Input. -/
theorem exec_jwSet_misshapen (hm : s.m.mailbox via = true) (hs : s.m.winShapeOk e = false) :
    exec (.jwSet via e) s = .next { s with m := s.m.reply via .invalidInput [] } := by
  change execJwSet via e s = _
  simp [execJwSet, Mod.onMailbox_open hm, hs]

/-- R50, check 2: a WINDOW_ID that is not FREE is Busy. -/
theorem exec_jwSet_inUse {w : Window} (hm : s.m.mailbox via = true) (hs : s.m.winShapeOk e = true)
    (hw : mapGet s.m.led.wins e.id = some w) : exec (.jwSet via e) s = .next { s with m := s.m.reply via .busy [] } := by
  change execJwSet via e s = _
  simp [execJwSet, Mod.onMailbox_open hm, hs, hw]

/-- R50, check 3: an entry in no durable extent, or that meets another window, is Invalid Input. -/
theorem exec_jwSet_misplaced (hm : s.m.mailbox via = true) (hs : s.m.winShapeOk e = true)
    (hw : mapGet s.m.led.wins e.id = none) (hp : s.m.winExtent e = none ∨ s.m.winClear e = false) :
    exec (.jwSet via e) s = .next { s with m := s.m.reply via .invalidInput [] } := by
  change execJwSet via e s = _
  rcases hx : s.m.winExtent e with _ | ⟨n, x⟩
  case none => simp [execJwSet, Mod.onMailbox_open hm, hs, hw, hx]
  case some =>
    have hc : s.m.winClear e = false := hp.resolve_left (by simp [hx])
    simp [execJwSet, Mod.onMailbox_open hm, hs, hw, hx, hc]

/-- R50, R52: an entry that passes every check is a window. -/
theorem exec_jwSet_defines {n : Nat} {x : Extent} (hm : s.m.mailbox via = true) (hs : s.m.winShapeOk e = true)
    (hw : mapGet s.m.led.wins e.id = none) (hx : s.m.winExtent e = some (n, x)) (hc : s.m.winClear e = true)
    (hg : s.m.grp.map = none) :
    exec (.jwSet via e) s = .next { s with m := (s.m.putWin e.id (.defined e x)).reply via .success [] } := by
  change execJwSet via e s = _
  have hg' : (s.m.putWin e.id (.defined e x)).grp.map = none := hg
  have hmir := Mod.mirrorWindow_noGroup hg' e (winCode (if x.suspended then .suspended else .open_))
  simp only [Mod.putWin, Window.defined] at hmir ⊢
  simp [execJwSet, Mod.onMailbox_open hm, hs, hw, hx, hc, hmir]

end

/-! ## JW_DELETE and its end (R51) -/

section
variable {s : State} {via : Via} {w : Nat} {x : Window}

/-- R51: a FREE window is deleted at once. -/
theorem exec_jwDelete_free (hm : s.m.mailbox via = true) (hw : w < 32768) (hx : mapGet s.m.led.wins w = none) :
    exec (.jwDelete via w) s = .next { s with m := s.m.reply via .success [] } := by
  change execJwDelete via w s = _
  simp [execJwDelete, Mod.onMailbox_open hm, Nat.not_le.mpr hw, hx]

/-- R51: any other window enters DELETING in the background. -/
theorem exec_jwDelete_starts (hm : s.m.mailbox via = true) (hw : w < 32768) (hx : mapGet s.m.led.wins w = some x)
    (hst : x.st ≠ .deleting) (hb : s.m.bgBusy via = false) (hg : s.m.grp.map = none) :
    exec (.jwDelete via w) s = .next { s with
      m := ((s.m.putWin w { x with st := .deleting }).bgStartOn via 0xC401 w).reply via .background [] } := by
  change execJwDelete via w s = _
  have hg' : ((s.m.putWin w { x with st := .deleting }).bgStartOn via 0xC401 w).grp.map = none := hg
  simp [execJwDelete, Mod.onMailbox_open hm, Nat.not_le.mpr hw, hx, hst, hb, Mod.updWin_of_mapGet hx, Mod.mirrorWindow_noGroup hg']

/-- R51: with no full stop held the window is FREE, and the JW_DELETE that runs on it completes. -/
theorem exec_jwDeleteDone_frees (hx : mapGet s.m.led.wins w = some x) (hst : x.st = .deleting) (hh : s.m.heldStops w = [])
    (hv : s.m.saving = false) (hg : s.m.grp.map = none) (hvia : (s.m.bgOn 0xC401 w).getD .steward = via) :
    exec (.jwDeleteDone w) s = .next { s with m := ((s.m.freeWin w).bgDone via).reply via .success [] } := by
  have hg' : (s.m.freeWin w).grp.map = none := hg
  have hmir := Mod.mirrorWindow_noGroup hg' x.entry 0
  simp only [Mod.freeWin] at hmir ⊢
  change execJwDeleteDone w s = _
  simp [execJwDeleteDone, hx, hst, hh, hv, hvia, hmir]

end

/-- Settles O14: each clause is the command's equation for that branch and what its completion leaves alone. -/
theorem windowCommandsDefineAndDelete : Obligations.WindowCommandsDefineAndDelete := by
  unfold Obligations.WindowCommandsDefineAndDelete
  refine ⟨?set, ?misshapen, ?inUse, ?misplaced, ?deleteFree, ?delete, ?deleteDone⟩
  case set =>
    intro s via e n x hm hs hw hx hc hg
    refine ⟨_, exec_jwSet_defines hm hs hw hx hc hg, kept_setM _ _, ?_, ?_, Mod.reply_last _ _ _ _⟩
    · rw [Mod.reply_led]; rfl
    · rw [Mod.reply_work, Mod.reply_led]; rfl
  case misshapen => exact fun s via e hm hs => ⟨_, exec_jwSet_misshapen hm hs, answers_reply _ _ _ _⟩
  case inUse => exact fun s via e w hm hs hw => ⟨_, exec_jwSet_inUse hm hs hw, answers_reply _ _ _ _⟩
  case misplaced => exact fun s via e hm hs hw hp => ⟨_, exec_jwSet_misplaced hm hs hw hp, answers_reply _ _ _ _⟩
  case deleteFree => exact fun s via w hm hw hx => ⟨_, exec_jwDelete_free hm hw hx, answers_reply _ _ _ _⟩
  case delete =>
    intro s via w x hm hw hx hst hb hg
    refine ⟨_, exec_jwDelete_starts hm hw hx hst hb hg, kept_setM _ _, ?_, ?_, ?_, ?_, ?_, ?_, Mod.reply_last _ _ _ _⟩
    · rw [Mod.reply_led]; exact mapGet_mapPut_same _ _ _
    · intro v hv; rw [Mod.reply_led]; exact mapGet_mapPut_other _ _ _ _ hv
    · rw [Mod.reply_mgmt]; rfl
    · rw [Mod.reply_mem]; rfl
    · rw [Mod.reply_led]; rfl
    · rw [Mod.reply_led]; rfl
  case deleteDone =>
    intro s w x hx hst hh hv hg
    refine ⟨_, _, exec_jwDeleteDone_frees hx hst hh hv hg rfl, kept_setM _ _, ?_, ?_, ?_, ?_, Mod.reply_last _ _ _ _⟩
    · rw [Mod.reply_led]; rfl
    · rw [Mod.reply_mem]; rfl
    · rw [Mod.reply_fab]; rfl
    · rw [Mod.reply_mgmt]; rfl

end Sys2Proof.Machine
end

section
/-!
PROOF. A lane quad's change of role (R154, R155, R161): APPLY equals, branch by branch, the module it makes; the end of the change puts the
configuration in force and then brings up the new ports one by one, each of which touches its own page and its own entry alone.
-/
namespace Sys2Proof.Machine

open Host

/-! ## Fields of different pages, and of different registers -/

/-- A field's place: a 64-bit register inside a page of 4 KiB. -/
abbrev Fld.onPage (f : Fld) : Prop := f.off < 4096 ∧ f.lo < 64

/-- Fields share a key only at the same place of the same page. -/
theorem fldKey_inj {p q : PageId} {f g : Fld} (hf : f.onPage) (hg : g.onPage) (h : fldKey (pageAddr p) f = fldKey (pageAddr q) g) :
    pageAddr p = pageAddr q ∧ f.off = g.off ∧ f.lo = g.lo := by
  have hp := pageAddr_mod p
  have hq := pageAddr_mod q
  obtain ⟨hfo, hfl⟩ := hf
  obtain ⟨hgo, hgl⟩ := hg
  unfold fldKey at h
  omega

section
variable (m : Mod) {p q : PageId} {f g : Fld} (v : Nat)

/-- A write leaves every field of another page alone. -/
theorem Mod.get_set_otherPage (h : pageAddr q ≠ pageAddr p) (hf : f.onPage) (hg : g.onPage) : (m.set p f v).get q g = m.get q g :=
  Mod.get_set_other m p q f g v fun e => h (fldKey_inj hg hf e).1

/-- A write leaves every field at another place alone, of whatever page. -/
theorem Mod.get_set_otherPlace (hf : f.onPage) (hg : g.onPage) (h : g.off ≠ f.off ∨ g.lo ≠ f.lo) : (m.set p f v).get q g = m.get q g :=
  Mod.get_set_other m p q f g v fun e => by
    obtain ⟨-, ho, hl⟩ := fldKey_inj hg hf e
    exact h.elim (fun n => n ho) fun n => n hl

end

/-- Pages of different port engines begin at different addresses. -/
theorem pageAddr_pgPrt_ne {n x : Nat} (h : x ≠ n) : pageAddr (pgPrt x) ≠ pageAddr (pgPrt n) := by
  simp only [pgPrt, pageAddr]; omega

/-- A lane quad's page is no port engine's. -/
theorem pageAddr_pgLnq_ne_pgPrt (q : Nat) {n : Nat} (h : n < 96) : pageAddr (pgLnq q) ≠ pageAddr (pgPrt n) := by
  simp only [pgLnq, pgPrt, pageAddr, pageBase]; omega

/-! ## APPLY (R154, R191) -/

section
variable {s : State} {q : Nat}

theorem exec_lnqApply (hq : q < 32) (hr : s.m.runs = true) : exec (.lnqApply q) s = .next { s with m := s.m.lnqApply q } := by
  change s.onUnit (decide (q < quadCount)) _ = _
  have hhas : decide (q < quadCount) = true := decide_eq_true hq
  rw [State.onUnit_has s hhas, hr, Mod.when_true]

/-- A quad without member quads changes alone. -/
theorem Mod.applySet_alone {m : Mod} (h : (m.askedQuad q).members q = []) : m.applySet q = [(q, m.askedQuad q)] := by
  simp [Mod.applySet, h]

/-- A quad that drives no port has nothing to stop. -/
theorem Mod.stopQuad_noPorts {m : Mod} (h : (m.quad q).ports = []) : m.stopQuad q = m := by
  simp [Mod.stopQuad, h]

/-- R154: the change of a quad that drives no port, while no other runs, is under way. -/
theorem Mod.lnqApply_starts {m : Mod} (hmem : m.isMemberQuad q = false) (hch : m.bfl.changing = [])
    (hok : quadOk q (m.askedQuad q) = true) (halone : (m.askedQuad q).members q = [])
    (hlim : limitsOk (m.quadsWith [(q, m.askedQuad q)]) = true) (hkept : m.stewardKept [(q, m.askedQuad q)] = true)
    (hports : (m.quad q).ports = []) :
    m.lnqApply q = (({ m with bfl := { m.bfl with changing := [(q, m.askedQuad q)] } }).set (pgLnq q) LnqF.apply 1).set (pgLnq q)
      LnqF.changing 1 := by
  have hmo : m.membersOk q = true := by simp [Mod.membersOk, halone]
  simp [Mod.lnqApply, Mod.applySet_alone halone, hmem, hch, hok, hmo, hlim, hkept, Mod.stopQuad_noPorts hports, mapPut]

/-- R191: a change that would take the steward port away is refused. -/
theorem Mod.lnqApply_stewardTaken {m : Mod} (h : m.stewardKept (m.applySet q) = false) : m.lnqApply q = m.refuse (pgLnq q) := by
  simp [Mod.lnqApply, h]

end

/-- Setting a bit of a 64-bit field sets it. -/
theorem bit_setBit_mod {v b : Nat} (h : b < 64) : bit (setBit v b % 2 ^ 64) b = true := by
  simp only [bit, setBit, Nat.testBit_mod_two_pow, Nat.testBit_or, Nat.one_shiftLeft, Nat.testBit_two_pow_self, decide_eq_true h,
    Bool.or_true, Bool.and_true]

/-- An error has its bit once it is noted. -/
theorem Mod.errBits_get_err (m : Mod) (p : PageId) {b : Nat} (d : Nat) (h : b < 64) :
    bit ((m.errBits p b d).get p HdrF.err) b = true := by
  have hset := bit_setBit_mod (v := m.get p HdrF.err) h
  have e (x : Mod) (f : Fld) (v : Nat) (hf : f.onPage) (hoff : f.off = 0x38) : (x.set p f v).get p HdrF.err = x.get p HdrF.err :=
    Mod.get_set_otherPlace x v hf (by decide) (.inl (by rw [hoff]; decide))
  unfold Mod.errBits
  dsimp only
  split
  · rwa [e _ _ _ (by decide) rfl, Mod.get_set_same]
  · rwa [e _ _ _ (by decide) rfl, e _ _ _ (by decide) rfl, e _ _ _ (by decide) rfl, Mod.get_set_same]

/-- A calm field reads the same after a signal. -/
theorem Mod.signal_get (m : Mod) (v : Nat) (q : PageId) (f : Fld) (h : calm (fldKey (pageAddr q) f)) :
    (m.signal v).get q f = m.get q f := by
  have hg := Mod.work_glb (Mod.signal_work m v)
  simp only [Mod.get, mapGetD, Mod.signal_key m v _ h, Mod.fldReset, Mod.inService, hg]

/-- An error that is not fatal stands in PAGE_ERR of a page whose PAGE_ERR no event touches. -/
theorem Mod.raise_get_err (m : Mod) (p : PageId) {b : Nat} (d : Nat) (hb : b < 64) (hsev : bit (m.get p HdrF.errSev) b = false)
    (hcalm : calm (fldKey (pageAddr p) HdrF.err)) : bit ((m.raise p b d).get p HdrF.err) b = true := by
  have hset := Mod.errBits_get_err m p d hb
  unfold Mod.raise
  dsimp only
  rw [hsev]
  simp only [Bool.false_eq_true, if_false]
  split
  · rwa [Mod.signal_get _ _ _ _ hcalm, Mod.count_get _ _ _ _ _ _ hcalm]
  · rwa [Mod.count_get _ _ _ _ _ _ hcalm]

/-- No event touches PAGE_ERR of a lane quad. -/
theorem calm_pgLnq_err (q : Nat) : calm (fldKey (pageAddr (pgLnq q)) HdrF.err) := by
  simp only [calm, fldKey, pageAddr, pgLnq, pageBase, HdrF.err]; omega

/-! ## The end of the change (R154, step 5) -/

/-- Quad `q` under configuration `c`, its change over: what LNQ_ROLE_CHANGE_DONE makes of the quad itself. -/
def Mod.takeQuad (m : Mod) (q : Nat) (c : QuadCfg) : Mod :=
  (((({ m with bfl := { m.bfl with quads := mapPut m.bfl.quads q c, changing := mapDel m.bfl.changing q } }).set (pgLnq q) LnqF.role
    c.role).set (pgLnq q) LnqF.changing 0).newRole (pgLnq q) c.role).set (pgLnq q) LnqF.apply 0

/-- R154, step 5: of a quad without member quads whose ports have stopped, the new configuration is in force and its ports come up. -/
theorem exec_lnqRoleChangeDone_alone {s : State} {q : Nat} {c : QuadCfg} (hq : q < 32) (hr : s.m.runs = true)
    (hc : mapGet s.m.bfl.changing q = some c) (halone : c.members q = []) (ha : s.m.is (pgLnq q) LnqF.apply = true)
    (hstop : s.m.quadStopped q = true) :
    exec (.lnqRoleChangeDone q) s = .next { s with m := (s.m.takeQuad q c).startQuad (s.m.quad q).ports c } := by
  have hhas : decide (q < quadCount) = true := decide_eq_true hq
  change s.onUnit (decide (q < quadCount)) _ = _
  rw [State.onUnit_has s hhas]
  simp [hc, halone, hr, ha, hstop, Mod.takeQuad]

section
variable (m : Mod) (q : Nat) (c : QuadCfg)

theorem Mod.takeQuad_apply : (m.takeQuad q c).get (pgLnq q) LnqF.apply = 0 := Mod.get_set_same _ _ _ _

theorem Mod.takeQuad_roleCode : (m.takeQuad q c).get (pgLnq q) HdrF.roleCode = c.role % 256 := by
  unfold Mod.takeQuad Mod.newRole
  rw [Mod.get_set_otherPlace _ _ (by decide) (by decide) (.inl (by decide)), Mod.get_set_same]
  rfl

end

/-! ## The ports of a change, one by one -/

/-- The module but for its registers and the peer ports: what ports that come up or go leave alone. -/
def Mod.sansPorts (m : Mod) : Mod := { m with regs := [], bfl := { m.bfl with ports := [] } }

/-- A port engine that the new configuration does not drive loses its role. -/
def Mod.dropPort (m : Mod) (n : Nat) : Mod := (m.set (pgPrt n) PrtF.hostLinkState 0).portRole n 0

/-- A port engine of a quad in the peer role trains. -/
def Mod.trainPort (m : Mod) (n : Nat) : Mod := ((m.portRole n 2).set (pgPrt n) PrtF.hostLinkState 0).setBState n bsTraining

/-- R154, steps 4 and 5, of a quad that takes the peer role. -/
theorem Mod.startQuad_peer {m : Mod} {old : List Nat} {c : QuadCfg} (h : c.role = 2) :
    m.startQuad old c = c.ports.foldl Mod.trainPort ((old.filter fun n => !c.ports.contains n).foldl Mod.dropPort m) := by
  unfold Mod.startQuad
  simp only [h, if_true]
  rfl

section
variable (m : Mod) (n : Nat)

theorem Mod.portRole_sansPorts (r : Nat) : (m.portRole n r).sansPorts = m.sansPorts := by
  unfold Mod.portRole; split <;> rfl

theorem Mod.dropPort_sansPorts : (m.dropPort n).sansPorts = m.sansPorts := Mod.portRole_sansPorts _ _ _

theorem Mod.trainPort_sansPorts : (m.trainPort n).sansPorts = m.sansPorts := Mod.portRole_sansPorts m n 2

/-- A port engine's change of role leaves every other page alone. -/
theorem Mod.portRole_get_otherPage (r : Nat) {p : PageId} {f : Fld} (h : pageAddr p ≠ pageAddr (pgPrt n)) (hf : f.onPage) :
    (m.portRole n r).get p f = m.get p f := by
  unfold Mod.portRole Mod.newRole Mod.add
  split
  · rfl
  · rw [Mod.get_set_otherPage _ _ h (by decide) hf, Mod.get_set_otherPage _ _ h (by decide) hf]

theorem Mod.dropPort_get_otherPage {p : PageId} {f : Fld} (h : pageAddr p ≠ pageAddr (pgPrt n)) (hf : f.onPage) :
    (m.dropPort n).get p f = m.get p f := by
  rw [Mod.dropPort, Mod.portRole_get_otherPage _ _ _ h hf, Mod.get_set_otherPage _ _ h (by decide) hf]

theorem Mod.setBState_get (st : Nat) (p : PageId) (f : Fld) :
    (m.setBState n st).get p f = (m.set (pgPrt n) PrtF.peerState st).get p f := rfl

theorem Mod.trainPort_get_otherPage {p : PageId} {f : Fld} (h : pageAddr p ≠ pageAddr (pgPrt n)) (hf : f.onPage) :
    (m.trainPort n).get p f = m.get p f := by
  rw [Mod.trainPort, Mod.setBState_get, Mod.get_set_otherPage _ _ h (by decide) hf, Mod.get_set_otherPage _ _ h (by decide) hf,
    Mod.portRole_get_otherPage _ _ _ h hf]

theorem Mod.portRole_roleCode : (m.portRole n 2).get (pgPrt n) HdrF.roleCode = 2 := by
  unfold Mod.portRole
  split
  · assumption
  · exact Mod.get_set_same _ _ _ _

/-- Port engine `n` is a peer port that trains. -/
def Mod.trains (m : Mod) (n : Nat) : Prop := m.bState n = bsTraining ∧ m.get (pgPrt n) HdrF.roleCode = 2

theorem Mod.trainPort_trains : (m.trainPort n).trains n := by
  refine ⟨Mod.get_set_same _ _ _ _, ?_⟩
  rw [Mod.trainPort, Mod.setBState_get, Mod.get_set_otherPlace _ _ (by decide) (by decide) (.inl (by decide)),
    Mod.get_set_otherPlace _ _ (by decide) (by decide) (.inl (by decide)), Mod.portRole_roleCode]

/-- A port that trains goes on when another, or the same again, comes up. -/
theorem Mod.trains_trainPort {x : Nat} (h : m.trains x) : (m.trainPort n).trains x := by
  by_cases e : x = n
  · subst e
    exact Mod.trainPort_trains m x
  · obtain ⟨hb, hr⟩ := h
    have hpage := pageAddr_pgPrt_ne e
    exact ⟨(Mod.trainPort_get_otherPage m n hpage (by decide)).trans hb, (Mod.trainPort_get_otherPage m n hpage (by decide)).trans hr⟩

end

/-- What every step of a fold keeps holds after it. -/
theorem foldl_keeps {α β : Type} {f : β → α → β} (P : β → Prop) (hkeep : ∀ b a, P b → P (f b a)) (l : List α) :
    ∀ b, P b → P (l.foldl f b) := by
  induction l with
  | nil => exact fun _ h => h
  | cons a t ih => exact fun b h => ih _ (hkeep b a h)

/-- After a fold, what each step brings about for its own element and no step undoes holds of every element. -/
theorem foldl_establishes {α β : Type} {f : β → α → β} (P : α → β → Prop) (hown : ∀ b a, P a (f b a))
    (hkeep : ∀ b a x, P x b → P x (f b a)) (l : List α) : ∀ b x, x ∈ l → P x (l.foldl f b) := by
  induction l with
  | nil => intro b x hx; cases hx
  | cons a t ih =>
    intro b x hx
    rcases List.mem_cons.mp hx with rfl | hx
    · exact foldl_keeps (P x) (fun b a => hkeep b a x) t _ (hown b x)
    · exact ih _ x hx

/-- A fold of steps that each leave a value alone leaves it alone. -/
theorem foldl_leaves {α β γ : Type} (g : β → γ) {f : β → α → β} (l : List α) (h : ∀ a, a ∈ l → ∀ b, g (f b a) = g b) :
    ∀ b, g (l.foldl f b) = g b := by
  induction l with
  | nil => exact fun _ => rfl
  | cons a t ih =>
    intro b
    rw [List.foldl_cons, ih (fun x hx => h x (List.mem_cons_of_mem _ hx)), h a List.mem_cons_self]

section
variable (m : Mod) (old : List Nat) {c : QuadCfg} (hc : c.role = 2)
include hc

theorem Mod.startQuad_sansPorts : (m.startQuad old c).sansPorts = m.sansPorts := by
  rw [Mod.startQuad_peer hc, foldl_leaves Mod.sansPorts _ fun n _ a => Mod.trainPort_sansPorts a n,
    foldl_leaves Mod.sansPorts _ fun n _ a => Mod.dropPort_sansPorts a n]

/-- Ports that come up or go leave the pages of lane quads alone. -/
theorem Mod.startQuad_get_pgLnq (hold : ∀ n, n ∈ old → n < 96) (hnew : ∀ n, n ∈ c.ports → n < 96) (q : Nat) {f : Fld} (hf : f.onPage) :
    (m.startQuad old c).get (pgLnq q) f = m.get (pgLnq q) f := by
  rw [Mod.startQuad_peer hc,
    foldl_leaves (fun a : Mod => a.get (pgLnq q) f) _ fun n hn a =>
      Mod.trainPort_get_otherPage a n (pageAddr_pgLnq_ne_pgPrt q (hnew n hn)) hf,
    foldl_leaves (fun a : Mod => a.get (pgLnq q) f) _ fun n hn a =>
      Mod.dropPort_get_otherPage a n (pageAddr_pgLnq_ne_pgPrt q (hold n (List.mem_filter.mp hn).1)) hf]

/-- R155: every port of the new configuration trains. -/
theorem Mod.startQuad_trains {n : Nat} (hn : n ∈ c.ports) : (m.startQuad old c).trains n := by
  rw [Mod.startQuad_peer hc]
  exact foldl_establishes (fun n a => Mod.trains a n) Mod.trainPort_trains (fun a n x h => Mod.trains_trainPort a n h) _ _ n hn

end

/-- Settles O28: a change starts, or is refused, as the equations of APPLY say; at its end the quad takes the configuration, and its ports
come up without touching it. -/
theorem quadsChangeRole : Obligations.QuadsChangeRole := by
  unfold Obligations.QuadsChangeRole
  refine ⟨?starts, ?refused, ?done⟩
  case starts =>
    intro s q hq hr hmem hch hok halone hlim hkept hports
    refine ⟨_, exec_lnqApply hq hr, kept_setM _ _, ?_⟩
    rw [Mod.lnqApply_starts hmem hch hok halone hlim hkept hports]
    refine ⟨rfl, rfl, ?_, Mod.get_set_same _ _ _ _⟩
    rw [Mod.get_set_otherPlace _ _ (by decide) (by decide) (.inl (by decide)), Mod.get_set_same]
    rfl
  case refused =>
    intro s q hq hr hkept hsev
    refine ⟨_, exec_lnqApply hq hr, kept_setM _ _, ?_⟩
    rw [Mod.lnqApply_stewardTaken hkept]
    exact ⟨Mod.raise_work _ _ _ _ hsev, Mod.raise_get_err _ _ _ (by decide) hsev (calm_pgLnq_err q)⟩
  case done =>
    intro s q c hq hr hc halone hrole hbound hold ha hstop
    have hnew : ∀ n, n ∈ c.ports → n < 96 := fun n hn => by have := List.mem_range'_1.mp hn; omega
    have hrest := Mod.startQuad_sansPorts (s.m.takeQuad q c) (s.m.quad q).ports hrole
    refine ⟨_, exec_lnqRoleChangeDone_alone hq hr hc halone ha hstop, kept_setM _ _, ?mem, ?fab, ?quads, ?changing, ?apply, ?role,
      fun n hn => Mod.startQuad_trains _ _ hrole hn⟩
    case mem => exact (congrArg Mod.mem hrest :)
    case fab => exact (congrArg Mod.fab hrest :)
    case quads =>
      have hquads := congrArg (fun x : Mod => mapGet x.bfl.quads q) hrest
      exact hquads.trans (mapGet_mapPut_same _ _ _)
    case changing => exact (congrArg (fun x : Mod => x.bfl.changing) hrest :)
    case apply => rw [Mod.startQuad_get_pgLnq _ _ hrole hold hnew q (by decide), Mod.takeQuad_apply]
    case role => rw [Mod.startQuad_get_pgLnq _ _ hrole hold hnew q (by decide), Mod.takeQuad_roleCode, hrole]

end Sys2Proof.Machine
end

section
/-!
PROOF. The steward function's FLR and a register store out of order (R209): `Mod.flrRegs` leaves out cells, and a read of a store stops at the
first key above its own, so where the keys do not rise leaving a cell out can lay another bare.
-/
namespace Sys2Proof.Machine

open Host

/-! ## A store whose keys rise reads the same with other cells left out -/

/-- The keys of a store rise strictly: its canonical form. -/
def Rising {α : Type} (l : Map α) : Prop := l.Pairwise fun a b => a.1 < b.1

section
variable {α : Type} {l : Map α} {n : Nat}

/-- A store with no key at or below `n` holds nothing under `n`. -/
theorem mapGet_of_above (h : ∀ e, e ∈ l → n < e.1) : mapGet l n = none := by
  cases l with
  | nil => rfl
  | cons e t =>
    have he := h e List.mem_cons_self
    simp [mapGet, he, Nat.ne_of_gt he]

/-- Leaving cells of other keys out does not change what a key reads as. -/
theorem mapGet_filter_of_rising (hl : Rising l) {keep : Nat × α → Bool} (hk : ∀ v, keep (n, v) = true) :
    mapGet (l.filter keep) n = mapGet l n := by
  induction l with
  | nil => rfl
  | cons e t ih =>
    obtain ⟨k, v⟩ := e
    obtain ⟨hhead, htail⟩ := List.pairwise_cons.mp hl
    specialize ih htail
    rcases hkeep : keep (k, v) with _ | _
    case true => simp [hkeep, mapGet, ih]
    case false =>
      have hne : k ≠ n := by rintro rfl; simp [hk] at hkeep
      rw [List.filter_cons_of_neg (by simp [hkeep]), ih]
      by_cases hlt : n < k
      · have habove : ∀ e, e ∈ t → n < e.1 := fun e he => Nat.lt_trans hlt (hhead e he)
        simp [mapGet, hne, hlt, mapGet_of_above habove]
      · simp [mapGet, hne, hlt]

/-- A store after a put holds the cell put and cells it held. -/
theorem mem_mapPut {v : α} {e : Nat × α} (h : e ∈ mapPut l n v) : e = (n, v) ∨ e ∈ l := by
  induction l with
  | nil => exact .inl (List.mem_singleton.mp h)
  | cons c t ih =>
    unfold mapPut at h
    split at h
    · exact (List.mem_cons.mp h).imp_right (List.mem_cons_of_mem c)
    split at h
    · exact List.mem_cons.mp h
    · rcases List.mem_cons.mp h with rfl | h
      · exact .inr List.mem_cons_self
      · exact (ih h).imp_right (List.mem_cons_of_mem c)

/-- A put keeps the keys rising. -/
theorem rising_mapPut (hl : Rising l) (v : α) : Rising (mapPut l n v) := by
  induction l with
  | nil => exact List.pairwise_singleton _ _
  | cons e t ih =>
    obtain ⟨k, w⟩ := e
    obtain ⟨hhead, htail⟩ := List.pairwise_cons.mp hl
    unfold mapPut
    by_cases heq : k = n
    · rw [if_pos heq]
      exact List.pairwise_cons.mpr ⟨heq ▸ hhead, htail⟩
    rw [if_neg heq]
    by_cases hlt : n < k
    · rw [if_pos hlt]
      refine List.pairwise_cons.mpr ⟨fun e he => ?_, hl⟩
      rcases List.mem_cons.mp he with rfl | he
      · exact hlt
      · exact Nat.lt_trans hlt (hhead e he)
    · rw [if_neg hlt]
      refine List.pairwise_cons.mpr ⟨fun e he => ?_, ih htail⟩
      rcases mem_mapPut he with rfl | he
      · exact Nat.lt_of_le_of_ne (Nat.le_of_not_lt hlt) heq
      · exact hhead e he

end

/-! ## What an FLR leaves of FLR_COUNT -/

/-- FLR_COUNT advances from what the registers read as once the FLR has left out those it resets. -/
theorem Mod.flr_get_flrCount (m : Mod) :
    m.flr.get pgStw StwF.flrCount = ((m.functionReset 2).flrRegs.get pgStw StwF.flrCount + 1) % 65536 :=
  Mod.get_set_same _ _ _ _

/-- With no fetch to end, the function's reset writes its enables and clears its tables. -/
theorem Mod.functionReset_idle {m : Mod} (hf : m.stw.fetch = none) (r : Nat) :
    m.functionReset r = { (((m.set pgStw StwF.bme 0).set pgStw StwF.msixEn 0).set pgStw StwF.funcMask 0).set pgStw StwF.d3hot 0 with
      stw := { m.stw with bars := [], msix := [], pend := [] } } := by
  simp [Mod.functionReset, Mod.fetchEnd, hf]

/-- With no fetch to end, the function's reset keeps the keys of the register store rising. -/
theorem Mod.functionReset_rising {m : Mod} (hf : m.stw.fetch = none) (h : Rising m.regs) (r : Nat) :
    Rising (m.functionReset r).regs := by
  rw [Mod.functionReset_idle hf]
  exact rising_mapPut (rising_mapPut (rising_mapPut (rising_mapPut h _) _) _) _

theorem fieldAt_flrCount : fieldAt (fldKey (pageAddr pgStw) StwF.flrCount) = some (pgStw, StwF.flrCount) := by decide +kernel

/-- An FLR's reset of block-page fields leaves FLR_COUNT alone where the keys rise. -/
theorem Mod.flrRegs_get_flrCount {m : Mod} (h : Rising m.regs) : m.flrRegs.get pgStw StwF.flrCount = m.get pgStw StwF.flrCount := by
  have hros : flrResets pgStw StwF.flrCount = false := by decide
  simp only [Mod.get, Mod.flrRegs, mapGetD]
  rw [mapGet_filter_of_rising h]
  · rfl
  · intro v
    simp only [fieldAt_flrCount, hros, Bool.not_false]

/-- R209, R213: where the keys of the register store rise, FLR_COUNT outlives the FLR and counts it. -/
theorem Mod.flr_counts_of_rising {m : Mod} (hf : m.stw.fetch = none) (h : Rising m.regs) :
    m.flr.get pgStw StwF.flrCount = (m.get pgStw StwF.flrCount + 1) % 65536 := by
  have hreset : (m.functionReset 2).get pgStw StwF.flrCount = m.get pgStw StwF.flrCount := by
    rw [Mod.functionReset_idle hf]
    have hsets : (((m.set pgStw StwF.bme 0).set pgStw StwF.msixEn 0 |>.set pgStw StwF.funcMask 0).set pgStw StwF.d3hot 0).get pgStw
        StwF.flrCount = m.get pgStw StwF.flrCount := by
      simp (disch := decide) only [Mod.get_set_other]
    exact hsets
  rw [Mod.flr_get_flrCount, Mod.flrRegs_get_flrCount (Mod.functionReset_rising hf h 2), hreset]

/-! ## A store out of order -/

/-- The machine after reset, but that its register store lists FW_ADDR, which an FLR resets, in front of an FLR_COUNT of 5, although
FW_ADDR has the higher key: FLR_COUNT reads 0 until FW_ADDR is left out. -/
def unruly : State :=
  { State.reset with
    m := { Mod.reset with
      regs := [(fldKey (pageAddr pgStw) StwF.fwAddr, 0), (fldKey (pageAddr pgStw) StwF.flrCount, 5)] } }

theorem exec_flr {s : State} (h : s.m.is pgStw StwF.valid = true) : exec .flr s = .next { s with m := s.m.flr } := by
  change s.onM (fun m => m.when (m.is pgStw StwF.valid) Mod.flr) = _
  rw [State.onM_eq, h, Mod.when_true]

theorem unruly_flrCount : unruly.m.get pgStw StwF.flrCount = 0 := by decide +kernel

theorem unruly_flr_flrCount : unruly.m.flr.get pgStw StwF.flrCount = 6 := by decide +kernel

/-- Refutes O31: its clause on the FLR is about every register store, also one whose keys do not rise; in `unruly`, FLR_COUNT goes from
0 to 6. Where the keys rise, as in every store that puts have made, the FLR does count itself: `Mod.flr_counts_of_rising`. -/
theorem not_stewardFunctionChanges : ¬ Obligations.StewardFunctionChanges := by
  unfold Obligations.StewardFunctionChanges
  rintro ⟨-, -, -, hflr, -⟩
  have hvalid : unruly.m.is pgStw StwF.valid = true := by decide +kernel
  obtain ⟨t, ht, -, -, -, -, hcount, -⟩ := hflr unruly hvalid rfl
  obtain rfl := Host.Outcome.next.inj ((exec_flr hvalid).symm.trans ht)
  have hsix : (6 : Nat) = (0 + 1) % 65536 := unruly_flr_flrCount ▸ unruly_flrCount ▸ hcount
  exact absurd hsix (by decide)

end Sys2Proof.Machine
end

section
/-!
PROOF. Spells and floors (R365 to R380): what the close of one spell's accounts and the opening of the next leave alone is one value,
`Mod.lasting`, which every step of the boundary keeps; a floor-table entry lies in no block page, so the completion of FLOOR_SET cannot
touch it.
-/
namespace Sys2Proof.Machine

open Host

/-! ## What events leave of keys in other pages (R447 to R453) -/

/-- A key of the register store outside the 4 KiB of page `p`. -/
def offPage (p : PageId) (k : Nat) : Prop := k / 64 / 4096 ≠ pageAddr p / 4096

theorem offPage_ne {p : PageId} {k : Nat} (h : offPage p k) {f : Fld} (hf : f.onPage) : k ≠ fldKey (pageAddr p) f := by
  rintro rfl
  have hp := pageAddr_mod p
  obtain ⟨hoff, hlo⟩ := hf
  refine h ?_
  simp only [fldKey]
  omega

theorem evtCount_onPage (i : Nat) : (evtCount i).onPage :=
  have ⟨_, hoff, hlo⟩ := evtCount_place i
  ⟨by omega, hlo⟩

theorem evtOvf_onPage (i : Nat) : (evtOvf i).onPage :=
  have ⟨_, hoff, hlo⟩ := evtOvf_place i
  ⟨by omega, hlo⟩

section
variable (m : Mod) {p : PageId} {k : Nat} (hp : offPage p k)
include hp

theorem Mod.set_offPage {f : Fld} (hf : f.onPage) (v : Nat) : mapGet (m.set p f v).regs k = mapGet m.regs k :=
  Mod.set_regKey _ _ _ _ _ (offPage_ne hp hf)

theorem Mod.bumpCounter_offPage (i n : Nat) : mapGet (m.bumpCounter p i n).1.regs k = mapGet m.regs k := by
  unfold Mod.bumpCounter
  dsimp only
  split
  · exact Mod.set_offPage _ hp (evtCount_onPage i) _
  · rw [Mod.set_offPage _ hp (evtOvf_onPage i), Mod.set_offPage _ hp (evtCount_onPage i)]

theorem Mod.countRaw_offPage (e n : Nat) : mapGet (m.countRaw p e n).1.regs k = mapGet m.regs k := by
  unfold Mod.countRaw
  refine foldl_key (β := Mod × List Nat) (fun b => b.1) _ k ?_ (upto 4) (m, [])
  intro b i
  dsimp only
  split
  · exact Mod.bumpCounter_offPage _ hp _ _
  · rfl

theorem Mod.errBits_offPage (b d : Nat) : mapGet (m.errBits p b d).regs k = mapGet m.regs k := by
  refine Mod.errBits_key m p b d k fun f hf => offPage_ne hp ?_
  have hplace := err_place f hf
  exact ⟨by omega, hplace.2⟩

variable (hstw : offPage pgStw k)
include hstw

omit hp in
theorem Mod.msixIssue_offPage (v : Nat) : mapGet (m.msixIssue v).regs k = mapGet m.regs k := by
  unfold Mod.msixIssue
  rw [Mod.send_regs]
  exact Mod.countRaw_offPage m hstw 0x100 1

omit hp in
theorem Mod.signal_offPage (v : Nat) : mapGet (m.signal v).regs k = mapGet m.regs k := by
  unfold Mod.signal
  split
  · split
    · split
      · split
        · rfl
        · exact Mod.msixIssue_offPage m hstw v
      · rw [Mod.setPend_regs]
    · rw [Mod.errBits_offPage _ hstw]
      exact Mod.set_offPage _ hstw (by decide) _
  · rfl

theorem Mod.errQuiet_offPage (b d : Nat) : mapGet (m.errQuiet p b d).regs k = mapGet m.regs k := by
  have hnote : mapGet ((m.errBits p b d).countRaw p evErrors 1).1.regs k = mapGet m.regs k := by
    rw [Mod.countRaw_offPage _ hp, Mod.errBits_offPage _ hp]
  have hsignal (a : Mod) (c : Bool) (v : Nat) : mapGet (if c then a.signal v else a).regs k = mapGet a.regs k := by
    cases c
    · rfl
    · exact Mod.signal_offPage a hstw v
  unfold Mod.errQuiet
  extract_lets was noted signalled
  have hsignalled : mapGet signalled.regs k = mapGet m.regs k := (hsignal _ _ _).trans hnote
  split
  · exact (Mod.set_offPage _ hp (by decide) _).trans hsignalled
  · exact hsignalled

variable (hpmu : offPage pgPmu k)
include hpmu

omit hp in
theorem Mod.wrapped_offPage (q : PageId) (i : Nat) : mapGet (m.wrapped q i).regs k = mapGet m.regs k := by
  unfold Mod.wrapped
  dsimp only
  split
  · rw [Mod.errQuiet_offPage _ hpmu hstw, Mod.set_offPage _ hpmu (by decide), Mod.set_offPage _ hpmu (by decide),
      Mod.errQuiet_offPage _ hpmu hstw]
  · exact Mod.errQuiet_offPage _ hpmu hstw _ _

/-- An event leaves alone every key but those of its own page and of the PMU and STW pages. -/
theorem Mod.count_offPage (e n : Nat) : mapGet (m.count p e n).regs k = mapGet m.regs k := by
  unfold Mod.count
  dsimp only
  rw [foldl_key (fun b => b) (fun a i => a.wrapped p i) k fun b i => Mod.wrapped_offPage b hstw hpmu p i]
  exact Mod.countRaw_offPage m hp e n

end

/-! ## Floor-table entries (R379) -/

/-- A field's place: a 64-bit register inside a floor-table entry of 64 bytes. -/
abbrev Fld.inEntry (f : Fld) : Prop := f.off < 64 ∧ f.lo < 64

/-- Fields of floor-table entries share a key only at the same place of the same entry. -/
theorem floorKey_inj {n k : Nat} {f g : Fld} (hf : f.inEntry) (hg : g.inEntry) (h : fldKey (floorAt n) f = fldKey (floorAt k) g) :
    n = k ∧ f.off = g.off ∧ f.lo = g.lo := by
  obtain ⟨hfo, hfl⟩ := hf
  obtain ⟨hgo, hgl⟩ := hg
  unfold fldKey floorAt at h
  omega

theorem offPage_floorKey {p : PageId} (hp : pageAddr p < 0x400000) (n : Nat) (f : Fld) (hf : f.lo < 64) :
    offPage p (fldKey (floorAt n) f) := by
  unfold offPage fldKey floorAt
  omega

section
variable (m : Mod) {n : Nat} {f : Fld}

theorem Mod.floorFld_congr {a b : Mod} (h : mapGet a.regs (fldKey (floorAt n) f) = mapGet b.regs (fldKey (floorAt n) f)) :
    a.floorFld n f = b.floorFld n f := by
  simp only [Mod.floorFld, mapGetD, h]

theorem Mod.floorFld_setAt_same (v : Nat) : (m.setAt (floorAt n) f v).floorFld n f = v % 2 ^ f.width :=
  mapGetD_mapPut_same _ _ _ _

theorem Mod.floorFld_setAt_other {k : Nat} {g : Fld} (hf : f.inEntry) (hg : g.inEntry)
    (h : k ≠ n ∨ g.off ≠ f.off ∨ g.lo ≠ f.lo) (v : Nat) :
    (m.setAt (floorAt n) f v).floorFld k g = m.floorFld k g := by
  refine Mod.floorFld_congr (mapGet_mapPut_other _ _ _ _ fun e => ?_)
  obtain ⟨hk, ho, hl⟩ := floorKey_inj hg hf e
  exact h.elim (fun c => c hk) fun c => c.elim (fun c => c ho) fun c => c hl

/-- A completion leaves the floor table alone. -/
theorem Mod.reply_floorFld (hf : f.inEntry) (via : Via) (rc : Rc) (d : List Byte) : (m.reply via rc d).floorFld n f = m.floorFld n f := by
  refine Mod.floorFld_congr ?_
  unfold Mod.reply
  rw [Mod.send_regs]
  exact Mod.count_offPage m (offPage_floorKey (by decide) n f hf.2) (offPage_floorKey (by decide) n f hf.2)
    (offPage_floorKey (by decide) n f hf.2) _ _

end

section
variable (m : Mod) (n floor gust weight : Nat)

theorem Mod.setFloor_work : (m.setFloor n floor gust weight).work = { m with spl := { m.spl with check := true } }.work := rfl

theorem Mod.setFloor_floor : (m.setFloor n floor gust weight).floorFld n FloorEF.floor = floor % 2 ^ 26 := by
  change (Mod.setAt _ (floorAt n) FloorEF.weight weight).floorFld n FloorEF.floor = _
  rw [Mod.floorFld_setAt_other _ (by decide) (by decide) (.inr (by decide)),
    Mod.floorFld_setAt_other _ (by decide) (by decide) (.inr (by decide)), Mod.floorFld_setAt_same]
  rfl

theorem Mod.setFloor_gustMax : (m.setFloor n floor gust weight).floorFld n FloorEF.gustMax = gust % 2 ^ 26 := by
  change (Mod.setAt _ (floorAt n) FloorEF.weight weight).floorFld n FloorEF.gustMax = _
  rw [Mod.floorFld_setAt_other _ (by decide) (by decide) (.inr (by decide)), Mod.floorFld_setAt_same]
  rfl

theorem Mod.setFloor_weight : (m.setFloor n floor gust weight).floorFld n FloorEF.weight = weight % 256 :=
  Mod.floorFld_setAt_same _ _

/-- FLOOR_SET leaves every other master's entry alone. -/
theorem Mod.setFloor_otherMaster {k : Nat} (hk : k ≠ n) {f : Fld} (hf : f.inEntry) :
    (m.setFloor n floor gust weight).floorFld k f = m.floorFld k f := by
  have hset (a : Mod) {g : Fld} (hg : g.inEntry) (v : Nat) : (a.setAt (floorAt n) g v).floorFld k f = a.floorFld k f :=
    Mod.floorFld_setAt_other a hg hf (.inl hk) v
  change (Mod.setAt _ (floorAt n) FloorEF.weight weight).floorFld k f = _
  rw [hset _ (by decide), hset _ (by decide), hset _ (by decide), hset _ (by decide)]

end

/-! ## FLOOR_SET and FLOOR_GET (R380) -/

/-- What FLOOR_GET answers: the eight registers of an entry. -/
def Mod.floorBytes (m : Mod) (n : Nat) : List Byte := (upto 8).flatMap fun i => leBytes 8 (m.floorWord n (8 * i))

section
variable {s : State} {via : Via} {n : Nat} (hm : s.m.mailbox via = true)
include hm

theorem exec_floorSet_writes (hn : n ≤ 4116) (f g w : Nat) :
    exec (.floorSet via n f g w) s = .next { s with m := (s.m.setFloor n f g w).reply via .success [] } := by
  change execFloorSet via n f g w s = _
  simp [execFloorSet, Mod.onMailbox_open hm, masterOk, hn]

theorem exec_floorSet_reserved (hn : 4116 < n) (f g w : Nat) :
    exec (.floorSet via n f g w) s = .next { s with m := s.m.reply via .invalidInput [] } := by
  change execFloorSet via n f g w s = _
  simp [execFloorSet, Mod.onMailbox_open hm, masterOk, hn]

theorem exec_floorGet_reads (hn : n ≤ 4116) :
    exec (.floorGet via n) s = .next { s with m := s.m.reply via .success (s.m.floorBytes n) } := by
  change execFloorGet via n s = _
  simp [execFloorGet, Mod.onMailbox_open hm, masterOk, hn, Mod.floorBytes]

theorem exec_floorGet_reserved (hn : 4116 < n) :
    exec (.floorGet via n) s = .next { s with m := s.m.reply via .invalidInput [] } := by
  change execFloorGet via n s = _
  simp [execFloorGet, Mod.onMailbox_open hm, masterOk, hn]

end

@[simp] theorem length_leBytes (n : Nat) : ∀ v, (leBytes n v).length = n := by
  induction n with
  | zero => exact fun _ => rfl
  | succ n ih => exact fun v => congrArg (· + 1) (ih (v / 256))

/-- Bytes spell the number they were made of, cut to their count. -/
theorem leNat_leBytes (n : Nat) : ∀ v, leNat (leBytes n v) = v % 256 ^ n := by
  induction n with
  | zero => exact fun v => (Nat.mod_one v).symm
  | succ n ih =>
    intro v
    rw [leBytes, leNat, ih, Nat.pow_succ', Nat.mod_mul, BitVec.toNat_ofNat]

/-- Of equally long pieces one after another, the bytes at a piece's place are the piece. -/
theorem slice_flatMap {g : Nat → List Byte} {w : Nat} (hw : ∀ x, (g x).length = w) (l : List Nat) :
    ∀ i (h : i < l.length), slice (l.flatMap g) (w * i) w = g l[i] := by
  induction l with
  | nil => exact fun i h => absurd h (Nat.not_lt_zero i)
  | cons a t ih =>
    intro i h
    cases i with
    | zero => simp [slice, List.take_left' (hw a)]
    | succ i =>
      have hdrop : (g a ++ t.flatMap g).drop (w * (i + 1)) = (t.flatMap g).drop (w * i) := by
        rw [Nat.mul_succ, Nat.add_comm, ← List.drop_drop, List.drop_left' (hw a)]
      rw [slice, List.flatMap_cons, hdrop]
      exact ih i (Nat.lt_of_succ_lt_succ h)

theorem Mod.length_floorBytes (m : Mod) (n : Nat) : (m.floorBytes n).length = 64 := by
  rw [Mod.floorBytes, List.length_flatMap]
  simp only [length_leBytes]
  rfl

/-- FLOOR_GET answers each register of the entry at its own offset. -/
theorem Mod.leAt_floorBytes (m : Mod) (n : Nat) {i : Nat} (hi : i < 8) :
    leAt (m.floorBytes n) (8 * i) 8 = m.floorWord n (8 * i) % 2 ^ 64 := by
  have hpiece := slice_flatMap (g := fun i => leBytes 8 (m.floorWord n (8 * i))) (fun _ => length_leBytes 8 _) (upto 8) i
    (by simpa [upto] using hi)
  rw [leAt, Mod.floorBytes, hpiece, leNat_leBytes]
  simp [upto]

/-! ## Time passes (R362, R447) -/

/-- A counter counts `n`, and a wrap is reported (R453). -/
def Mod.bumpReport (m : Mod) (p : PageId) (k n : Nat) : Mod :=
  let r := m.bumpCounter p k n
  if r.2 then r.1.wrapped p k else r.1

theorem Mod.bumpReport_work (m : Mod) (p : PageId) (k n : Nat) : (m.bumpReport p k n).work = m.work := by
  unfold Mod.bumpReport
  dsimp only
  split
  · rw [Mod.wrapped_work, Mod.bumpCounter_work]
  · exact Mod.bumpCounter_work m p k n

theorem Mod.bumpReport_key (m : Mod) (p : PageId) (i n k : Nat) (h : calm k) : mapGet (m.bumpReport p i n).regs k = mapGet m.regs k := by
  unfold Mod.bumpReport
  dsimp only
  split
  · rw [Mod.wrapped_key _ _ _ _ h, Mod.bumpCounter_key _ _ _ _ _ h]
  · exact Mod.bumpCounter_key m p i n k h

/-- Of the counters that are on, each for which `cond` holds counts `amount`. -/
def Mod.bumpWhere (m : Mod) (cond : Mod → PageId → Nat → Bool) (amount : Mod → PageId → Nat → Nat) : Mod :=
  m.regs.foldl (fun (a : Mod) e => match enableKey e.1 with
    | none => a
    | some (p, k) => if cond a p k then a.bumpReport p k (amount a p k) else a) m

section
variable (m : Mod) (cond : Mod → PageId → Nat → Bool) (amount : Mod → PageId → Nat → Nat)

theorem Mod.bumpWhere_work : (m.bumpWhere cond amount).work = m.work := by
  unfold Mod.bumpWhere
  refine foldl_work (fun b => b) _ (fun a e => ?_) m.regs m
  split
  · rfl
  · split
    · exact Mod.bumpReport_work _ _ _ _
    · rfl

theorem Mod.bumpWhere_key (k : Nat) (h : calm k) : mapGet (m.bumpWhere cond amount).regs k = mapGet m.regs k := by
  unfold Mod.bumpWhere
  refine foldl_key (fun b => b) _ k (fun a e => ?_) m.regs m
  split
  · rfl
  · split
    · exact Mod.bumpReport_key _ _ _ _ _ h
    · rfl

end

theorem Mod.countAll_eq (m : Mod) (ev : Nat) : m.countAll ev = m.bumpWhere (fun a p k => a.counts p k ev) fun _ _ _ => 1 := rfl

/-- The ticks of `n` that counter `k` of page `p` has to count. -/
def Mod.ticksFor (n : Nat) (a : Mod) (p : PageId) (k : Nat) : Nat := a.tickShare p (a.get p (evtEvent k)) n

/-- Every counter of a tick event counts its share of `n` ticks. -/
def Mod.countTicks (m : Mod) (n : Nat) : Mod :=
  m.bumpWhere (fun a p k => a.ticksFor n p k != 0 && a.counts p k (a.get p (evtEvent k))) fun a p k => a.ticksFor n p k

theorem Mod.advance_eq (m : Mod) {n : Nat} (h : n ≠ 0) : m.advance n = { m.countTicks n with tick := (m.countTicks n).tick + n } := by
  unfold Mod.advance
  rw [if_neg h]
  rfl

/-- Where time passes to a deadline the tick moves there, and of the module's work nothing else changes. -/
theorem Mod.until_work (m : Mod) (t : Nat) : (m.until_ t).work = { m with tick := max m.tick t }.work := by
  unfold Mod.until_
  by_cases h : t - m.tick = 0
  · have htick : max m.tick t = m.tick := by omega
    rw [h, htick]
    rfl
  · have htick : max m.tick t = m.tick + (t - m.tick) := by omega
    rw [Mod.advance_eq m h, htick]
    exact congrArg (fun w : Mod => { w with tick := w.tick + (t - m.tick) }) (Mod.bumpWhere_work m _ _)

theorem Mod.until_key (m : Mod) (t k : Nat) (h : calm k) : mapGet (m.until_ t).regs k = mapGet m.regs k := by
  unfold Mod.until_
  by_cases h0 : t - m.tick = 0
  · rw [h0]
    rfl
  · rw [Mod.advance_eq m h0]
    exact Mod.bumpWhere_key m _ _ k h

/-! ## What a boundary leaves alone -/

/-- What the accounts of a spell are not: the module but for them, its registers, its records and what is planned; SPELL_TICKS in force; and
three registers of the SPL page. -/
structure Lasting where
  rest : Mod
  ticks : Nat
  errSev : Nat
  spellTicks : Nat
  spellCount : Nat

def Mod.lasting (m : Mod) : Lasting where
  rest := { m.rest with chn := Chn.reset, age := Mod.reset.age, spl := Spl.reset }
  ticks := m.spl.ticks
  errSev := m.get pgSpl HdrF.errSev
  spellTicks := m.get pgSpl SplF.spellTicks
  spellCount := m.get pgSpl SplF.spellCount

/-- SPELL_TICKS takes effect (R366). -/
def Lasting.takeTicks (l : Lasting) : Lasting := { l with ticks := l.spellTicks }

@[simp] theorem Lasting.takeTicks_errSev (l : Lasting) : l.takeTicks.errSev = l.errSev := rfl

/-- SPELL_COUNT counts one spell, modulo its width. -/
def Lasting.countSpell (l : Lasting) : Lasting := { l with spellCount := (l.spellCount + 1) % 2 ^ 64 }

/-- The registers of the SPL page that `Mod.lasting` holds. -/
abbrev Fld.lasts (f : Fld) : Prop := f = HdrF.errSev ∨ f = SplF.spellTicks ∨ f = SplF.spellCount

/-- The other registers of the SPL page. -/
abbrev Fld.besideLasting (f : Fld) : Prop := f.onPage ∧ f.off ∉ [HdrF.errSev.off, SplF.spellTicks.off, SplF.spellCount.off]

/-- Where a lasting register lies: on the SPL page, clear of PAGE_ERR, of PAGE_ERR_INFO and of the event counters. -/
theorem Fld.lasts_place {f : Fld} (h : f.lasts) : f.onPage ∧ (f.off < 0x60 ∨ 0xA0 ≤ f.off) ∧ f.off ≠ 0x20 ∧ f.off ≠ 0x38 := by
  rcases h with rfl | rfl | rfl <;> decide

theorem calm_lasts {f : Fld} (h : f.lasts) : calm (fldKey (pageAddr pgSpl) f) := by
  obtain ⟨⟨hoff, hlo⟩, hevt, -⟩ := Fld.lasts_place h
  simp only [calm, fldKey, pgSpl, pageAddr, pageBase]
  omega

theorem Mod.lasting_of_get {a b : Mod} (hrest : a.rest = b.rest) (hget : ∀ f : Fld, f.lasts → a.get pgSpl f = b.get pgSpl f) :
    a.lasting = b.lasting := by
  have hspl : a.spl = b.spl := by have := congrArg Mod.spl hrest; exact this
  simp only [Mod.lasting, hrest, hspl, hget _ (.inl rfl), hget _ (.inr (.inl rfl)), hget _ (.inr (.inr rfl))]

theorem Mod.lasting_of_calm {a b : Mod} (hwork : a.work = b.work) (hkey : ∀ k, calm k → mapGet a.regs k = mapGet b.regs k) :
    a.lasting = b.lasting := by
  refine Mod.lasting_of_get (Mod.rest_of_work hwork) fun f hf => ?_
  simp only [Mod.get, mapGetD, hkey _ (calm_lasts hf), Mod.fldReset, Mod.inService, Mod.work_glb hwork]

section
variable (m : Mod)

theorem Mod.count_lasting (p : PageId) (e n : Nat) : (m.count p e n).lasting = m.lasting :=
  Mod.lasting_of_calm (Mod.count_work m p e n) fun k => Mod.count_key m p e n k

theorem Mod.countAll_lasting (ev : Nat) : (m.countAll ev).lasting = m.lasting :=
  Mod.countAll_eq m ev ▸ Mod.lasting_of_calm (Mod.bumpWhere_work m _ _) fun k => Mod.bumpWhere_key m _ _ k

theorem Mod.until_lasting (t : Nat) : (m.until_ t).lasting = { m with tick := max m.tick t }.lasting :=
  Mod.lasting_of_calm (Mod.until_work m t) fun k => Mod.until_key m t k

theorem Mod.event_lasting (v : Sev) (k : EvKind) (a : List Nat) : (m.event v k a).lasting = m.lasting :=
  Mod.lasting_of_get (Mod.event_rest m v k a) fun f hf => Mod.event_get m v k a pgSpl f (calm_lasts hf)

/-- An error of the SPL page that is not fatal. -/
theorem Mod.raise_lasting {b : Nat} (h : bit m.lasting.errSev b = false) (d : Nat) : (m.raise pgSpl b d).lasting = m.lasting := by
  refine Mod.lasting_of_get (Mod.rest_of_work (Mod.raise_work m pgSpl b d h)) fun f hf => ?_
  obtain ⟨⟨-, hlo⟩, -, herr, hinfo⟩ := Fld.lasts_place hf
  have hdiv : fldKey (pageAddr pgSpl) f / 64 = pageAddr pgSpl + f.off := by unfold fldKey; omega
  exact Mod.raise_get m pgSpl pgSpl b d f h (calm_lasts hf) (by omega) (by omega)

/-- A write to any other register than the lasting ones. -/
theorem Mod.setAt_lasting {b : Nat} {f : Fld} (h : ∀ g : Fld, g.lasts → fldKey (pageAddr pgSpl) g ≠ fldKey b f) (v : Nat) :
    (m.setAt b f v).lasting = m.lasting :=
  Mod.lasting_of_get rfl fun g hg => mapGetD_mapPut_other _ _ _ _ _ (h g hg)

theorem Mod.setFloorFld_lasting (n : Nat) (f : Fld) (v : Nat) : (m.setAt (floorAt n) f v).lasting = m.lasting := by
  refine Mod.setAt_lasting m (fun g hg => ?_) v
  obtain ⟨⟨hoff, hlo⟩, -⟩ := Fld.lasts_place hg
  simp only [fldKey, floorAt, pgSpl, pageAddr, pageBase]
  omega

theorem Mod.setMch_lasting (c : Nat) (f : Fld) (v : Nat) : (m.set (pgMch c) f v).lasting = m.lasting := by
  refine Mod.setAt_lasting m (fun g hg => ?_) v
  obtain ⟨⟨hoff, hlo⟩, -⟩ := Fld.lasts_place hg
  simp only [fldKey, pgMch, pgSpl, pageAddr, pageBase]
  omega

theorem Mod.setSpl_lasting {f : Fld} (hf : f.besideLasting) (v : Nat) : (m.set pgSpl f v).lasting = m.lasting := by
  obtain ⟨hpage, hbeside⟩ := hf
  refine Mod.setAt_lasting m (fun g hg e => hbeside ?_) v
  obtain ⟨-, hoff, -⟩ := fldKey_inj (Fld.lasts_place hg).1 hpage e
  rcases hg with rfl | rfl | rfl <;> simp [← hoff]

theorem Mod.tallySpl_lasting {f : Fld} (hf : f.besideLasting) (e n : Nat) : (m.tally pgSpl f e n).lasting = m.lasting :=
  (Mod.count_lasting _ _ _ _).trans (Mod.setSpl_lasting m hf _)

theorem Mod.addSpellCount_lasting : (m.add pgSpl SplF.spellCount 1).lasting = m.lasting.countSpell := by
  have hsev : (m.add pgSpl SplF.spellCount 1).get pgSpl HdrF.errSev = m.get pgSpl HdrF.errSev :=
    Mod.get_set_other _ _ _ _ _ _ (by decide)
  have hticks : (m.add pgSpl SplF.spellCount 1).get pgSpl SplF.spellTicks = m.get pgSpl SplF.spellTicks :=
    Mod.get_set_other _ _ _ _ _ _ (by decide)
  have hcount : (m.add pgSpl SplF.spellCount 1).get pgSpl SplF.spellCount = (m.get pgSpl SplF.spellCount + 1) % 2 ^ 64 :=
    Mod.get_set_same _ _ _ _
  simp only [Mod.lasting, Lasting.countSpell, hsev, hticks, hcount]
  rfl

end

/-- A fold of steps that each leave what lasts alone leaves it alone. -/
theorem foldl_lasting {α : Type} {f : Mod → α → Mod} {L : Lasting} (h : ∀ b a, b.lasting = L → (f b a).lasting = L) (l : List α)
    {m : Mod} (hm : m.lasting = L) : (l.foldl f m).lasting = L :=
  foldl_keeps (fun b : Mod => b.lasting = L) h l m hm

/-! ## The accounts of the spell that ends, and of the next one (R366 to R377) -/

section
variable (m : Mod)

theorem Mod.endChanSpell_lasting (c : Nat) : (m.endChanSpell c).lasting = m.lasting := by
  unfold Mod.endChanSpell
  extract_lets use bud full n tallied
  have htallied : tallied.lasting = m.lasting := by
    unfold tallied
    split
    · rfl
    · exact Mod.tallySpl_lasting m (by decide) 0x102 n
  exact htallied

theorem Mod.fallShort_lasting (n : Nat) (h : bit m.lasting.errSev 9 = false) : (m.fallShort n).lasting = m.lasting := by
  unfold Mod.fallShort
  split
  · rfl
  · have htally (v : Nat) : ((m.setAt (floorAt n) FloorEF.shortSpells v).tally pgSpl SplF.shortfalls 0x100 1).lasting = m.lasting :=
      (Mod.tallySpl_lasting _ (by decide) _ _).trans (Mod.setFloorFld_lasting m _ _ _)
    dsimp only
    rw [Mod.raise_lasting _ (by rwa [htally]), htally]

theorem Mod.endMasterSpell_lasting (n : Nat) (h : bit m.lasting.errSev 9 = false) : (m.endMasterSpell n).lasting = m.lasting := by
  unfold Mod.endMasterSpell
  dsimp only
  rw [Mod.setFloorFld_lasting, Mod.setFloorFld_lasting, Mod.setFloorFld_lasting, Mod.fallShort_lasting m n h]

theorem Mod.beginMasterSpell_lasting (n : Nat) : (m.beginMasterSpell n).lasting = m.lasting := rfl

/-- R366: SPELL_TICKS takes effect at the boundary. -/
theorem Mod.spellChanges_lasting : m.spellChanges.lasting = m.lasting.takeTicks := by
  unfold Mod.spellChanges
  extract_lets t chk _ ticked capped lulled _ planned
  have hcapped : capped.lasting = ticked.lasting := by
    unfold capped
    split
    · exact Mod.setSpl_lasting ticked (by decide) _
    · rfl
  have hlulled : lulled.lasting = ticked.lasting :=
    foldl_lasting (fun b e hb => by rw [Mod.setMch_lasting, hb]) _ hcapped
  have hticked : ticked.lasting = m.lasting.takeTicks := rfl
  have hplanned : planned.lasting = lulled.lasting := rfl
  refine foldl_lasting (fun b c hb => ?_) (upto 96) (hplanned.trans (hlulled.trans hticked))
  extract_lets share
  split
  · exact hb
  · exact (Mod.setMch_lasting b c _ share).trans hb

theorem Mod.checkFloors_lasting (h : bit m.lasting.errSev 8 = false) : m.checkFloors.lasting = m.lasting := by
  unfold Mod.checkFloors
  extract_lets sum lim tooMuch summed scaled floored reported
  have hscaled : scaled.lasting = m.lasting := by
    unfold scaled summed
    rw [Mod.setSpl_lasting _ (by decide), Mod.setSpl_lasting _ (by decide), Mod.setSpl_lasting _ (by decide),
      Mod.setSpl_lasting _ (by decide)]
  have hfloored : floored.lasting = m.lasting :=
    foldl_lasting (fun b n hb => (Mod.setFloorFld_lasting b n _ _).trans hb) _ hscaled
  have hreported : reported.lasting = m.lasting := by
    unfold reported
    split
    · rw [Mod.event_lasting, Mod.raise_lasting _ (by rwa [hfloored]), hfloored]
    · split
      · rw [Mod.event_lasting, hfloored]
      · exact hfloored
  exact hreported

/-- R365, R366: a boundary counts the spell that ended and takes the new SPELL_TICKS. -/
theorem Mod.turnSpell_lasting (h8 : bit m.lasting.errSev 8 = false) (h9 : bit m.lasting.errSev 9 = false) :
    m.turnSpell.lasting = m.lasting.takeTicks.countSpell := by
  unfold Mod.turnSpell
  extract_lets chans masters closed changed checked opened counted
  have hchans : chans.lasting = m.lasting :=
    foldl_lasting (fun b c hb => (Mod.endChanSpell_lasting b c).trans hb) _ rfl
  have hclosed : closed.lasting = m.lasting :=
    foldl_lasting (fun b n hb => (Mod.endMasterSpell_lasting b n (by rwa [hb])).trans hb) _ hchans
  have hchanged : changed.lasting = m.lasting.takeTicks := (Mod.spellChanges_lasting closed).trans (congrArg Lasting.takeTicks hclosed)
  have hsev : bit changed.lasting.errSev 8 = false := by rwa [hchanged, Lasting.takeTicks_errSev]
  have hchecked : checked.lasting = m.lasting.takeTicks := by
    unfold checked
    split
    · rw [Mod.checkFloors_lasting changed hsev, hchanged]
    · exact hchanged
  have hopened : opened.lasting = m.lasting.takeTicks :=
    foldl_lasting (fun b n hb => by rw [Mod.beginMasterSpell_lasting, hb]) _ hchecked
  have hcounted : counted.lasting = m.lasting.takeTicks.countSpell := by
    rw [Mod.countAll_lasting, Mod.addSpellCount_lasting, hopened]
  split
  · rw [Mod.count_lasting, hcounted]
  · exact hcounted

end

/-! ## SPELL_BOUNDARY (R365) -/

/-- The tick at which the spell that runs ends. -/
def Mod.spellEnd (m : Mod) : Nat := m.spl.began + m.spl.ticks

/-- The module with the spell that runs begun at tick `t`. -/
def Mod.beginSpell (m : Mod) (t : Nat) : Mod := { m with spl := { m.spl with began := t } }

section
variable {s : State}

theorem exec_spellBoundary_turns (hr : s.m.runs = true) (hv : s.m.saving = false) : exec .spellBoundary s =
    .next { s with m := ((s.m.until_ s.m.spellEnd).turnSpell).beginSpell s.m.spellEnd } := by
  have hwork := Mod.until_work s.m s.m.spellEnd
  have hp : s.m.glb.powered = true := (Bool.and_eq_true_iff.mp hr).1
  have hr' : (s.m.until_ s.m.spellEnd).runs = true := (congrArg Mod.runs hwork).trans hr
  have hv' : (s.m.until_ s.m.spellEnd).saving = false := (congrArg Mod.saving hwork).trans hv
  change execSpellBoundary s = _
  unfold Mod.spellEnd at hr' hv' ⊢
  simp [execSpellBoundary, hp, hr', hv', Mod.beginSpell]

theorem exec_spellBoundary_saving (hp : s.m.glb.powered = true) (hv : s.m.saving = true) : exec .spellBoundary s =
    .next { s with m := (s.m.until_ s.m.spellEnd).beginSpell s.m.spellEnd } := by
  have hv' : (s.m.until_ s.m.spellEnd).saving = true := (congrArg Mod.saving (Mod.until_work s.m s.m.spellEnd)).trans hv
  change execSpellBoundary s = _
  unfold Mod.spellEnd at hv' ⊢
  simp [execSpellBoundary, hp, hv', Mod.beginSpell]

end

/-- Settles O43: a boundary keeps `Mod.lasting` but for SPELL_TICKS in force and SPELL_COUNT; the other commands are their equations, and what
a completion leaves alone gives the rest. -/
theorem spellsEndAndFloorsAreSet : Obligations.SpellsEndAndFloorsAreSet := by
  unfold Obligations.SpellsEndAndFloorsAreSet
  refine ⟨?turns, ?saving, ?floorSet, ?setReserved, ?floorGet, ?getReserved⟩
  case turns =>
    intro s hr hv h8 h9
    have huntil := Mod.until_lasting s.m s.m.spellEnd
    have hsev : (s.m.until_ s.m.spellEnd).lasting.errSev = s.m.get pgSpl HdrF.errSev := congrArg Lasting.errSev huntil
    have hturn := Mod.turnSpell_lasting (s.m.until_ s.m.spellEnd) (by rwa [hsev]) (by rwa [hsev])
    rw [huntil] at hturn
    refine ⟨_, exec_spellBoundary_turns hr hv, kept_setM _ _, ?_⟩
    generalize (s.m.until_ s.m.spellEnd).turnSpell = u at hturn
    exact ⟨congrArg (fun l => l.rest.mem) hturn, congrArg (fun l => l.rest.poison) hturn, congrArg (fun l => l.rest.fab) hturn,
      congrArg (fun l => l.rest.led) hturn, congrArg (fun l => l.rest.tier) hturn, congrArg (fun l => l.rest.grp) hturn,
      congrArg (fun l => l.rest.key) hturn, congrArg (fun l => l.rest.tick) hturn, rfl, congrArg Lasting.ticks hturn,
      congrArg Lasting.spellCount hturn⟩
  case saving =>
    intro s hp hv
    have hwork := Mod.until_work s.m s.m.spellEnd
    have htick : (s.m.until_ s.m.spellEnd).tick = max s.m.tick s.m.spellEnd := congrArg Mod.tick hwork
    refine ⟨_, exec_spellBoundary_saving hp hv, kept_setM _ _, htick, ?_⟩
    exact (congrArg (fun w : Mod => w.beginSpell s.m.spellEnd) hwork).trans (by rw [← htick]; rfl)
  case floorSet =>
    intro s via n f g w hm hn
    refine ⟨_, exec_floorSet_writes hm hn f g w, kept_setM _ _, Mod.reply_last _ _ _ _,
      (Mod.reply_work _ _ _ _).trans (Mod.setFloor_work _ _ _ _ _), ?floor, ?gust, ?weight, ?others⟩
    case floor => exact (Mod.reply_floorFld _ (by decide) _ _ _).trans (Mod.setFloor_floor _ _ _ _ _)
    case gust => exact (Mod.reply_floorFld _ (by decide) _ _ _).trans (Mod.setFloor_gustMax _ _ _ _ _)
    case weight => exact (Mod.reply_floorFld _ (by decide) _ _ _).trans (Mod.setFloor_weight _ _ _ _ _)
    case others =>
      intro k _ hk
      exact (Mod.reply_floorFld _ (by decide) _ _ _).trans (Mod.setFloor_otherMaster _ _ _ _ _ hk (by decide))
  case setReserved => exact fun s via n f g w hm hn => ⟨_, exec_floorSet_reserved hm hn f g w, answers_reply _ _ _ _⟩
  case floorGet =>
    intro s via n hm hn
    exact ⟨_, _, exec_floorGet_reads hm hn, Mod.length_floorBytes _ _, answers_reply _ _ _ _, fun i hi => Mod.leAt_floorBytes _ _ hi⟩
  case getReserved => exact fun s via n hm hn => ⟨_, exec_floorGet_reserved hm hn, answers_reply _ _ _ _⟩

end Sys2Proof.Machine
end

section
/-!
PROOF. The faults of the power entry stage (R422 to R426, R429). Each fault is the entry it makes on the PWR page and then a loss of
supply, `State.faulted`; a loss of supply on a die that can save begins a save, `saveBegun_inputLoss`, since its last step finds every
link down already; and the entry leaves a die that can save able to.
-/
namespace Sys2Proof.Machine

open Host

/-! ## What keeps a die able to save -/

section
variable {a b : Mod}

theorem Mod.work_vlt (h : a.work = b.work) : a.vlt = b.vlt := by
  have := congrArg Mod.vlt h; exact this

theorem Mod.work_tick (h : a.work = b.work) : a.tick = b.tick := by
  have := congrArg Mod.tick h; exact this

theorem Mod.work_tier (h : a.work = b.work) : a.tier = b.tier := by
  have := congrArg Mod.tier h; exact this

theorem Mod.work_drz (h : a.work = b.work) : a.drz = b.drz := by
  have := congrArg Mod.drz h; exact this

/-- The fields that say whether a port's link is up. -/
def linkFields : List Fld := [PrtF.hostLinkState, HdrF.roleCode, PrtF.peerState]

theorem linkFields_onPage : ∀ f ∈ linkFields, f.onPage := by decide

/-- No event touches what says whether a port's link is up. -/
theorem calm_linkField (n : Nat) {f : Fld} (hf : f ∈ linkFields) : calm (fldKey (pageAddr (pgPrt n)) f) := by
  have hplace : ∀ f ∈ linkFields, f.onPage ∧ ¬(0x60 ≤ f.off ∧ f.off < 0xA0) := by decide
  obtain ⟨⟨hoff, hlo⟩, hcounter⟩ := hplace f hf
  simp only [calm, fldKey, pageAddr, pgPrt, pageBase]
  omega

/-- The pages of the port engines lie above those of the single blocks. -/
theorem pageAddr_pgPrt_ne_low (n : Nat) {p : PageId} (hp : pageAddr p < 0x10000) : pageAddr (pgPrt n) ≠ pageAddr p := by
  simp only [pgPrt, pageAddr, pageBase] at hp ⊢
  omega

/-- Every link is down in a module whose ports read as those of one with every link down. -/
theorem Mod.linksOff_congr (h : ∀ n, ∀ f ∈ linkFields, a.get (pgPrt n) f = b.get (pgPrt n) f) (hb : b.linksOff) : a.linksOff := by
  intro n hn
  have hstate := h n PrtF.hostLinkState (by decide)
  have hrole := h n HdrF.roleCode (by decide)
  have hpeer := h n PrtF.peerState (by decide)
  obtain ⟨hup, hdown⟩ := hb n hn
  refine ⟨?_, ?_⟩
  · rwa [Mod.portUp, hstate]
  · rwa [Mod.peerRole, Mod.bState, hrole, hpeer]

/-- No error of a module is fatal when those of another that reads the same are not. -/
theorem Mod.mildVlt_congr (h : ∀ p ∈ [pgVlt, pgPwr], a.get p HdrF.errSev = b.get p HdrF.errSev) (hb : b.mildVlt) : a.mildVlt := by
  intro c
  rw [h pgVlt (by decide), h pgPwr (by decide)]
  exact hb c

/-- What a die needs to save is its start-up, its vault and a few fields. -/
theorem Mod.canSave_congr (hglb : a.glb = b.glb) (hvlt : a.vlt = b.vlt) (hphase : a.phase = b.phase)
    (hlinks : ∀ n, ∀ f ∈ linkFields, a.get (pgPrt n) f = b.get (pgPrt n) f)
    (hsev : ∀ p ∈ [pgVlt, pgPwr], a.get p HdrF.errSev = b.get p HdrF.errSev) (hb : b.canSave) : a.canSave := by
  obtain ⟨hpow, hsave, hrest, htamper, hoff, hmild⟩ := hb
  exact ⟨by rwa [hglb], by rwa [hvlt], by rwa [Mod.restored, hphase], by rwa [hglb], Mod.linksOff_congr hlinks hoff,
    Mod.mildVlt_congr hsev hmild⟩

end

/-! ## An error of the PWR page (R432) -/

/-- No event touches PAGE_ERR of the PWR page. -/
theorem calm_pgPwr_err : calm (fldKey (pageAddr pgPwr) HdrF.err) := by unfold calm; decide

theorem Mod.canSave_powered {m : Mod} (h : m.canSave) : m.glb.powered = true := h.1

/-- No error of the PWR page of a die that can save is fatal. -/
theorem Mod.canSave_pwrMild {m : Mod} (h : m.canSave) (b : Nat) : bit (m.get pgPwr HdrF.errSev) b = false := by
  obtain ⟨-, -, -, -, -, hmild⟩ := h
  exact (hmild b).2

/-- An error of the PWR page that is not fatal leaves a die that can save able to. -/
theorem Mod.canSave_raise_pgPwr {m : Mod} (h : m.canSave) (b d : Nat) : (m.raise pgPwr b d).canSave := by
  have hsev := Mod.canSave_pwrMild h b
  have hwork := Mod.raise_work m pgPwr b d hsev
  have hget (q : PageId) (f : Fld) (hcalm : calm (fldKey (pageAddr q) f))
      (hplace : fldKey (pageAddr q) f / 64 ≠ pageAddr pgPwr + 0x20 ∧ fldKey (pageAddr q) f / 64 ≠ pageAddr pgPwr + 0x38) :
      (m.raise pgPwr b d).get q f = m.get q f := Mod.raise_get m pgPwr q b d f hsev hcalm hplace.1 hplace.2
  refine Mod.canSave_congr (Mod.work_glb hwork) (Mod.work_vlt hwork) ?phase ?links ?sev h
  case phase => exact hget pgGlb GlbF.phase (by unfold calm; decide) (by decide)
  case links =>
    refine fun n f hf => hget _ f (calm_linkField n hf) ?_
    obtain ⟨hoff, hlo⟩ := linkFields_onPage f hf
    simp only [fldKey, pageAddr, pgPrt, pgPwr, pageBase]
    omega
  case sev =>
    have hcalm : ∀ p ∈ [pgVlt, pgPwr], calm (fldKey (pageAddr p) HdrF.errSev) := by unfold calm; decide
    have hplace : ∀ p ∈ [pgVlt, pgPwr], fldKey (pageAddr p) HdrF.errSev / 64 ≠ pageAddr pgPwr + 0x20 ∧
        fldKey (pageAddr p) HdrF.errSev / 64 ≠ pageAddr pgPwr + 0x38 := by decide
    exact fun p hp => hget p HdrF.errSev (hcalm p hp) (hplace p hp)

section
variable {m : Mod} (cause ramp : Nat)

/-- An unpowered die notes no error. -/
theorem Mod.pwrErr_unpowered (h : m.glb.powered = false) : m.pwrErr cause ramp = m := by simp [Mod.pwrErr, h]

theorem Mod.pwrErr_powered (h : m.glb.powered = true) :
    m.pwrErr cause ramp = m.raise pgPwr (causeBit cause) (cause ||| (ramp <<< 4)) := by simp [Mod.pwrErr, h]

theorem Mod.pwrErr_work (hp : m.glb.powered = true) (hsev : bit (m.get pgPwr HdrF.errSev) (causeBit cause) = false) :
    (m.pwrErr cause ramp).work = m.work := by
  rw [Mod.pwrErr_powered cause ramp hp, Mod.raise_work _ _ _ _ hsev]

/-- The bit of the cause stands. -/
theorem Mod.pwrErr_get_err (hp : m.glb.powered = true) (hsev : bit (m.get pgPwr HdrF.errSev) (causeBit cause) = false)
    (hc : causeBit cause < 64) : bit ((m.pwrErr cause ramp).get pgPwr HdrF.err) (causeBit cause) = true := by
  rw [Mod.pwrErr_powered cause ramp hp]
  exact Mod.raise_get_err _ _ _ hc hsev calm_pgPwr_err

theorem Mod.canSave_pwrErr (h : m.canSave) : (m.pwrErr cause ramp).canSave := by
  rw [Mod.pwrErr_powered cause ramp (Mod.canSave_powered h)]
  exact Mod.canSave_raise_pgPwr h _ _

end

/-! ## A plan is abandoned (R387, R393) -/

section
variable (m : Mod)

/-- A module without a plan has none to abandon. -/
theorem Mod.abandonPlan_none (h : m.age.plan = none) : m.abandonPlan = m := by simp [Mod.abandonPlan, h]

theorem Mod.abandonPlan_work : m.abandonPlan.work = ({ m with age := { m.age with plan := none } } : Mod).work := by
  rcases hplan : m.age.plan with _ | x
  case none => rw [Mod.abandonPlan_none m hplan, ← hplan]
  case some => simp [Mod.abandonPlan, hplan]

/-- Abandoning a plan writes on the AGE page alone. -/
theorem Mod.abandonPlan_get {q : PageId} {f : Fld} (hq : pageAddr q ≠ pageAddr pgAge) (hf : f.onPage) :
    m.abandonPlan.get q f = m.get q f := by
  unfold Mod.abandonPlan
  split
  · rw [Mod.get_set_otherPage _ _ hq (by decide) hf, Mod.get_set_otherPage _ _ hq (by decide) hf]
    rfl
  · rfl

end

/-- A die that can save still can without its plan. -/
theorem Mod.canSave_abandonPlan {m : Mod} (h : m.canSave) : m.abandonPlan.canSave := by
  have hwork := Mod.abandonPlan_work m
  have hsev : ∀ p ∈ [pgVlt, pgPwr], pageAddr p ≠ pageAddr pgAge := by decide
  exact Mod.canSave_congr (Mod.work_glb hwork) (Mod.work_vlt hwork) (Mod.abandonPlan_get m (by decide) (by decide))
    (fun n f hf => Mod.abandonPlan_get m (pageAddr_pgPrt_ne_low n (by decide)) (linkFields_onPage f hf))
    (fun p hp => Mod.abandonPlan_get m (hsev p hp) (by decide)) h

/-! ## A save begins (R397, R400) -/

/-- The save that a trigger begins at `m`'s tick, after which the module powers down. -/
def Mod.newSave (m : Mod) (trig : Nat) : Save :=
  { trigger := trig, step := .prepare, after := .powerDown, start := m.tick, truncated := false, parityCut := 0, volCut := 0,
    durable := true, gpf := [] }

/-- The module whose save with that trigger has begun, its plan abandoned and its drizzle paused, but for registers. -/
def Mod.begun (m : Mod) (trig : Nat) : Mod :=
  { m with age := { m.age with plan := none }, vlt := { m.vlt with save := some (m.newSave trig) },
           drz := { m.drz with under := none, paused := true } }

/-- The pages that the start of a save writes on. -/
def pagesOfSave : List PageId := [pgGlb, pgVlt, pgAge, pgDrz]

/-- The start of a save leaves every other page alone. -/
theorem Mod.startSave_get (m : Mod) {q : PageId} {f : Fld} (hq : ∀ p ∈ pagesOfSave, pageAddr q ≠ pageAddr p) (hf : f.onPage)
    (trig : Nat) (after : AfterSave) (gpf : List Nat) : (m.startSave trig after gpf).get q f = m.get q f := by
  have hvlt := hq pgVlt (by decide)
  unfold Mod.startSave
  split
  · rfl
  split
  · rfl
  unfold Mod.setModState Mod.pauseDrizzle Mod.progress Mod.showVlt
  rw [Mod.get_set_otherPage _ _ (hq pgGlb (by decide)) (by decide) hf, Mod.get_set_otherPage _ _ (hq pgDrz (by decide)) (by decide) hf]
  refine (Mod.abandonPlan_get _ (hq pgAge (by decide)) hf).trans ?_
  iterate 5 rw [Mod.get_set_otherPage _ _ hvlt (by decide) hf]
  rfl

section
variable {m : Mod} (h : m.canSave) (trig : Nat)
include h

/-- Nothing stands against the save of a die that can save. -/
theorem Mod.startSave_canSave : ∃ a : Mod, a.work = ({ m with vlt := { m.vlt with save := some (m.newSave trig) } } : Mod).work ∧
    m.startSave trig .powerDown [] = a.abandonPlan.pauseDrizzle.setModState msSaving := by
  obtain ⟨-, hsave, hrest, htamper, -, -⟩ := h
  simp only [Mod.startSave, hsave, hrest, htamper, Bool.not_true, Bool.or_self, Bool.false_eq_true, if_false]
  refine ⟨_, ?_, rfl⟩
  rfl

theorem Mod.startSave_work : (m.startSave trig .powerDown []).work = (m.begun trig).work := by
  obtain ⟨a, hwork, heq⟩ := Mod.startSave_canSave h trig
  calc (m.startSave trig .powerDown []).work
    _ = a.abandonPlan.work.pauseDrizzle.work := by rw [heq]; rfl
    _ = ({ a.work with age := { a.work.age with plan := none } } : Mod).pauseDrizzle.work := by rw [Mod.abandonPlan_work]; rfl
    _ = (m.begun trig).work := by rw [hwork]; rfl

/-- MODULE_STATE is SAVING (R467). -/
theorem Mod.startSave_moduleState : (m.startSave trig .powerDown []).get pgGlb GlbF.moduleState = 4 := by
  obtain ⟨a, -, heq⟩ := Mod.startSave_canSave h trig
  rw [heq]
  exact Mod.get_set_same _ _ _ _

end

/-! ## A loss of supply (R418, R427) -/

/-- With every link down there is none to take down. -/
theorem Mod.linksDown_of_linksOff {m : Mod} (h : m.linksOff) : m.linksDown = m := by
  refine List.foldlRecOn (motive := fun a => a = m) _ _ rfl fun a ha n hn => ?_
  subst ha
  obtain ⟨hup, hdown⟩ := h n (List.mem_range.mp hn)
  split
  next hrole => simp [Mod.bfPortDown, hdown hrole]
  next => simp [Mod.linkLoss, hup]

/-- An unpowered die loses nothing with its supply. -/
theorem Mod.supplyLost_unpowered {m : Mod} (h : m.glb.powered = false) (trig : Nat) : m.supplyLost trig = m := by
  simp [Mod.supplyLost, h]

section
variable {m : Mod} (h : m.canSave) (trig : Nat)
include h

/-- A die that can save begins a save and stops the charger. -/
theorem Mod.supplyLost_canSave :
    m.supplyLost trig = (m.abandonPlan.startSave trig .powerDown []).set pgPwr PwrF.charging 0 := by
  have hplan := Mod.canSave_abandonPlan h
  have hsaving : ((m.abandonPlan.startSave trig .powerDown []).set pgPwr PwrF.charging 0).saving = true := by
    have hvlt := Mod.work_vlt (Mod.startSave_work hplan trig)
    rw [Mod.saving, Mod.set_vlt, hvlt]
    rfl
  have hoff : ((m.abandonPlan.startSave trig .powerDown []).set pgPwr PwrF.charging 0).linksOff := by
    obtain ⟨-, -, -, -, hoff, -⟩ := hplan
    refine Mod.linksOff_congr (fun n f hf => ?_) hoff
    have hpage := linkFields_onPage f hf
    have hlow : ∀ p ∈ pagesOfSave, pageAddr p < 0x10000 := by decide
    rw [Mod.get_set_otherPage _ _ (pageAddr_pgPrt_ne_low n (by decide)) (by decide) hpage]
    exact Mod.startSave_get _ (fun p hp => pageAddr_pgPrt_ne_low n (hlow p hp)) hpage _ _ _
  simp only [Mod.supplyLost, Mod.canSave_powered h, Bool.not_true, Bool.false_eq_true, if_false, hsaving, if_true]
  exact Mod.linksDown_of_linksOff hoff

theorem Mod.supplyLost_work : (m.supplyLost trig).work = (m.begun trig).work := by
  rw [Mod.supplyLost_canSave h, Mod.set_work, Mod.startSave_work (Mod.canSave_abandonPlan h)]
  exact congrArg (fun w : Mod => w.begun trig) (Mod.abandonPlan_work m)

/-- A loss of supply leaves the errors of the PWR page standing. -/
theorem Mod.supplyLost_get_err : (m.supplyLost trig).get pgPwr HdrF.err = m.get pgPwr HdrF.err := by
  rw [Mod.supplyLost_canSave h, Mod.get_set_otherPlace _ _ (by decide) (by decide) (by decide),
    Mod.startSave_get _ (by decide) (by decide), Mod.abandonPlan_get _ (by decide) (by decide)]

end

/-- A loss of supply on a die that can save is a save on the bank. -/
theorem saveBegun_inputLoss {s : State} (h : s.m.canSave) (p : Pwr) (trig : Nat) : SaveBegun s (s.inputLoss p trig) trig := by
  have hwork := Mod.supplyLost_work h trig
  have hdrz := Mod.work_drz hwork
  refine ⟨rfl, rfl, (Mod.work_mem hwork :), (Mod.work_fab hwork :), (Mod.work_tier hwork :), ?save, ?state, ?charging, ?under, ?paused⟩
  case save => exact congrArg Vlt.save (Mod.work_vlt hwork)
  case state =>
    change (s.m.supplyLost trig).get pgGlb GlbF.moduleState = 4
    rw [Mod.supplyLost_canSave h, Mod.get_set_otherPage _ _ (by decide) (by decide) (by decide)]
    exact Mod.startSave_moduleState (Mod.canSave_abandonPlan h) trig
  case charging =>
    change (s.m.supplyLost trig).get pgPwr PwrF.charging = 0
    rw [Mod.supplyLost_canSave h]
    exact Mod.get_set_same _ _ _ _
  case under => exact congrArg Drz.under hdrz
  case paused => exact congrArg Drz.paused hdrz

/-! ## The stage's own part (R424 to R426) -/

/-- A latch-off is one of its cause, with its log entry. -/
theorem latchedOff_latchOff (p : Pwr) (cause vin iin : Nat) : LatchedOff p (p.latchOff cause vin iin) cause vin iin :=
  ⟨rfl, rfl, rfl, rfl, rfl, rfl, rfl, rfl, rfl⟩

/-- The stage with a shorted FET recorded (R426). -/
def Pwr.shorted (p : Pwr) (vin iin : Nat) : Pwr := (({ p with fetShort := true }).gateOff).logIt cFetShort vin iin

/-- The state of a stage whose latch-off is cleared: held by a shorted FET, else on its way up when R419 is met. -/
def Pwr.clearedSt (p : Pwr) : PwrSt :=
  if p.fetShort then .fetFail else if p.present && p.en && p.vinValid && !p.postSave && !p.tripHold then .delay else .off

/-- A stage that is off is on its way up when R419 is met. -/
theorem Pwr.arm_off {p : Pwr} (h : p.st = .off) : p.arm = { p with st := if p.ready then .delay else .off } := by
  rcases hr : p.ready with _ | _
  case true => simp [Pwr.arm, h, hr]
  case false => simp [Pwr.arm, hr, ← h]

/-- During the cool-down a clear is held (R425). -/
theorem Pwr.clear_held {p : Pwr} {c : Nat} (hl : p.latch = some c) (hc : p.coolDown = true) : p.clear = { p with clearHeld := true } := by
  simp [Pwr.clear, hl, hc]

/-- After the cool-down a clear ends the latch-off, and R419 applies again (R425). -/
theorem Pwr.clear_done {p : Pwr} {c : Nat} (hl : p.latch = some c) (hc : p.coolDown = false) :
    p.clear = { p with latch := none, clearHeld := false, st := p.clearedSt } := by
  rcases hf : p.fetShort with _ | _
  case true => simp [Pwr.clear, Pwr.clearedSt, Pwr.arm, hl, hc, hf]
  case false => simp [Pwr.clear, Pwr.clearedSt, Pwr.arm_off, Pwr.ready, hl, hc, hf]

/-! ## A fault turns the gate off (R422, R423, R426) -/

/-- A fault of that cause, which leaves the stage at `p`: its entry on the PWR page, then the loss of supply. -/
def State.faulted (s : State) (cause : Nat) (p : Pwr) : State := ({ s with m := s.m.pwrErr cause s.pwr.ramps }).inputLoss p 1

section
variable {s : State}

/-- An unpowered die is as before. -/
theorem dieKept_faulted (h : s.m.glb.powered = false) (cause : Nat) (p : Pwr) : DieKept s (s.faulted cause p) := by
  refine ⟨rfl, rfl, ?_⟩
  change (s.m.pwrErr cause s.pwr.ramps).supplyLost 1 = s.m
  rw [Mod.pwrErr_unpowered _ _ h, Mod.supplyLost_unpowered h]

/-- A die that can save begins a save, with the cause's error standing. -/
theorem saveBegun_faulted (h : s.m.canSave) {cause : Nat} (hc : causeBit cause < 64) (p : Pwr) :
    SaveBegun s (s.faulted cause p) 1 ∧ bit ((s.faulted cause p).m.get pgPwr HdrF.err) (causeBit cause) = true := by
  have hpow := Mod.canSave_powered h
  have hsev := Mod.canSave_pwrMild h (causeBit cause)
  have hwork := Mod.pwrErr_work cause s.pwr.ramps hpow hsev
  have hcan := Mod.canSave_pwrErr cause s.pwr.ramps h
  refine ⟨?save, ?err⟩
  case save =>
    obtain ⟨hpending, hfuse, hmem, hfab, htier, hsave, hrest⟩ :=
      saveBegun_inputLoss (s := { s with m := s.m.pwrErr cause s.pwr.ramps }) hcan p 1
    refine ⟨hpending, hfuse, hmem.trans (Mod.work_mem hwork), hfab.trans (Mod.work_fab hwork), htier.trans (Mod.work_tier hwork), ?_,
      hrest⟩
    rw [← Mod.work_tick hwork]
    exact hsave
  case err =>
    change bit (((s.m.pwrErr cause s.pwr.ramps).supplyLost 1).get pgPwr HdrF.err) (causeBit cause) = true
    rw [Mod.supplyLost_get_err hcan]
    exact Mod.pwrErr_get_err cause s.pwr.ramps hpow hsev hc

end

/-! ## The commands of the faults -/

/-- The cause with which a fault timer latches off (R422, R424). -/
def FaultTimer.cause (k : FaultTimer) (vout : Nat) : Nat := if k = .breaker then cOver else if vout < 1000 then cShort else cInrush

section
variable {s : State} {vout vin iin : Nat}

theorem exec_faultTimerExpire_latches {k : FaultTimer} (h : s.pwr.timer = some k) :
    exec (.faultTimerExpire vout vin iin) s = .next (s.faulted (k.cause vout) (s.pwr.latchOff (k.cause vout) vin iin)) := by
  change execFaultTimerExpire vout vin iin s = _
  simp [execFaultTimerExpire, h, State.faulted, FaultTimer.cause]

theorem exec_faultTimerExpire_idle (h : s.pwr.timer = none) : exec (.faultTimerExpire vout vin iin) s = .next s := by
  change execFaultTimerExpire vout vin iin s = _
  simp [execFaultTimerExpire, h]

theorem exec_fastTrip_latches (hg : s.pwr.gateOn = true) (hi : 45000 < iin) :
    exec (.fastTrip vin iin) s = .next (s.faulted cFast (s.pwr.latchOff cFast vin iin)) := by
  change execFastTrip vin iin s = _
  simp [execFastTrip, hg, hi, State.faulted]

theorem exec_fastTrip_below (hi : iin ≤ 45000) : exec (.fastTrip vin iin) s = .next s := by
  change execFastTrip vin iin s = _
  simp [execFastTrip, Nat.not_lt.mpr hi]

theorem exec_fetOvertemp_latches (hb : s.pwr.bias = true) (hl : s.pwr.latch = none) :
    exec (.fetOvertemp vin iin) s = .next (s.faulted cTemp (s.pwr.latchOff cTemp vin iin)) := by
  change execFetOvertemp vin iin s = _
  simp [execFetOvertemp, hb, hl, State.faulted]

/-- A fuse that is latched off keeps its cause: the model's choice (log entry 108). -/
theorem exec_fetOvertemp_latched {c : Nat} (hl : s.pwr.latch = some c) : exec (.fetOvertemp vin iin) s = .next s := by
  change execFetOvertemp vin iin s = _
  simp [execFetOvertemp, hl]

theorem exec_fetShort_records (hg : s.pwr.gateOn = false) (hf : s.pwr.fetShort = false) :
    exec (.fetShort vin iin) s = .next (s.faulted cFetShort (s.pwr.shorted vin iin)) := by
  change execFetShort vin iin s = _
  simp [execFetShort, hg, hf, State.faulted, Pwr.shorted]

theorem exec_fetShort_ignored (h : s.pwr.gateOn = true ∨ s.pwr.fetShort = true) : exec (.fetShort vin iin) s = .next s := by
  change execFetShort vin iin s = _
  simp [execFetShort, h]

/-- R426: a degraded FET is logged on the stage and on the die, and nothing else. -/
theorem exec_fetDegraded_logs (h : s.pwr.st = .on) (hp : s.m.glb.powered = true) : exec (.fetDegraded vin iin) s = .next { s with
    pwr := { s.pwr.logIt cFetDegraded vin iin with fetDegraded := true },
    m := (s.m.pwrErr cFetDegraded s.pwr.ramps).event .failure .fetDegraded [vin, iin] } := by
  change execFetDegraded vin iin s = _
  simp [execFetDegraded, h, hp]

end

/-! ## The commands of the breaker and of a clear -/

section
variable {s : State} {iin : Nat}

theorem exec_overcurrentStart_starts (h : s.pwr.st = .on) (ht : s.pwr.timer = none) (hi : 14000 < iin) :
    exec (.overcurrentStart iin) s = .next { s with
      pwr := { s.pwr with timer := some .breaker, qualify := false }, m := s.m.count pgPwr 0x100 1 } := by
  change execOvercurrentStart iin s = _
  simp [execOvercurrentStart, h, ht, hi]

theorem exec_overcurrentStart_below (hi : iin ≤ 14000) : exec (.overcurrentStart iin) s = .next s := by
  change execOvercurrentStart iin s = _
  simp [execOvercurrentStart, Nat.not_lt.mpr hi]

theorem exec_overcurrentEnd_stops (h : s.pwr.timer = some .breaker) (hi : iin ≤ 14000) :
    exec (.overcurrentEnd iin) s = .next { s with pwr := { s.pwr with timer := none, qualify := !s.pwr.pg } } := by
  change execOvercurrentEnd iin s = _
  simp [execOvercurrentEnd, h, hi]

theorem exec_overcurrentEnd_above (hi : 14000 < iin) : exec (.overcurrentEnd iin) s = .next s := by
  change execOvercurrentEnd iin s = _
  simp [execOvercurrentEnd, Nat.not_le.mpr hi]

theorem exec_restart_clears {b : Bool} (hb : s.pwr.bias = true) (hr : b = true ∨ s.m.glb.powered = true) :
    exec (.restart b) s = .next { s with pwr := s.pwr.clear } := by
  change execRestart b s = _
  simp [execRestart, hr, hb]

theorem exec_restart_unread (h : s.m.glb.powered = false) : exec (.restart false) s = .next s := by
  change execRestart false s = _
  simp [execRestart, h]

theorem exec_coolDownExpire_plain (h : s.pwr.clearHeld = false) :
    exec .coolDownExpire s = .next { s with pwr := { s.pwr with coolDown := false } } := by
  change execCoolDownExpire s = _
  simp [execCoolDownExpire, h]

/-- R425: a held clear is acted upon when the cool-down ends. -/
theorem exec_coolDownExpire_clears (h : s.pwr.clearHeld = true) :
    exec .coolDownExpire s = .next { s with pwr := { s.pwr with coolDown := false }.clear } := by
  change execCoolDownExpire s = _
  simp [execCoolDownExpire, h]

end

/-- A fault that is only logged touches registers, records, what is sent and the steward function alone. -/
theorem Mod.fetDegraded_rest {m : Mod} (hp : m.glb.powered = true) (hm : m.mildVlt) (ramp : Nat) (args : List Nat) :
    ((m.pwrErr cFetDegraded ramp).event .failure .fetDegraded args).rest = m.rest := by
  rw [Mod.event_rest]
  exact Mod.rest_of_work (Mod.pwrErr_work cFetDegraded ramp hp (hm _).2)

/-- Its error stands on the PWR page. -/
theorem Mod.fetDegraded_err {m : Mod} (hp : m.glb.powered = true) (hm : m.mildVlt) (ramp : Nat) (args : List Nat) :
    bit (((m.pwrErr cFetDegraded ramp).event .failure .fetDegraded args).get pgPwr HdrF.err) 14 = true := by
  rw [Mod.event_get _ _ _ _ _ _ calm_pgPwr_err]
  exact Mod.pwrErr_get_err cFetDegraded ramp hp (hm _).2 (by decide)

/-- Settles O49: each fault is its command's equation with the stage's own part and what a loss of supply makes of the die. That a
FET_OVERTEMP of a fuse already latched off has no effect is the model's choice (log entry 108). -/
theorem powerEntryFaultsLatchOff : Obligations.PowerEntryFaultsLatchOff := by
  unfold Obligations.PowerEntryFaultsLatchOff
  refine ⟨?breakerDark, ?rampDark, ?breaker, ?noTimer, ?fastDark, ?fast, ?fastBelow, ?hot, ?hotLatched, ?hotSaves, ?shortDark, ?short,
    ?shortIgnored, ?degraded, ?overStart, ?overStartBelow, ?overEnd, ?overEndAbove, ?restartHeld, ?restart, ?restartDark, ?cool, ?coolClears⟩
  case breakerDark =>
    exact fun s vo vi ii ht hp => ⟨_, exec_faultTimerExpire_latches ht, dieKept_faulted hp _ _, latchedOff_latchOff _ _ _ _⟩
  case rampDark =>
    exact fun s vo vi ii ht hp => ⟨_, exec_faultTimerExpire_latches ht, dieKept_faulted hp _ _, latchedOff_latchOff _ _ _ _⟩
  case breaker =>
    exact fun s vo vi ii ht hs =>
      ⟨_, exec_faultTimerExpire_latches ht, latchedOff_latchOff _ _ _ _, saveBegun_faulted (cause := cOver) hs (by decide) _⟩
  case noTimer => exact fun s vo vi ii ht => exec_faultTimerExpire_idle ht
  case fastDark =>
    exact fun s vi ii hg hi hp => ⟨_, exec_fastTrip_latches hg hi, dieKept_faulted hp _ _, latchedOff_latchOff _ _ _ _⟩
  case fast =>
    exact fun s vi ii hg hi hs => ⟨_, exec_fastTrip_latches hg hi, latchedOff_latchOff _ _ _ _, saveBegun_faulted hs (by decide) _⟩
  case fastBelow => exact fun s vi ii hi => exec_fastTrip_below hi
  case hot =>
    exact fun s vi ii hb hl => ⟨_, exec_fetOvertemp_latches hb hl, latchedOff_latchOff _ _ _ _, fun hp => dieKept_faulted hp _ _⟩
  case hotLatched => exact fun s c vi ii hl => exec_fetOvertemp_latched hl
  case hotSaves =>
    exact fun s vi ii hb hl hs => ⟨_, exec_fetOvertemp_latches hb hl, latchedOff_latchOff _ _ _ _, saveBegun_faulted hs (by decide) _⟩
  case shortDark =>
    exact fun s vi ii hg hf hp => ⟨_, exec_fetShort_records hg hf, dieKept_faulted hp _ _, rfl, rfl, rfl, rfl, rfl⟩
  case short =>
    intro s vi ii hg hf hs
    obtain ⟨hsave, herr⟩ := saveBegun_faulted hs (cause := cFetShort) (by decide) (s.pwr.shorted vi ii)
    exact ⟨_, exec_fetShort_records hg hf, hsave, rfl, rfl, herr⟩
  case shortIgnored => exact fun s vi ii h => exec_fetShort_ignored h
  case degraded =>
    intro s vi ii hon hp hm
    have hrest := Mod.fetDegraded_rest hp hm s.pwr.ramps [vi, ii]
    exact ⟨_, exec_fetDegraded_logs hon hp, rfl, rfl, (congrArg Mod.mem hrest :), (congrArg Mod.vlt hrest :), (congrArg Mod.glb hrest :),
      rfl, hon, rfl, rfl, rfl, Mod.fetDegraded_err hp hm _ _⟩
  case overStart =>
    exact fun s ii hon ht hi => ⟨_, exec_overcurrentStart_starts hon ht hi, rfl, rfl, Mod.count_work _ _ _ _, rfl⟩
  case overStartBelow => exact fun s ii hi => exec_overcurrentStart_below hi
  case overEnd => exact fun s ii ht hi => exec_overcurrentEnd_stops ht hi
  case overEndAbove => exact fun s ii hi => exec_overcurrentEnd_above hi
  case restartHeld =>
    intro s c hb hl hc
    rw [exec_restart_clears hb (.inl rfl), Pwr.clear_held hl hc]
  case restart =>
    intro s c b hb hl hc hr
    refine ⟨_, exec_restart_clears hb hr, ⟨rfl, rfl, rfl⟩, ?_⟩
    rw [Pwr.clear_done hl hc]
    exact ⟨rfl, rfl, rfl, rfl⟩
  case restartDark => exact fun s hp => exec_restart_unread hp
  case cool => exact fun s hc => exec_coolDownExpire_plain hc
  case coolClears =>
    intro s c hh hl
    refine ⟨_, exec_coolDownExpire_clears hh, ⟨rfl, rfl, rfl⟩, ?_⟩
    rw [Pwr.clear_done (p := { s.pwr with coolDown := false }) hl rfl]
    exact ⟨rfl, rfl, rfl, rfl⟩

end Sys2Proof.Machine
end
